-- ==== Sys2Proof/Word.lean ====
section
/-! DEFINITION. The word types of the SVT-3 model and their plainest arithmetic. -/

namespace Sys2Proof

/-- One byte of the device address space (R218). -/
abbrev Byte := BitVec 8

/-- A 64-bit register of the register blocks, or a scalar g register (R122). -/
abbrev Word := BitVec 64

/-- A 48-bit device address register p0 to p15 (R122). -/
abbrev Addr := BitVec 48

/-- One FP32 lane, or one u32 lane, of a vector register (R122). -/
abbrev Lane := BitVec 32

/-- The 64 lanes of one vector register, lane 0 first (R122). -/
abbrev Lanes := List (BitVec 32)

/-- A core number, 0 to 95 (R17). -/
abbrev CoreId := Fin 96

/-- A K-link number, 0 to 47 (R236). -/
abbrev LinkId := Fin 48

end Sys2Proof
end

