-- ==== Sys2Proof/Config.lean ====
section
/-! DEFINITION. What an implementation fixes and the free values: constants with no body, so that no proof can see what
they are. -/

namespace Sys2Proof

/-- Free 64-bit values, named by the counter of State (assumption 5). -/
opaque Config.freeWord : Nat → BitVec 64

/-- Free bytes, named by the counter of State (assumption 5). -/
opaque Config.freeByte : Nat → BitVec 8

/-- The results that a core captures in one Rehearsal test, in their order, of the operands drawn at each index (assumption 40). -/
opaque Config.rehearsalTest : Nat → (Nat → BitVec 128) → List (BitVec 32)

/-- The SHA-256 of a vendor firmware key, slots 0 to 3, as the ROM holds it at reset (R380). -/
opaque Config.fwKeyHash : Nat → List (BitVec 8)

/-- The SHA-256 of a vendor token key, slots 0 to 3, as the ROM holds it at reset (R380). -/
opaque Config.tokenKeyHash : Nat → List (BitVec 8)

/-- The digest of the Stage Door's ROM (R392). -/
opaque Config.romDigest : List (BitVec 8)

/-- The hash of the vendor root CA's certificate (R391). -/
opaque Config.rootHash : List (BitVec 8)

/-- What the boot flash holds at reset: copies A and B of the firmware and of the microcode (R381; assumption 41). -/
opaque Config.bootFlash : Nat → List (BitVec 8)

/-- The identity key at reset: its modulus and its private exponent, big-endian (R380; assumption 41). -/
opaque Config.identityKey : List (BitVec 8) × List (BitVec 8)

end Sys2Proof
end

