-- ==== Sys2Proof/Machine/SMap.lean ====
section
/-! DEFINITION. Sparse stores in one canonical form: a list of key and value pairs with strictly rising keys that
lists no entry equal to the value an unlisted key reads as. Equal contents are equal lists. -/

namespace Sys2Proof.Machine

/-- A sparse store from Nat keys to values of `β`. -/
abbrev SMap (β : Type) := List (Nat × β)

/-- The value at key `k`; an unlisted key reads as `d`. -/
def SMap.get {β : Type} (d : β) : SMap β → Nat → β
  | [], _ => d
  | (a, v) :: m, k => if k = a then v else if k < a then d else SMap.get d m k

/-- Put a raw entry at key `k`, keeping the keys strictly rising. -/
def SMap.insert {β : Type} (m : SMap β) (k : Nat) (v : β) : SMap β :=
  match m with
  | [] => [(k, v)]
  | (a, w) :: m => if k = a then (k, v) :: m else if k < a then (k, v) :: (a, w) :: m else (a, w) :: SMap.insert m k v

/-- Take the entry at key `k` out of the list. -/
def SMap.erase {β : Type} (m : SMap β) (k : Nat) : SMap β :=
  match m with
  | [] => []
  | (a, w) :: m => if k = a then m else if k < a then (a, w) :: m else (a, w) :: SMap.erase m k

/-- Write `v` at key `k`: writing the value an unlisted key reads as removes the entry. -/
def SMap.set {β : Type} [DecidableEq β] (d : β) (m : SMap β) (k : Nat) (v : β) : SMap β :=
  if v = d then m.erase k else m.insert k v

/-- Change every listed value; an entry that comes to read as an unlisted key does is taken out. -/
def SMap.mapVals {β : Type} [DecidableEq β] (d : β) (f : β → β) (m : SMap β) : SMap β :=
  m.filterMap fun e => if f e.2 = d then none else some (e.1, f e.2)

/-- Every listed key is at least `b`, the keys rise strictly, and no listed value is the default `d k` of its key. -/
def SMap.wfFrom {β : Type} [DecidableEq β] (d : Nat → β) : Nat → SMap β → Bool
  | _, [] => true
  | b, (a, v) :: m => decide (b ≤ a) && !decide (v = d a) && SMap.wfFrom d (a + 1) m

/-- The canonical form, for a store whose unlisted key `k` reads as `d k`. -/
def SMap.wf {β : Type} [DecidableEq β] (d : Nat → β) (m : SMap β) : Bool := SMap.wfFrom d 0 m

end Sys2Proof.Machine
end

