-- ==== Sys2Proof/Machine/RegMap.lean ====
section
/-! DEFINITION. The register map: addresses of the register blocks (R220), every register and field of the spec's
register tables with its access kind, apply class (R322) and reset value. -/

namespace Sys2Proof.Machine

/-- Access of a register field. -/
inductive Acc where
  | ro | rw | w1c | wo
  deriving DecidableEq, Repr

/-- Apply class of a field (R322): T, Q, X, or effective at once. -/
inductive Apply where
  | t | q | x | now
  deriving DecidableEq, Repr

/-- A field of one register: the register's address, the field's lowest bit and its width. -/
structure Fld where
  reg : Nat
  lo : Nat
  w : Nat
  deriving DecidableEq, Repr

/-- A field row of a register table. -/
structure FieldRow where
  lo : Nat
  w : Nat
  acc : Acc
  apply : Apply
  deriving DecidableEq, Repr

/-- A register table row: whether it is per core, its first address (an offset in the core's block where per core),
the stride and count of an array of registers, its reset value and its fields. -/
structure RegRow where
  perCore : Bool
  base : Nat
  stride : Nat
  count : Nat
  reset : Nat
  fields : List FieldRow
  deriving DecidableEq, Repr

/-- The register blocks of core n (R220). -/
def coreBlock (n : CoreId) : Nat := 0xFF0001000000 + n.val * 0x10000

/-- R21. -/
def Reg.CFG_ASSEMBLY : Nat := 0xFF0000000000
/-- R47. -/
def Reg.SCN_LEN : Nat := 0xFF0000010000
/-- R47. -/
def Reg.SCN_BUDGET : Nat := 0xFF0000010008
/-- R47. -/
def Reg.SCN_COUNT : Nat := 0xFF0000010010
/-- R47. -/
def Reg.SCN_STATUS : Nat := 0xFF0000010018
/-- R47. -/
def Reg.SCN_OVR_INFO : Nat := 0xFF0000010020
/-- R47. -/
def Reg.SCN_OVR_SCENE : Nat := 0xFF0000010028
/-- R47. -/
def Reg.SCN_MARGIN : Nat := 0xFF0000010030
/-- R47. -/
def Reg.SCN_CTRL : Nat := 0xFF0000010038
/-- R48. -/
def Reg.TIM_ROLE : Nat := 0xFF0000020000
/-- R48. -/
def Reg.TIM_CTRL : Nat := 0xFF0000020008
/-- R48. -/
def Reg.TIM_EPOCH : Nat := 0xFF0000020010
/-- R48. -/
def Reg.TIM_CAPT : Nat := 0xFF0000020018
/-- R48. -/
def Reg.TIM_STATUS : Nat := 0xFF0000020020
/-- R48. -/
def Reg.TIM_CUE_PARENT : Nat := 0xFF0000020028
/-- R48. -/
def Reg.TIM_CUE_CHILD : Nat := 0xFF0000020030
/-- R48. -/
def Reg.TIM_OFFSET : Nat := 0xFF0000020038
/-- R48. -/
def Reg.TIM_NEXT_CUE : Nat := 0xFF0000020040
/-- R48. -/
def Reg.TIM_OUT_EN : Nat := 0xFF0000020048
/-- R48. -/
def Reg.TIM_SCENE_BASE : Nat := 0xFF0000020050
/-- R74. -/
def Reg.CFG_NC : Nat := 0xFF0000000008
/-- R111. -/
def Reg.TRL_STATUS (n : CoreId) : Nat := coreBlock n + 0x0
/-- R111. -/
def Reg.TRL_INJECT (n : CoreId) : Nat := coreBlock n + 0x8
/-- R111. -/
def Reg.TRL_NAN_WHERE (n : CoreId) : Nat := coreBlock n + 0x10
/-- R111. -/
def Reg.TRL_NAN_SCENE (n : CoreId) : Nat := coreBlock n + 0x18
/-- R111. -/
def Reg.TRL_NAN_COORD (n : CoreId) : Nat := coreBlock n + 0x20
/-- R111. -/
def Reg.TRL_NAN_BLOCK (n : CoreId) : Nat := coreBlock n + 0x28
/-- R111. -/
def Reg.TRL_RES_INFO (n : CoreId) : Nat := coreBlock n + 0x30
/-- R111. -/
def Reg.TRL_RES_COORD (n : CoreId) : Nat := coreBlock n + 0x38
/-- R111. -/
def Reg.TRL_PROMO (n : CoreId) : Nat := coreBlock n + 0x40
/-- R111. -/
def Reg.TRL_SLIP (n : CoreId) : Nat := coreBlock n + 0x48
/-- R111. -/
def Reg.TRL_USE (n : CoreId) : Nat := coreBlock n + 0x50
/-- R146. -/
def Reg.SCN_SEQ : Nat := 0xFF0000010040
/-- R146. -/
def Reg.SCN_STEP : Nat := 0xFF0000010048
/-- R146. -/
def Reg.SCN_BOOK_SET : Nat := 0xFF0000010050
/-- R146. -/
def Reg.SCN_LOAD_STATUS : Nat := 0xFF0000010058
/-- R146. -/
def Reg.SCN_SPEC_COUNT : Nat := 0xFF0000010060
/-- R146. -/
def Reg.SCN_SPEC_STATUS : Nat := 0xFF0000010068
/-- R146. -/
def Reg.SCN_SLIP_MAX : Nat := 0xFF0000010070
/-- R146. -/
def Reg.SCN_PHASE_LOST : Nat := 0xFF0000010078
/-- R146. -/
def Reg.SCN_SLOT_ID (i : Nat) : Nat := 0xFF0000010400 + 0x10 * i
/-- R146. -/
def Reg.SCN_SLOT_POS (i : Nat) : Nat := 0xFF0000010408 + 0x10 * i
/-- R147. -/
def Reg.CFG_SPEC : Nat := 0xFF0000000010
/-- R195. -/
def Reg.CFR_STATUS (n : CoreId) : Nat := coreBlock n + 0x1000
/-- R195. -/
def Reg.CFR_OVF_BASE (n : CoreId) : Nat := coreBlock n + 0x1008
/-- R195. -/
def Reg.CFR_OVF_SIZE (n : CoreId) : Nat := coreBlock n + 0x1010
/-- R195. -/
def Reg.CFR_USE (n : CoreId) : Nat := coreBlock n + 0x1018
/-- R195. -/
def Reg.CFR_EVICT (n : CoreId) : Nat := coreBlock n + 0x1020
/-- R195. -/
def Reg.CFR_EVICT_SCENE (n : CoreId) : Nat := coreBlock n + 0x1028
/-- R195. -/
def Reg.CFR_FAULT_INFO (n : CoreId) : Nat := coreBlock n + 0x1030
/-- R195. -/
def Reg.CFR_INJECT (n : CoreId) : Nat := coreBlock n + 0x1038
/-- R215. -/
def Reg.TRL_REPOT (n : CoreId) : Nat := coreBlock n + 0x58
/-- R216. -/
def Reg.WLT_CTRL : Nat := 0xFF0000030000
/-- R216. -/
def Reg.WLT_STATUS : Nat := 0xFF0000030008
/-- R216. -/
def Reg.WLT_TAG (i : Nat) : Nat := 0xFF0000030100 + 0x8 * i
/-- R216. -/
def Reg.WLT_COUNT (i : Nat) : Nat := 0xFF0000030900 + 0x8 * i
/-- R217. -/
def Reg.CFG_HIST_BASE : Nat := 0xFF0000000018
/-- R217. -/
def Reg.CFG_HIST : Nat := 0xFF0000000020
/-- R234. -/
def Reg.SPD_STATUS (n : CoreId) : Nat := coreBlock n + 0x2000
/-- R234. -/
def Reg.SPD_CORR (n : CoreId) : Nat := coreBlock n + 0x2008
/-- R234. -/
def Reg.SPD_FAULT_INFO (n : CoreId) : Nat := coreBlock n + 0x2010
/-- R234. -/
def Reg.SPD_FAULT_ADDR (n : CoreId) : Nat := coreBlock n + 0x2018
/-- R234. -/
def Reg.SPD_INJECT (n : CoreId) : Nat := coreBlock n + 0x2020
/-- R235. -/
def Reg.MEM_CTRL : Nat := 0xFF00000F0000
/-- R235. -/
def Reg.MEM_STATUS (i : Nat) : Nat := 0xFF00000F0100 + 0x100 * i
/-- R235. -/
def Reg.MEM_CORR (i : Nat) : Nat := 0xFF00000F0108 + 0x100 * i
/-- R235. -/
def Reg.MEM_ERR_ADDR (i : Nat) : Nat := 0xFF00000F0110 + 0x100 * i
/-- R235. -/
def Reg.MEM_SCRUB (i : Nat) : Nat := 0xFF00000F0118 + 0x100 * i
/-- R235. -/
def Reg.MEM_INJECT (i : Nat) : Nat := 0xFF00000F0120 + 0x100 * i
/-- R268. -/
def Reg.FAB_NODE : Nat := 0xFF00000A0000
/-- R268. -/
def Reg.FAB_EPOCH : Nat := 0xFF00000A0008
/-- R268. -/
def Reg.FAB_SWITCH_SCENE : Nat := 0xFF00000A0010
/-- R268. -/
def Reg.FAB_CTRL : Nat := 0xFF00000A0018
/-- R268. -/
def Reg.FAB_STATUS : Nat := 0xFF00000A0020
/-- R268. -/
def Reg.FAB_DROP_COUNT : Nat := 0xFF00000A0028
/-- R268. -/
def Reg.FAB_DROP_COUNT2 : Nat := 0xFF00000A0030
/-- R268. -/
def Reg.FAB_DROP_INFO : Nat := 0xFF00000A0038
/-- R268. -/
def Reg.FAB_ILLEGAL_INFO : Nat := 0xFF00000A0040
/-- R268. -/
def Reg.FAB_REQ_BASE : Nat := 0xFF00000A0048
/-- R268. -/
def Reg.FAB_REQ_SIZE : Nat := 0xFF00000A0050
/-- R268. -/
def Reg.FAB_HOPMAP (i : Nat) : Nat := 0xFF00000A1000 + 0x8 * i
/-- R268. -/
def Reg.FAB_RES (i : Nat) : Nat := 0xFF00000A4000 + 0x8 * i
/-- R269. -/
def Reg.KL_CTRL (i : Nat) : Nat := 0xFF00000B0100 + 0x100 * i
/-- R269. -/
def Reg.KL_STATUS (i : Nat) : Nat := 0xFF00000B0108 + 0x100 * i
/-- R269. -/
def Reg.KL_LATENCY (i : Nat) : Nat := 0xFF00000B0110 + 0x100 * i
/-- R269. -/
def Reg.KL_ERR (i : Nat) : Nat := 0xFF00000B0118 + 0x100 * i
/-- R269. -/
def Reg.KL_INJECT (i : Nat) : Nat := 0xFF00000B0120 + 0x100 * i
/-- R289. -/
def Reg.XCL_STATUS : Nat := 0xFF00000C0000
/-- R289. -/
def Reg.XCL_INFO : Nat := 0xFF00000C0008
/-- R289. -/
def Reg.XCL_LEFTOVER : Nat := 0xFF00000C0010
/-- R289. -/
def Reg.XCL_INJECT : Nat := 0xFF00000C0018
/-- R289. -/
def Reg.XCL_RMAP (i : Nat) : Nat := 0xFF00000C0800 + 0x8 * i
/-- R290. -/
def Reg.XCL_RCTX_CFG (i : Nat) : Nat := 0xFF00000C4000 + 0x40 * i
/-- R290. -/
def Reg.XCL_RCTX_OUT (i : Nat) : Nat := 0xFF00000C4008 + 0x40 * i
/-- R290. -/
def Reg.XCL_RCTX_ROUTE0 (i : Nat) : Nat := 0xFF00000C4010 + 0x40 * i
/-- R290. -/
def Reg.XCL_RCTX_ROUTE1 (i : Nat) : Nat := 0xFF00000C4018 + 0x40 * i
/-- R290. -/
def Reg.XCL_RCTX_ROUTE2 (i : Nat) : Nat := 0xFF00000C4020 + 0x40 * i
/-- R290. -/
def Reg.XCL_RCTX_STATE (i : Nat) : Nat := 0xFF00000C4028 + 0x40 * i
/-- R291. -/
def Reg.XCL_SHARD_BASE (i : Nat) : Nat := 0xFF00000C8000 + 0x10 * i
/-- R291. -/
def Reg.XCL_SHARD_LEN (i : Nat) : Nat := 0xFF00000C8008 + 0x10 * i
/-- R291. -/
def Reg.XCL_WIT_CTRL (i : Nat) : Nat := 0xFF00000CC000 + 0x40 * i
/-- R291. -/
def Reg.XCL_WIT_BASE (i : Nat) : Nat := 0xFF00000CC008 + 0x40 * i
/-- R291. -/
def Reg.XCL_WIT_SHAPE (i : Nat) : Nat := 0xFF00000CC010 + 0x40 * i
/-- R291. -/
def Reg.XCL_WIT_STRIDE (i : Nat) : Nat := 0xFF00000CC018 + 0x40 * i
/-- R291. -/
def Reg.XCL_WIT_ORIGIN (i : Nat) : Nat := 0xFF00000CC020 + 0x40 * i
/-- R291. -/
def Reg.XCL_WIT_DIGEST (i : Nat) : Nat := 0xFF00000CC028 + 0x40 * i
/-- R291. -/
def Reg.XCL_WIT_STEP (i : Nat) : Nat := 0xFF00000CC030 + 0x40 * i
/-- R291. -/
def Reg.XCL_WIT_STATE (i : Nat) : Nat := 0xFF00000CC038 + 0x40 * i
/-- R311. -/
def Reg.HST_STATUS : Nat := 0xFF0000040000
/-- R311. -/
def Reg.HST_CMD : Nat := 0xFF0000040008
/-- R311. -/
def Reg.HST_CPL_BASE : Nat := 0xFF0000040010
/-- R311. -/
def Reg.HST_CPL_CTRL : Nat := 0xFF0000040018
/-- R311. -/
def Reg.HST_CPL_HEAD : Nat := 0xFF0000040020
/-- R311. -/
def Reg.HST_CPL_TAIL : Nat := 0xFF0000040028
/-- R311. -/
def Reg.HST_TEL_BASE : Nat := 0xFF0000040030
/-- R311. -/
def Reg.HST_TEL_PHASE : Nat := 0xFF0000040038
/-- R311. -/
def Reg.HST_TEL_EVENT : Nat := 0xFF0000040040
/-- R311. -/
def Reg.HST_TEL_TRACE : Nat := 0xFF0000040048
/-- R311. -/
def Reg.HST_TEL_LOST : Nat := 0xFF0000040050
/-- R311. -/
def Reg.HST_INT : Nat := 0xFF0000040058
/-- R311. -/
def Reg.HST_MSIX (i : Nat) : Nat := 0xFF0000048000 + 0x8 * i
/-- R311. -/
def Reg.HST_PBA : Nat := 0xFF000004C000
/-- R328. -/
def Reg.SMG_STATUS : Nat := 0xFF0000050000
/-- R328. -/
def Reg.SMG_APPLY : Nat := 0xFF0000050008
/-- R328. -/
def Reg.SMG_APPLY_SCENE : Nat := 0xFF0000050010
/-- R329. -/
def Reg.PWR_STATE : Nat := 0xFF0000060000
/-- R329. -/
def Reg.PWR_BUDGET : Nat := 0xFF0000060008
/-- R329. -/
def Reg.PWR_PKG : Nat := 0xFF0000060010
/-- R329. -/
def Reg.PWR_STATUS : Nat := 0xFF0000060018
/-- R329. -/
def Reg.PWR_TRIP_INFO : Nat := 0xFF0000060020
/-- R329. -/
def Reg.PWR_TRIP_TIME : Nat := 0xFF0000060028
/-- R329. -/
def Reg.PWR_RAIL (i : Nat) : Nat := 0xFF0000060100 + 0x8 * i
/-- R330. -/
def Reg.SVC_STATUS : Nat := 0xFF00000E0000
/-- R330. -/
def Reg.SVC_ERR_INFO : Nat := 0xFF00000E0008
/-- R330. -/
def Reg.SVC_ARB (i : Nat) : Nat := 0xFF00000E0010 + 0x8 * i
/-- R352. -/
def Reg.FLT_STATUS : Nat := 0xFF0000070000
/-- R352. -/
def Reg.FLT_CTRL : Nat := 0xFF0000070008
/-- R352. -/
def Reg.FLT_SUSPECT_INFO : Nat := 0xFF0000070010
/-- R352. -/
def Reg.FLT_SUSPECT_SCENE : Nat := 0xFF0000070018
/-- R352. -/
def Reg.FLT_FUSE : Nat := 0xFF0000070020
/-- R352. -/
def Reg.FLT_INT_PEND : Nat := 0xFF0000070028
/-- R352. -/
def Reg.FLT_SRC_CFG (i : Nat) : Nat := 0xFF0000070110 + 0x10 * (i - 1)
/-- R352. -/
def Reg.FLT_SRC_STATE (i : Nat) : Nat := 0xFF0000070118 + 0x10 * (i - 1)
/-- R353. -/
def Reg.VEC_STATUS (n : CoreId) : Nat := coreBlock n + 0x4000
/-- R354. -/
def Reg.RHS_CTRL : Nat := 0xFF0000080000
/-- R354. -/
def Reg.RHS_STATUS : Nat := 0xFF0000080008
/-- R354. -/
def Reg.RHS_ROUND : Nat := 0xFF0000080010
/-- R354. -/
def Reg.RHS_DUE : Nat := 0xFF0000080018
/-- R354. -/
def Reg.RHS_SEED : Nat := 0xFF0000080020
/-- R354. -/
def Reg.RHS_FAIL_INFO : Nat := 0xFF0000080028
/-- R354. -/
def Reg.RHS_FAIL_SCENE : Nat := 0xFF0000080030
/-- R354. -/
def Reg.RHS_INJECT : Nat := 0xFF0000080038
/-- R354. -/
def Reg.RHS_CORE (i : Nat) : Nat := 0xFF0000080100 + 0x10 * i
/-- R354. -/
def Reg.RHS_CORE_STEP (i : Nat) : Nat := 0xFF0000080108 + 0x10 * i
/-- R355. -/
def Reg.FRW_CTRL : Nat := 0xFF0000090000
/-- R355. -/
def Reg.FRW_SCORE : Nat := 0xFF0000090008
/-- R355. -/
def Reg.FRW_IN_CFG (i : Nat) : Nat := 0xFF0000090100 + 0x10 * i
/-- R355. -/
def Reg.FRW_IN_STATE (i : Nat) : Nat := 0xFF0000090108 + 0x10 * i
/-- R376. -/
def Reg.SCN_RESTORE : Nat := 0xFF0000010080
/-- R376. -/
def Reg.SCN_RESTORE_INFO : Nat := 0xFF0000010088
/-- R376. -/
def Reg.SCN_DATAPOS : Nat := 0xFF0000010090
/-- R376. -/
def Reg.SCN_CKP : Nat := 0xFF0000010098
/-- R376. -/
def Reg.SCN_CKP_LAST : Nat := 0xFF00000100A0
/-- R376. -/
def Reg.SCN_CKP_ID : Nat := 0xFF00000100A8
/-- R377. -/
def Reg.XCL_TWIN_CTRL : Nat := 0xFF00000CD000
/-- R377. -/
def Reg.XCL_TWIN_PEER : Nat := 0xFF00000CD008
/-- R377. -/
def Reg.XCL_TWIN_ROUTE0 : Nat := 0xFF00000CD010
/-- R377. -/
def Reg.XCL_TWIN_ROUTE1 : Nat := 0xFF00000CD018
/-- R377. -/
def Reg.XCL_TWIN_ROUTE2 : Nat := 0xFF00000CD020
/-- R377. -/
def Reg.XCL_TWIN_INBOX : Nat := 0xFF00000CD028
/-- R377. -/
def Reg.XCL_TWIN_PINBOX : Nat := 0xFF00000CD030
/-- R377. -/
def Reg.XCL_TWIN_STATUS : Nat := 0xFF00000CD038
/-- R377. -/
def Reg.XCL_TWIN_COUNT : Nat := 0xFF00000CD040
/-- R377. -/
def Reg.XCL_TWIN_MM : Nat := 0xFF00000CD048
/-- R377. -/
def Reg.XCL_TWIN_MM_OWN : Nat := 0xFF00000CD050
/-- R377. -/
def Reg.XCL_TWIN_MM_PEER : Nat := 0xFF00000CD058
/-- R396. -/
def Reg.SDR_STATUS : Nat := 0xFF00000D0000
/-- R396. -/
def Reg.SDR_CTRL : Nat := 0xFF00000D0008
/-- R396. -/
def Reg.SDR_ZEROISE_KEY : Nat := 0xFF00000D0010
/-- R396. -/
def Reg.SDR_NONCE_LO : Nat := 0xFF00000D0018
/-- R396. -/
def Reg.SDR_NONCE_HI : Nat := 0xFF00000D0020
/-- R396. -/
def Reg.SDR_DEBUG : Nat := 0xFF00000D0028
/-- R396. -/
def Reg.SDR_FW : Nat := 0xFF00000D0030
/-- R396. -/
def Reg.SDR_FW_STAGE : Nat := 0xFF00000D0038
/-- R396. -/
def Reg.SDR_KEY_REVOKE : Nat := 0xFF00000D0040
/-- R396. -/
def Reg.SDR_UID_LO : Nat := 0xFF00000D0048
/-- R396. -/
def Reg.SDR_UID_HI : Nat := 0xFF00000D0050
/-- R396. -/
def Reg.SDR_TEST : Nat := 0xFF00000D0058
/-- R410. -/
def Reg.SMG_BOOT : Nat := 0xFF0000050018
/-- R411. -/
def Reg.SCN_DBG_HALT0 : Nat := 0xFF00000100B0
/-- R411. -/
def Reg.SCN_DBG_HALT1 : Nat := 0xFF00000100B8
/-- R426. -/
def Reg.CFG_STRAP : Nat := 0xFF0000000028
/-- R427. -/
def Reg.PWR_THERM : Nat := 0xFF0000060030
/-- R427. -/
def Reg.PWR_VIN : Nat := 0xFF0000060038

def Fld.CFG_ASSEMBLY_STACKS : Fld := ⟨Reg.CFG_ASSEMBLY, 0, 4⟩
def Fld.CFG_ASSEMBLY_LINK_DIES : Fld := ⟨Reg.CFG_ASSEMBLY, 4, 3⟩
def Fld.CFG_ASSEMBLY_VARIANT : Fld := ⟨Reg.CFG_ASSEMBLY, 8, 8⟩
def Fld.CFG_ASSEMBLY_CORES : Fld := ⟨Reg.CFG_ASSEMBLY, 16, 8⟩
def Fld.CFG_ASSEMBLY_MODULE_STEP : Fld := ⟨Reg.CFG_ASSEMBLY, 24, 8⟩
def Fld.SCN_LEN_LEN : Fld := ⟨Reg.SCN_LEN, 0, 24⟩
def Fld.SCN_BUDGET_B : Fld := ⟨Reg.SCN_BUDGET, 0, 24⟩
def Fld.SCN_COUNT_SCENE : Fld := ⟨Reg.SCN_COUNT, 0, 64⟩
def Fld.SCN_STATUS_OVERRUN : Fld := ⟨Reg.SCN_STATUS, 0, 1⟩
def Fld.SCN_STATUS_HALTED : Fld := ⟨Reg.SCN_STATUS, 1, 1⟩
def Fld.SCN_STATUS_LEN_MISMATCH : Fld := ⟨Reg.SCN_STATUS, 2, 1⟩
def Fld.SCN_STATUS_LEN_INVALID : Fld := ⟨Reg.SCN_STATUS, 3, 1⟩
def Fld.SCN_STATUS_CUE_MISSED : Fld := ⟨Reg.SCN_STATUS, 4, 1⟩
def Fld.SCN_STATUS_CUE_LOST : Fld := ⟨Reg.SCN_STATUS, 5, 1⟩
def Fld.SCN_STATUS_CUE_SEQ : Fld := ⟨Reg.SCN_STATUS, 6, 1⟩
def Fld.SCN_STATUS_LEN_BUDGET : Fld := ⟨Reg.SCN_STATUS, 7, 1⟩
def Fld.SCN_OVR_INFO_CORE : Fld := ⟨Reg.SCN_OVR_INFO, 0, 7⟩
def Fld.SCN_OVR_INFO_LATE : Fld := ⟨Reg.SCN_OVR_INFO, 8, 24⟩
def Fld.SCN_OVR_SCENE_SCENE : Fld := ⟨Reg.SCN_OVR_SCENE, 0, 64⟩
def Fld.SCN_MARGIN_MIN : Fld := ⟨Reg.SCN_MARGIN, 0, 24⟩
def Fld.SCN_CTRL_CLEAR_HALT : Fld := ⟨Reg.SCN_CTRL, 0, 1⟩
def Fld.TIM_ROLE_ROOT : Fld := ⟨Reg.TIM_ROLE, 0, 1⟩
def Fld.TIM_CTRL_CUE_EN : Fld := ⟨Reg.TIM_CTRL, 0, 1⟩
def Fld.TIM_EPOCH_EPOCH : Fld := ⟨Reg.TIM_EPOCH, 0, 64⟩
def Fld.TIM_CAPT_TIME : Fld := ⟨Reg.TIM_CAPT, 0, 64⟩
def Fld.TIM_STATUS_LOCKED : Fld := ⟨Reg.TIM_STATUS, 0, 1⟩
def Fld.TIM_STATUS_EPOCH_VALID : Fld := ⟨Reg.TIM_STATUS, 1, 1⟩
def Fld.TIM_STATUS_HOLDOVER : Fld := ⟨Reg.TIM_STATUS, 2, 1⟩
def Fld.TIM_STATUS_EPOCH_LOCKED : Fld := ⟨Reg.TIM_STATUS, 3, 1⟩
def Fld.TIM_STATUS_ROOT_CONFLICT : Fld := ⟨Reg.TIM_STATUS, 4, 1⟩
def Fld.TIM_STATUS_TREE_DEEP : Fld := ⟨Reg.TIM_STATUS, 5, 1⟩
def Fld.TIM_STATUS_TREE_SLOW : Fld := ⟨Reg.TIM_STATUS, 6, 1⟩
def Fld.TIM_STATUS_TREE_EMPTY : Fld := ⟨Reg.TIM_STATUS, 7, 1⟩
def Fld.TIM_STATUS_DEPTH : Fld := ⟨Reg.TIM_STATUS, 8, 5⟩
def Fld.TIM_STATUS_STRAY : Fld := ⟨Reg.TIM_STATUS, 32, 16⟩
def Fld.TIM_CUE_PARENT_PORT : Fld := ⟨Reg.TIM_CUE_PARENT, 0, 6⟩
def Fld.TIM_CUE_CHILD_MASK : Fld := ⟨Reg.TIM_CUE_CHILD, 0, 48⟩
def Fld.TIM_OFFSET_OFFSET : Fld := ⟨Reg.TIM_OFFSET, 0, 32⟩
def Fld.TIM_NEXT_CUE_TIME : Fld := ⟨Reg.TIM_NEXT_CUE, 0, 64⟩
def Fld.TIM_OUT_EN_CUE : Fld := ⟨Reg.TIM_OUT_EN, 0, 1⟩
def Fld.TIM_OUT_EN_PPS : Fld := ⟨Reg.TIM_OUT_EN, 1, 1⟩
def Fld.TIM_OUT_EN_REF : Fld := ⟨Reg.TIM_OUT_EN, 2, 1⟩
def Fld.TIM_SCENE_BASE_SCENE : Fld := ⟨Reg.TIM_SCENE_BASE, 0, 63⟩
def Fld.TIM_SCENE_BASE_ARM : Fld := ⟨Reg.TIM_SCENE_BASE, 63, 1⟩
def Fld.CFG_NC_IMPL : Fld := ⟨Reg.CFG_NC, 0, 3⟩
def Fld.CFG_NC_CAP : Fld := ⟨Reg.CFG_NC, 8, 2⟩
def Fld.TRL_STATUS_RES_FAIL (n : CoreId) : Fld := ⟨(Reg.TRL_STATUS n), 0, 1⟩
def Fld.TRL_STATUS_NAN_TRAP (n : CoreId) : Fld := ⟨(Reg.TRL_STATUS n), 1, 1⟩
def Fld.TRL_STATUS_PROMOTE (n : CoreId) : Fld := ⟨(Reg.TRL_STATUS n), 2, 1⟩
def Fld.TRL_STATUS_WOVF (n : CoreId) : Fld := ⟨(Reg.TRL_STATUS n), 3, 1⟩
def Fld.TRL_STATUS_FENCE_SLIP (n : CoreId) : Fld := ⟨(Reg.TRL_STATUS n), 4, 1⟩
def Fld.TRL_STATUS_CNT_SAT (n : CoreId) : Fld := ⟨(Reg.TRL_STATUS n), 5, 1⟩
def Fld.TRL_INJECT_RES (n : CoreId) : Fld := ⟨(Reg.TRL_INJECT n), 0, 1⟩
def Fld.TRL_INJECT_SEC (n : CoreId) : Fld := ⟨(Reg.TRL_INJECT n), 1, 1⟩
def Fld.TRL_NAN_WHERE_TILE (n : CoreId) : Fld := ⟨(Reg.TRL_NAN_WHERE n), 0, 4⟩
def Fld.TRL_NAN_WHERE_BUNDLE (n : CoreId) : Fld := ⟨(Reg.TRL_NAN_WHERE n), 32, 32⟩
def Fld.TRL_NAN_SCENE_SCENE (n : CoreId) : Fld := ⟨(Reg.TRL_NAN_SCENE n), 0, 64⟩
def Fld.TRL_NAN_COORD_ROW (n : CoreId) : Fld := ⟨(Reg.TRL_NAN_COORD n), 0, 32⟩
def Fld.TRL_NAN_COORD_COL (n : CoreId) : Fld := ⟨(Reg.TRL_NAN_COORD n), 32, 32⟩
def Fld.TRL_NAN_BLOCK_BLOCK (n : CoreId) : Fld := ⟨(Reg.TRL_NAN_BLOCK n), 0, 48⟩
def Fld.TRL_RES_INFO_TRACKED (n : CoreId) : Fld := ⟨(Reg.TRL_RES_INFO n), 0, 13⟩
def Fld.TRL_RES_INFO_FOLDED (n : CoreId) : Fld := ⟨(Reg.TRL_RES_INFO n), 16, 13⟩
def Fld.TRL_RES_INFO_TILE (n : CoreId) : Fld := ⟨(Reg.TRL_RES_INFO n), 32, 4⟩
def Fld.TRL_RES_COORD_ROW (n : CoreId) : Fld := ⟨(Reg.TRL_RES_COORD n), 0, 32⟩
def Fld.TRL_RES_COORD_COL (n : CoreId) : Fld := ⟨(Reg.TRL_RES_COORD n), 32, 32⟩
def Fld.TRL_PROMO_COUNT (n : CoreId) : Fld := ⟨(Reg.TRL_PROMO n), 0, 32⟩
def Fld.TRL_PROMO_CYCLES (n : CoreId) : Fld := ⟨(Reg.TRL_PROMO n), 32, 32⟩
def Fld.TRL_SLIP_CYCLES (n : CoreId) : Fld := ⟨(Reg.TRL_SLIP n), 0, 32⟩
def Fld.TRL_USE_GRANULES (n : CoreId) : Fld := ⟨(Reg.TRL_USE n), 0, 10⟩
def Fld.TRL_USE_TILES (n : CoreId) : Fld := ⟨(Reg.TRL_USE n), 16, 7⟩
def Fld.SCN_SEQ_POS : Fld := ⟨Reg.SCN_SEQ, 0, 16⟩
def Fld.SCN_STEP_STEP : Fld := ⟨Reg.SCN_STEP, 0, 64⟩
def Fld.SCN_BOOK_SET_SET_ID : Fld := ⟨Reg.SCN_BOOK_SET, 0, 64⟩
def Fld.SCN_LOAD_STATUS_CODE : Fld := ⟨Reg.SCN_LOAD_STATUS, 0, 8⟩
def Fld.SCN_LOAD_STATUS_CORE : Fld := ⟨Reg.SCN_LOAD_STATUS, 8, 7⟩
def Fld.SCN_LOAD_STATUS_LOADED : Fld := ⟨Reg.SCN_LOAD_STATUS, 15, 1⟩
def Fld.SCN_LOAD_STATUS_PROGRAM : Fld := ⟨Reg.SCN_LOAD_STATUS, 16, 16⟩
def Fld.SCN_LOAD_STATUS_BUNDLE : Fld := ⟨Reg.SCN_LOAD_STATUS, 32, 32⟩
def Fld.SCN_SPEC_COUNT_CONFIRMED : Fld := ⟨Reg.SCN_SPEC_COUNT, 0, 32⟩
def Fld.SCN_SPEC_COUNT_SQUASHED : Fld := ⟨Reg.SCN_SPEC_COUNT, 32, 32⟩
def Fld.SCN_SPEC_STATUS_ABANDON : Fld := ⟨Reg.SCN_SPEC_STATUS, 0, 1⟩
def Fld.SCN_SPEC_STATUS_ESCAPE : Fld := ⟨Reg.SCN_SPEC_STATUS, 1, 1⟩
def Fld.SCN_SPEC_STATUS_EARLY : Fld := ⟨Reg.SCN_SPEC_STATUS, 2, 1⟩
def Fld.SCN_SPEC_STATUS_CORE : Fld := ⟨Reg.SCN_SPEC_STATUS, 8, 7⟩
def Fld.SCN_SLIP_MAX_CYCLES : Fld := ⟨Reg.SCN_SLIP_MAX, 0, 24⟩
def Fld.SCN_SLIP_MAX_CORE : Fld := ⟨Reg.SCN_SLIP_MAX, 24, 7⟩
def Fld.SCN_PHASE_LOST_COUNT : Fld := ⟨Reg.SCN_PHASE_LOST, 0, 32⟩
def Fld.SCN_SLOT_ID_SEQ_ID (i : Nat) : Fld := ⟨(Reg.SCN_SLOT_ID i), 0, 48⟩
def Fld.SCN_SLOT_ID_BOUND (i : Nat) : Fld := ⟨(Reg.SCN_SLOT_ID i), 48, 1⟩
def Fld.SCN_SLOT_POS_POS (i : Nat) : Fld := ⟨(Reg.SCN_SLOT_POS i), 0, 32⟩
def Fld.CFG_SPEC_EN : Fld := ⟨Reg.CFG_SPEC, 0, 1⟩
def Fld.CFR_STATUS_FULL (n : CoreId) : Fld := ⟨(Reg.CFR_STATUS n), 0, 1⟩
def Fld.CFR_STATUS_STALE (n : CoreId) : Fld := ⟨(Reg.CFR_STATUS n), 1, 1⟩
def Fld.CFR_STATUS_FAULT (n : CoreId) : Fld := ⟨(Reg.CFR_STATUS n), 2, 1⟩
def Fld.CFR_STATUS_OVF_INVALID (n : CoreId) : Fld := ⟨(Reg.CFR_STATUS n), 3, 1⟩
def Fld.CFR_OVF_BASE_BASE (n : CoreId) : Fld := ⟨(Reg.CFR_OVF_BASE n), 0, 48⟩
def Fld.CFR_OVF_SIZE_PAGES (n : CoreId) : Fld := ⟨(Reg.CFR_OVF_SIZE n), 0, 21⟩
def Fld.CFR_USE_FRAME (n : CoreId) : Fld := ⟨(Reg.CFR_USE n), 0, 13⟩
def Fld.CFR_USE_OVF (n : CoreId) : Fld := ⟨(Reg.CFR_USE n), 16, 21⟩
def Fld.CFR_EVICT_COUNT (n : CoreId) : Fld := ⟨(Reg.CFR_EVICT n), 0, 32⟩
def Fld.CFR_EVICT_PLAN (n : CoreId) : Fld := ⟨(Reg.CFR_EVICT n), 32, 12⟩
def Fld.CFR_EVICT_TAG (n : CoreId) : Fld := ⟨(Reg.CFR_EVICT n), 48, 16⟩
def Fld.CFR_EVICT_SCENE_SCENE (n : CoreId) : Fld := ⟨(Reg.CFR_EVICT_SCENE n), 0, 64⟩
def Fld.CFR_FAULT_INFO_KIND (n : CoreId) : Fld := ⟨(Reg.CFR_FAULT_INFO n), 0, 4⟩
def Fld.CFR_FAULT_INFO_PLAN (n : CoreId) : Fld := ⟨(Reg.CFR_FAULT_INFO n), 8, 12⟩
def Fld.CFR_FAULT_INFO_BUNDLE (n : CoreId) : Fld := ⟨(Reg.CFR_FAULT_INFO n), 32, 32⟩
def Fld.CFR_INJECT_SEC (n : CoreId) : Fld := ⟨(Reg.CFR_INJECT n), 0, 1⟩
def Fld.TRL_REPOT_FORMAT (n : CoreId) : Fld := ⟨(Reg.TRL_REPOT n), 0, 16⟩
def Fld.TRL_REPOT_UNGUARDED (n : CoreId) : Fld := ⟨(Reg.TRL_REPOT n), 16, 16⟩
def Fld.TRL_REPOT_LAST_TAG (n : CoreId) : Fld := ⟨(Reg.TRL_REPOT n), 32, 16⟩
def Fld.TRL_REPOT_LAST_KINDS (n : CoreId) : Fld := ⟨(Reg.TRL_REPOT n), 48, 3⟩
def Fld.WLT_CTRL_ALARM_EN : Fld := ⟨Reg.WLT_CTRL, 0, 1⟩
def Fld.WLT_CTRL_STEPS : Fld := ⟨Reg.WLT_CTRL, 16, 10⟩
def Fld.WLT_CTRL_FRAC : Fld := ⟨Reg.WLT_CTRL, 32, 10⟩
def Fld.WLT_STATUS_ALARM : Fld := ⟨Reg.WLT_STATUS, 0, 1⟩
def Fld.WLT_STATUS_LONG : Fld := ⟨Reg.WLT_STATUS, 1, 1⟩
def Fld.WLT_TAG_TAG (i : Nat) : Fld := ⟨(Reg.WLT_TAG i), 0, 16⟩
def Fld.WLT_TAG_VALID (i : Nat) : Fld := ⟨(Reg.WLT_TAG i), 16, 1⟩
def Fld.WLT_COUNT_COUNT (i : Nat) : Fld := ⟨(Reg.WLT_COUNT i), 0, 20⟩
def Fld.CFG_HIST_BASE_BASE : Fld := ⟨Reg.CFG_HIST_BASE, 0, 48⟩
def Fld.CFG_HIST_COUNT : Fld := ⟨Reg.CFG_HIST, 0, 17⟩
def Fld.CFG_HIST_INVALID : Fld := ⟨Reg.CFG_HIST, 32, 1⟩
def Fld.SPD_STATUS_CORR (n : CoreId) : Fld := ⟨(Reg.SPD_STATUS n), 0, 1⟩
def Fld.SPD_STATUS_UNCORR (n : CoreId) : Fld := ⟨(Reg.SPD_STATUS n), 1, 1⟩
def Fld.SPD_STATUS_ADDR (n : CoreId) : Fld := ⟨(Reg.SPD_STATUS n), 2, 1⟩
def Fld.SPD_STATUS_STACK (n : CoreId) : Fld := ⟨(Reg.SPD_STATUS n), 3, 1⟩
def Fld.SPD_CORR_COUNT (n : CoreId) : Fld := ⟨(Reg.SPD_CORR n), 0, 32⟩
def Fld.SPD_FAULT_INFO_KIND (n : CoreId) : Fld := ⟨(Reg.SPD_FAULT_INFO n), 0, 3⟩
def Fld.SPD_FAULT_INFO_SLOT (n : CoreId) : Fld := ⟨(Reg.SPD_FAULT_INFO n), 3, 3⟩
def Fld.SPD_FAULT_INFO_BUNDLE (n : CoreId) : Fld := ⟨(Reg.SPD_FAULT_INFO n), 32, 32⟩
def Fld.SPD_FAULT_ADDR_ADDR (n : CoreId) : Fld := ⟨(Reg.SPD_FAULT_ADDR n), 0, 48⟩
def Fld.SPD_INJECT_SEC (n : CoreId) : Fld := ⟨(Reg.SPD_INJECT n), 0, 1⟩
def Fld.MEM_CTRL_SCRUB_EN : Fld := ⟨Reg.MEM_CTRL, 0, 1⟩
def Fld.MEM_STATUS_CORR (i : Nat) : Fld := ⟨(Reg.MEM_STATUS i), 0, 1⟩
def Fld.MEM_STATUS_UNCORR (i : Nat) : Fld := ⟨(Reg.MEM_STATUS i), 1, 1⟩
def Fld.MEM_STATUS_SCRUB_UNCORR (i : Nat) : Fld := ⟨(Reg.MEM_STATUS i), 2, 1⟩
def Fld.MEM_CORR_COUNT (i : Nat) : Fld := ⟨(Reg.MEM_CORR i), 0, 32⟩
def Fld.MEM_ERR_ADDR_ADDR (i : Nat) : Fld := ⟨(Reg.MEM_ERR_ADDR i), 0, 48⟩
def Fld.MEM_SCRUB_PASSES (i : Nat) : Fld := ⟨(Reg.MEM_SCRUB i), 0, 32⟩
def Fld.MEM_INJECT_SYM (i : Nat) : Fld := ⟨(Reg.MEM_INJECT i), 0, 1⟩
def Fld.FAB_NODE_ID : Fld := ⟨Reg.FAB_NODE, 0, 16⟩
def Fld.FAB_NODE_TYPE : Fld := ⟨Reg.FAB_NODE, 16, 4⟩
def Fld.FAB_NODE_VALID : Fld := ⟨Reg.FAB_NODE, 20, 1⟩
def Fld.FAB_EPOCH_SRC : Fld := ⟨Reg.FAB_EPOCH, 0, 1⟩
def Fld.FAB_EPOCH_KL1 : Fld := ⟨Reg.FAB_EPOCH, 1, 1⟩
def Fld.FAB_SWITCH_SCENE_SCENE : Fld := ⟨Reg.FAB_SWITCH_SCENE, 0, 64⟩
def Fld.FAB_CTRL_QUIESCE : Fld := ⟨Reg.FAB_CTRL, 0, 1⟩
def Fld.FAB_STATUS_IDLE : Fld := ⟨Reg.FAB_STATUS, 0, 1⟩
def Fld.FAB_STATUS_ROUTE_ILLEGAL : Fld := ⟨Reg.FAB_STATUS, 1, 1⟩
def Fld.FAB_STATUS_DROP : Fld := ⟨Reg.FAB_STATUS, 2, 1⟩
def Fld.FAB_STATUS_BANK_BUSY : Fld := ⟨Reg.FAB_STATUS, 3, 1⟩
def Fld.FAB_STATUS_RES_INVALID : Fld := ⟨Reg.FAB_STATUS, 4, 1⟩
def Fld.FAB_DROP_COUNT_STALE : Fld := ⟨Reg.FAB_DROP_COUNT, 0, 16⟩
def Fld.FAB_DROP_COUNT_ROUTE_BAD : Fld := ⟨Reg.FAB_DROP_COUNT, 16, 16⟩
def Fld.FAB_DROP_COUNT_NO_RES : Fld := ⟨Reg.FAB_DROP_COUNT, 32, 16⟩
def Fld.FAB_DROP_COUNT_LEFTOVER : Fld := ⟨Reg.FAB_DROP_COUNT, 48, 16⟩
def Fld.FAB_DROP_COUNT2_LINK : Fld := ⟨Reg.FAB_DROP_COUNT2, 0, 16⟩
def Fld.FAB_DROP_COUNT2_MISDELIVER : Fld := ⟨Reg.FAB_DROP_COUNT2, 16, 16⟩
def Fld.FAB_DROP_COUNT2_CTRL : Fld := ⟨Reg.FAB_DROP_COUNT2, 32, 16⟩
def Fld.FAB_DROP_COUNT2_FLUSH : Fld := ⟨Reg.FAB_DROP_COUNT2, 48, 16⟩
def Fld.FAB_DROP_INFO_REASON : Fld := ⟨Reg.FAB_DROP_INFO, 0, 4⟩
def Fld.FAB_DROP_INFO_LINK : Fld := ⟨Reg.FAB_DROP_INFO, 4, 6⟩
def Fld.FAB_DROP_INFO_RES : Fld := ⟨Reg.FAB_DROP_INFO, 10, 10⟩
def Fld.FAB_DROP_INFO_SRC : Fld := ⟨Reg.FAB_DROP_INFO, 20, 16⟩
def Fld.FAB_DROP_INFO_DEST : Fld := ⟨Reg.FAB_DROP_INFO, 36, 16⟩
def Fld.FAB_ILLEGAL_INFO_CORE : Fld := ⟨Reg.FAB_ILLEGAL_INFO, 0, 7⟩
def Fld.FAB_ILLEGAL_INFO_CAUSE : Fld := ⟨Reg.FAB_ILLEGAL_INFO, 8, 4⟩
def Fld.FAB_ILLEGAL_INFO_HOP : Fld := ⟨Reg.FAB_ILLEGAL_INFO, 12, 5⟩
def Fld.FAB_ILLEGAL_INFO_BUNDLE : Fld := ⟨Reg.FAB_ILLEGAL_INFO, 32, 32⟩
def Fld.FAB_REQ_BASE_BASE : Fld := ⟨Reg.FAB_REQ_BASE, 0, 48⟩
def Fld.FAB_REQ_SIZE_SIZE : Fld := ⟨Reg.FAB_REQ_SIZE, 0, 48⟩
def Fld.FAB_HOPMAP_PORT (i : Nat) : Fld := ⟨(Reg.FAB_HOPMAP i), 0, 6⟩
def Fld.FAB_HOPMAP_DATELINE (i : Nat) : Fld := ⟨(Reg.FAB_HOPMAP i), 6, 1⟩
def Fld.FAB_HOPMAP_VALID (i : Nat) : Fld := ⟨(Reg.FAB_HOPMAP i), 7, 1⟩
def Fld.FAB_RES_LINK (i : Nat) : Fld := ⟨(Reg.FAB_RES i), 0, 6⟩
def Fld.FAB_RES_FIRST (i : Nat) : Fld := ⟨(Reg.FAB_RES i), 6, 8⟩
def Fld.FAB_RES_COUNT (i : Nat) : Fld := ⟨(Reg.FAB_RES i), 14, 8⟩
def Fld.FAB_RES_CREDITS (i : Nat) : Fld := ⟨(Reg.FAB_RES i), 22, 8⟩
def Fld.FAB_RES_VALID (i : Nat) : Fld := ⟨(Reg.FAB_RES i), 30, 1⟩
def Fld.KL_CTRL_ENABLE (i : Nat) : Fld := ⟨(Reg.KL_CTRL i), 0, 1⟩
def Fld.KL_CTRL_REV_MAX (i : Nat) : Fld := ⟨(Reg.KL_CTRL i), 1, 2⟩
def Fld.KL_CTRL_RETRAIN (i : Nat) : Fld := ⟨(Reg.KL_CTRL i), 3, 1⟩
def Fld.KL_CTRL_FULL_EQ (i : Nat) : Fld := ⟨(Reg.KL_CTRL i), 4, 1⟩
def Fld.KL_STATUS_STATE (i : Nat) : Fld := ⟨(Reg.KL_STATUS i), 0, 3⟩
def Fld.KL_STATUS_REV (i : Nat) : Fld := ⟨(Reg.KL_STATUS i), 3, 2⟩
def Fld.KL_STATUS_UP (i : Nat) : Fld := ⟨(Reg.KL_STATUS i), 5, 1⟩
def Fld.KL_STATUS_DOWN (i : Nat) : Fld := ⟨(Reg.KL_STATUS i), 6, 1⟩
def Fld.KL_STATUS_LONG (i : Nat) : Fld := ⟨(Reg.KL_STATUS i), 7, 1⟩
def Fld.KL_STATUS_ID_CLASH (i : Nat) : Fld := ⟨(Reg.KL_STATUS i), 8, 1⟩
def Fld.KL_STATUS_PEER_REST (i : Nat) : Fld := ⟨(Reg.KL_STATUS i), 9, 1⟩
def Fld.KL_STATUS_PEER_ID (i : Nat) : Fld := ⟨(Reg.KL_STATUS i), 12, 16⟩
def Fld.KL_STATUS_PEER_TYPE (i : Nat) : Fld := ⟨(Reg.KL_STATUS i), 28, 4⟩
def Fld.KL_STATUS_PEER_PORT (i : Nat) : Fld := ⟨(Reg.KL_STATUS i), 32, 6⟩
def Fld.KL_STATUS_PEER_GEN (i : Nat) : Fld := ⟨(Reg.KL_STATUS i), 38, 2⟩
def Fld.KL_LATENCY_LAT (i : Nat) : Fld := ⟨(Reg.KL_LATENCY i), 0, 32⟩
def Fld.KL_ERR_FEC (i : Nat) : Fld := ⟨(Reg.KL_ERR i), 0, 32⟩
def Fld.KL_ERR_REPLAY (i : Nat) : Fld := ⟨(Reg.KL_ERR i), 32, 16⟩
def Fld.KL_ERR_DOWNS (i : Nat) : Fld := ⟨(Reg.KL_ERR i), 48, 16⟩
def Fld.KL_INJECT_CRC (i : Nat) : Fld := ⟨(Reg.KL_INJECT i), 0, 1⟩
def Fld.KL_INJECT_FEC (i : Nat) : Fld := ⟨(Reg.KL_INJECT i), 1, 1⟩
def Fld.XCL_STATUS_RED_FAIL : Fld := ⟨Reg.XCL_STATUS, 0, 1⟩
def Fld.XCL_STATUS_XP_BAD : Fld := ⟨Reg.XCL_STATUS, 1, 1⟩
def Fld.XCL_STATUS_SHARD_REFUSED : Fld := ⟨Reg.XCL_STATUS, 2, 1⟩
def Fld.XCL_STATUS_WIT_DONE : Fld := ⟨Reg.XCL_STATUS, 3, 1⟩
def Fld.XCL_STATUS_WIT_INCOMPLETE : Fld := ⟨Reg.XCL_STATUS, 4, 1⟩
def Fld.XCL_STATUS_WIT_UNCORR : Fld := ⟨Reg.XCL_STATUS, 5, 1⟩
def Fld.XCL_STATUS_RCTX_INVALID : Fld := ⟨Reg.XCL_STATUS, 6, 1⟩
def Fld.XCL_INFO_LINKDIE : Fld := ⟨Reg.XCL_INFO, 0, 2⟩
def Fld.XCL_INFO_CTX : Fld := ⟨Reg.XCL_INFO, 2, 6⟩
def Fld.XCL_INFO_ELEM : Fld := ⟨Reg.XCL_INFO, 8, 14⟩
def Fld.XCL_INFO_SHARD : Fld := ⟨Reg.XCL_INFO, 32, 10⟩
def Fld.XCL_LEFTOVER_COUNT : Fld := ⟨Reg.XCL_LEFTOVER, 0, 32⟩
def Fld.XCL_INJECT_RES : Fld := ⟨Reg.XCL_INJECT, 0, 1⟩
def Fld.XCL_RMAP_CTX (i : Nat) : Fld := ⟨(Reg.XCL_RMAP i), 0, 6⟩
def Fld.XCL_RMAP_VALID (i : Nat) : Fld := ⟨(Reg.XCL_RMAP i), 6, 1⟩
def Fld.XCL_RCTX_CFG_ELEMS (i : Nat) : Fld := ⟨(Reg.XCL_RCTX_CFG i), 0, 14⟩
def Fld.XCL_RCTX_CFG_NIN (i : Nat) : Fld := ⟨(Reg.XCL_RCTX_CFG i), 14, 4⟩
def Fld.XCL_RCTX_CFG_GRANULE (i : Nat) : Fld := ⟨(Reg.XCL_RCTX_CFG i), 18, 8⟩
def Fld.XCL_RCTX_CFG_VALID (i : Nat) : Fld := ⟨(Reg.XCL_RCTX_CFG i), 26, 1⟩
def Fld.XCL_RCTX_OUT_DEST (i : Nat) : Fld := ⟨(Reg.XCL_RCTX_OUT i), 0, 16⟩
def Fld.XCL_RCTX_OUT_DTYPE (i : Nat) : Fld := ⟨(Reg.XCL_RCTX_OUT i), 16, 4⟩
def Fld.XCL_RCTX_OUT_DCORE (i : Nat) : Fld := ⟨(Reg.XCL_RCTX_OUT i), 20, 7⟩
def Fld.XCL_RCTX_OUT_RES (i : Nat) : Fld := ⟨(Reg.XCL_RCTX_OUT i), 27, 10⟩
def Fld.XCL_RCTX_OUT_HOPS (i : Nat) : Fld := ⟨(Reg.XCL_RCTX_OUT i), 37, 5⟩
def Fld.XCL_RCTX_ROUTE0_CODES (i : Nat) : Fld := ⟨(Reg.XCL_RCTX_ROUTE0 i), 0, 60⟩
def Fld.XCL_RCTX_ROUTE1_CODES (i : Nat) : Fld := ⟨(Reg.XCL_RCTX_ROUTE1 i), 0, 60⟩
def Fld.XCL_RCTX_ROUTE2_CODES (i : Nat) : Fld := ⟨(Reg.XCL_RCTX_ROUTE2 i), 0, 24⟩
def Fld.XCL_RCTX_STATE_EMITTED (i : Nat) : Fld := ⟨(Reg.XCL_RCTX_STATE i), 0, 15⟩
def Fld.XCL_SHARD_BASE_BASE (i : Nat) : Fld := ⟨(Reg.XCL_SHARD_BASE i), 0, 48⟩
def Fld.XCL_SHARD_BASE_VALID (i : Nat) : Fld := ⟨(Reg.XCL_SHARD_BASE i), 48, 1⟩
def Fld.XCL_SHARD_LEN_BYTES (i : Nat) : Fld := ⟨(Reg.XCL_SHARD_LEN i), 0, 32⟩
def Fld.XCL_WIT_CTRL_FMT (i : Nat) : Fld := ⟨(Reg.XCL_WIT_CTRL i), 0, 4⟩
def Fld.XCL_WIT_CTRL_VALID (i : Nat) : Fld := ⟨(Reg.XCL_WIT_CTRL i), 4, 1⟩
def Fld.XCL_WIT_CTRL_TAG (i : Nat) : Fld := ⟨(Reg.XCL_WIT_CTRL i), 16, 16⟩
def Fld.XCL_WIT_CTRL_TRIG (i : Nat) : Fld := ⟨(Reg.XCL_WIT_CTRL i), 32, 16⟩
def Fld.XCL_WIT_BASE_BASE (i : Nat) : Fld := ⟨(Reg.XCL_WIT_BASE i), 0, 48⟩
def Fld.XCL_WIT_SHAPE_ROWS (i : Nat) : Fld := ⟨(Reg.XCL_WIT_SHAPE i), 0, 24⟩
def Fld.XCL_WIT_SHAPE_COLS (i : Nat) : Fld := ⟨(Reg.XCL_WIT_SHAPE i), 24, 24⟩
def Fld.XCL_WIT_STRIDE_STRIDE (i : Nat) : Fld := ⟨(Reg.XCL_WIT_STRIDE i), 0, 40⟩
def Fld.XCL_WIT_ORIGIN_ROW0 (i : Nat) : Fld := ⟨(Reg.XCL_WIT_ORIGIN i), 0, 24⟩
def Fld.XCL_WIT_ORIGIN_COL0 (i : Nat) : Fld := ⟨(Reg.XCL_WIT_ORIGIN i), 24, 24⟩
def Fld.XCL_WIT_DIGEST_DIGEST (i : Nat) : Fld := ⟨(Reg.XCL_WIT_DIGEST i), 0, 64⟩
def Fld.XCL_WIT_STEP_STEP (i : Nat) : Fld := ⟨(Reg.XCL_WIT_STEP i), 0, 64⟩
def Fld.XCL_WIT_STATE_RUNNING (i : Nat) : Fld := ⟨(Reg.XCL_WIT_STATE i), 0, 1⟩
def Fld.XCL_WIT_STATE_DONE (i : Nat) : Fld := ⟨(Reg.XCL_WIT_STATE i), 1, 1⟩
def Fld.XCL_WIT_STATE_INCOMPLETE (i : Nat) : Fld := ⟨(Reg.XCL_WIT_STATE i), 2, 1⟩
def Fld.XCL_WIT_STATE_UNCORR (i : Nat) : Fld := ⟨(Reg.XCL_WIT_STATE i), 3, 1⟩
def Fld.XCL_WIT_STATE_SCENE (i : Nat) : Fld := ⟨(Reg.XCL_WIT_STATE i), 8, 56⟩
def Fld.HST_STATUS_RATE : Fld := ⟨Reg.HST_STATUS, 0, 3⟩
def Fld.HST_STATUS_WIDTH : Fld := ⟨Reg.HST_STATUS, 3, 3⟩
def Fld.HST_STATUS_FLIT : Fld := ⟨Reg.HST_STATUS, 6, 1⟩
def Fld.HST_STATUS_CAPT_EXACT : Fld := ⟨Reg.HST_STATUS, 7, 1⟩
def Fld.HST_STATUS_CPL_FULL : Fld := ⟨Reg.HST_STATUS, 8, 1⟩
def Fld.HST_STATUS_RING_ERR : Fld := ⟨Reg.HST_STATUS, 9, 1⟩
def Fld.HST_STATUS_D3HOT : Fld := ⟨Reg.HST_STATUS, 10, 1⟩
def Fld.HST_STATUS_TEL_PAUSED : Fld := ⟨Reg.HST_STATUS, 11, 1⟩
def Fld.HST_STATUS_EVENTS_LOST : Fld := ⟨Reg.HST_STATUS, 12, 1⟩
def Fld.HST_STATUS_TEL_INVALID : Fld := ⟨Reg.HST_STATUS, 13, 1⟩
def Fld.HST_CMD_NEXT : Fld := ⟨Reg.HST_CMD, 0, 32⟩
def Fld.HST_CMD_LONG_SEQ : Fld := ⟨Reg.HST_CMD, 32, 32⟩
def Fld.HST_CPL_BASE_BASE : Fld := ⟨Reg.HST_CPL_BASE, 12, 52⟩
def Fld.HST_CPL_CTRL_LOG2 : Fld := ⟨Reg.HST_CPL_CTRL, 0, 5⟩
def Fld.HST_CPL_HEAD_HEAD : Fld := ⟨Reg.HST_CPL_HEAD, 0, 16⟩
def Fld.HST_CPL_TAIL_TAIL : Fld := ⟨Reg.HST_CPL_TAIL, 0, 16⟩
def Fld.HST_CPL_TAIL_PHASE : Fld := ⟨Reg.HST_CPL_TAIL, 16, 1⟩
def Fld.HST_TEL_BASE_BASE : Fld := ⟨Reg.HST_TEL_BASE, 0, 48⟩
def Fld.HST_TEL_PHASE_RD : Fld := ⟨Reg.HST_TEL_PHASE, 0, 32⟩
def Fld.HST_TEL_PHASE_WR : Fld := ⟨Reg.HST_TEL_PHASE, 32, 32⟩
def Fld.HST_TEL_EVENT_RD : Fld := ⟨Reg.HST_TEL_EVENT, 0, 32⟩
def Fld.HST_TEL_EVENT_WR : Fld := ⟨Reg.HST_TEL_EVENT, 32, 32⟩
def Fld.HST_TEL_TRACE_WR : Fld := ⟨Reg.HST_TEL_TRACE, 0, 32⟩
def Fld.HST_TEL_LOST_EVENT : Fld := ⟨Reg.HST_TEL_LOST, 0, 32⟩
def Fld.HST_TEL_LOST_NOTICE : Fld := ⟨Reg.HST_TEL_LOST, 32, 16⟩
def Fld.HST_INT_PEND : Fld := ⟨Reg.HST_INT, 0, 5⟩
def Fld.HST_MSIX_ENTRY (i : Nat) : Fld := ⟨(Reg.HST_MSIX i), 0, 64⟩
def Fld.HST_PBA_PBA : Fld := ⟨Reg.HST_PBA, 0, 64⟩
def Fld.SMG_STATUS_FW_VERSION : Fld := ⟨Reg.SMG_STATUS, 0, 16⟩
def Fld.SMG_STATUS_PAIR0_OK : Fld := ⟨Reg.SMG_STATUS, 16, 1⟩
def Fld.SMG_STATUS_PAIR1_OK : Fld := ⟨Reg.SMG_STATUS, 17, 1⟩
def Fld.SMG_APPLY_T_PENDING : Fld := ⟨Reg.SMG_APPLY, 0, 1⟩
def Fld.SMG_APPLY_Q_PENDING : Fld := ⟨Reg.SMG_APPLY, 1, 1⟩
def Fld.SMG_APPLY_DISCARD_Q : Fld := ⟨Reg.SMG_APPLY, 2, 1⟩
def Fld.SMG_APPLY_Q_DISCARDED : Fld := ⟨Reg.SMG_APPLY, 3, 1⟩
def Fld.SMG_APPLY_Q_COUNT : Fld := ⟨Reg.SMG_APPLY, 16, 16⟩
def Fld.SMG_APPLY_SCENE_SCENE : Fld := ⟨Reg.SMG_APPLY_SCENE, 0, 64⟩
def Fld.PWR_STATE_PS : Fld := ⟨Reg.PWR_STATE, 0, 3⟩
def Fld.PWR_STATE_FAULT_STOP : Fld := ⟨Reg.PWR_STATE, 3, 1⟩
def Fld.PWR_STATE_DIVIDER : Fld := ⟨Reg.PWR_STATE, 4, 4⟩
def Fld.PWR_STATE_TARGET : Fld := ⟨Reg.PWR_STATE, 8, 3⟩
def Fld.PWR_STATE_BUSY : Fld := ⟨Reg.PWR_STATE, 11, 1⟩
def Fld.PWR_BUDGET_WATTS : Fld := ⟨Reg.PWR_BUDGET, 0, 12⟩
def Fld.PWR_PKG_NOW : Fld := ⟨Reg.PWR_PKG, 0, 12⟩
def Fld.PWR_PKG_PEAK : Fld := ⟨Reg.PWR_PKG, 16, 12⟩
def Fld.PWR_STATUS_NEAR : Fld := ⟨Reg.PWR_STATUS, 0, 1⟩
def Fld.PWR_TRIP_INFO_CAUSE : Fld := ⟨Reg.PWR_TRIP_INFO, 0, 4⟩
def Fld.PWR_TRIP_INFO_RAIL : Fld := ⟨Reg.PWR_TRIP_INFO, 4, 7⟩
def Fld.PWR_TRIP_TIME_TIME : Fld := ⟨Reg.PWR_TRIP_TIME, 0, 64⟩
def Fld.PWR_RAIL_MV (i : Nat) : Fld := ⟨(Reg.PWR_RAIL i), 0, 16⟩
def Fld.PWR_RAIL_CURRENT (i : Nat) : Fld := ⟨(Reg.PWR_RAIL i), 16, 16⟩
def Fld.PWR_RAIL_TEMP (i : Nat) : Fld := ⟨(Reg.PWR_RAIL i), 32, 16⟩
def Fld.PWR_RAIL_ON (i : Nat) : Fld := ⟨(Reg.PWR_RAIL i), 48, 1⟩
def Fld.SVC_STATUS_WINDOW : Fld := ⟨Reg.SVC_STATUS, 0, 1⟩
def Fld.SVC_STATUS_UNASSIGNED : Fld := ⟨Reg.SVC_STATUS, 1, 1⟩
def Fld.SVC_STATUS_STACK_UNCORR : Fld := ⟨Reg.SVC_STATUS, 2, 1⟩
def Fld.SVC_STATUS_X_WRITE : Fld := ⟨Reg.SVC_STATUS, 3, 1⟩
def Fld.SVC_ERR_INFO_REQ : Fld := ⟨Reg.SVC_ERR_INFO, 0, 3⟩
def Fld.SVC_ERR_INFO_ADDR : Fld := ⟨Reg.SVC_ERR_INFO, 8, 48⟩
def Fld.SVC_ARB_CLASS (i : Nat) : Fld := ⟨(Reg.SVC_ARB i), 0, 2⟩
def Fld.SVC_ARB_LIMIT (i : Nat) : Fld := ⟨(Reg.SVC_ARB i), 8, 8⟩
def Fld.SVC_ARB_WAIT (i : Nat) : Fld := ⟨(Reg.SVC_ARB i), 16, 8⟩
def Fld.SVC_ARB_WINS (i : Nat) : Fld := ⟨(Reg.SVC_ARB i), 32, 32⟩
def Fld.FLT_STATUS_SEVERE : Fld := ⟨Reg.FLT_STATUS, 0, 1⟩
def Fld.FLT_STATUS_SUSPECT : Fld := ⟨Reg.FLT_STATUS, 1, 1⟩
def Fld.FLT_STATUS_FLAGGED : Fld := ⟨Reg.FLT_STATUS, 2, 1⟩
def Fld.FLT_STATUS_PIN : Fld := ⟨Reg.FLT_STATUS, 3, 1⟩
def Fld.FLT_STATUS_INJ_ARMED : Fld := ⟨Reg.FLT_STATUS, 4, 1⟩
def Fld.FLT_CTRL_PIN_CLEAR : Fld := ⟨Reg.FLT_CTRL, 0, 1⟩
def Fld.FLT_CTRL_INJ_EN : Fld := ⟨Reg.FLT_CTRL, 1, 1⟩
def Fld.FLT_CTRL_PIN_TEST : Fld := ⟨Reg.FLT_CTRL, 2, 1⟩
def Fld.FLT_SUSPECT_INFO_SOURCE : Fld := ⟨Reg.FLT_SUSPECT_INFO, 0, 6⟩
def Fld.FLT_SUSPECT_INFO_UNIT : Fld := ⟨Reg.FLT_SUSPECT_INFO, 8, 3⟩
def Fld.FLT_SUSPECT_INFO_INDEX : Fld := ⟨Reg.FLT_SUSPECT_INFO, 16, 8⟩
def Fld.FLT_SUSPECT_SCENE_SCENE : Fld := ⟨Reg.FLT_SUSPECT_SCENE, 0, 64⟩
def Fld.FLT_FUSE_COUNT : Fld := ⟨Reg.FLT_FUSE, 0, 4⟩
def Fld.FLT_INT_PEND_PEND : Fld := ⟨Reg.FLT_INT_PEND, 0, 64⟩
def Fld.FLT_SRC_CFG_N (i : Nat) : Fld := ⟨(Reg.FLT_SRC_CFG i), 0, 16⟩
def Fld.FLT_SRC_CFG_W (i : Nat) : Fld := ⟨(Reg.FLT_SRC_CFG i), 16, 24⟩
def Fld.FLT_SRC_CFG_IE (i : Nat) : Fld := ⟨(Reg.FLT_SRC_CFG i), 40, 1⟩
def Fld.FLT_SRC_CFG_PIN (i : Nat) : Fld := ⟨(Reg.FLT_SRC_CFG i), 41, 1⟩
def Fld.FLT_SRC_CFG_SUSPECT (i : Nat) : Fld := ⟨(Reg.FLT_SRC_CFG i), 42, 1⟩
def Fld.FLT_SRC_STATE_COUNT (i : Nat) : Fld := ⟨(Reg.FLT_SRC_STATE i), 0, 16⟩
def Fld.FLT_SRC_STATE_TOTAL (i : Nat) : Fld := ⟨(Reg.FLT_SRC_STATE i), 16, 32⟩
def Fld.VEC_STATUS_OVF (n : CoreId) : Fld := ⟨(Reg.VEC_STATUS n), 0, 1⟩
def Fld.VEC_STATUS_NAN_INT8 (n : CoreId) : Fld := ⟨(Reg.VEC_STATUS n), 1, 1⟩
def Fld.VEC_STATUS_DM_OVF (n : CoreId) : Fld := ⟨(Reg.VEC_STATUS n), 2, 1⟩
def Fld.RHS_CTRL_INTERVAL : Fld := ⟨Reg.RHS_CTRL, 0, 21⟩
def Fld.RHS_STATUS_FAIL : Fld := ⟨Reg.RHS_STATUS, 0, 1⟩
def Fld.RHS_STATUS_RUNNING : Fld := ⟨Reg.RHS_STATUS, 1, 1⟩
def Fld.RHS_STATUS_FORCED : Fld := ⟨Reg.RHS_STATUS, 2, 1⟩
def Fld.RHS_ROUND_ROUND : Fld := ⟨Reg.RHS_ROUND, 0, 32⟩
def Fld.RHS_DUE_SCENE : Fld := ⟨Reg.RHS_DUE, 0, 64⟩
def Fld.RHS_SEED_SEED : Fld := ⟨Reg.RHS_SEED, 0, 64⟩
def Fld.RHS_FAIL_INFO_CORE_A : Fld := ⟨Reg.RHS_FAIL_INFO, 0, 7⟩
def Fld.RHS_FAIL_INFO_CORE_B : Fld := ⟨Reg.RHS_FAIL_INFO, 8, 7⟩
def Fld.RHS_FAIL_INFO_TEST : Fld := ⟨Reg.RHS_FAIL_INFO, 16, 3⟩
def Fld.RHS_FAIL_SCENE_SCENE : Fld := ⟨Reg.RHS_FAIL_SCENE, 0, 64⟩
def Fld.RHS_INJECT_DIGEST : Fld := ⟨Reg.RHS_INJECT, 0, 1⟩
def Fld.RHS_CORE_ADMITTED (i : Nat) : Fld := ⟨(Reg.RHS_CORE i), 0, 1⟩
def Fld.RHS_CORE_DONE (i : Nat) : Fld := ⟨(Reg.RHS_CORE i), 1, 1⟩
def Fld.RHS_CORE_DEFER (i : Nat) : Fld := ⟨(Reg.RHS_CORE i), 2, 5⟩
def Fld.RHS_CORE_LAST_PASS (i : Nat) : Fld := ⟨(Reg.RHS_CORE i), 8, 56⟩
def Fld.RHS_CORE_STEP_STEP (i : Nat) : Fld := ⟨(Reg.RHS_CORE_STEP i), 0, 64⟩
def Fld.FRW_CTRL_THRESH : Fld := ⟨Reg.FRW_CTRL, 0, 10⟩
def Fld.FRW_CTRL_HYST : Fld := ⟨Reg.FRW_CTRL, 16, 10⟩
def Fld.FRW_CTRL_HOLDOFF : Fld := ⟨Reg.FRW_CTRL, 32, 24⟩
def Fld.FRW_SCORE_SCORE : Fld := ⟨Reg.FRW_SCORE, 0, 10⟩
def Fld.FRW_SCORE_LOW_CONF : Fld := ⟨Reg.FRW_SCORE, 10, 1⟩
def Fld.FRW_SCORE_ARMED : Fld := ⟨Reg.FRW_SCORE, 11, 1⟩
def Fld.FRW_SCORE_THERM : Fld := ⟨Reg.FRW_SCORE, 16, 9⟩
def Fld.FRW_IN_CFG_A (i : Nat) : Fld := ⟨(Reg.FRW_IN_CFG i), 0, 5⟩
def Fld.FRW_IN_CFG_GAIN (i : Nat) : Fld := ⟨(Reg.FRW_IN_CFG i), 16, 16⟩
def Fld.FRW_IN_CFG_CAP (i : Nat) : Fld := ⟨(Reg.FRW_IN_CFG i), 32, 10⟩
def Fld.FRW_IN_STATE_TERM (i : Nat) : Fld := ⟨(Reg.FRW_IN_STATE i), 0, 10⟩
def Fld.SCN_RESTORE_STATE : Fld := ⟨Reg.SCN_RESTORE, 0, 3⟩
def Fld.SCN_RESTORE_DATAPOS_VALID : Fld := ⟨Reg.SCN_RESTORE, 3, 1⟩
def Fld.SCN_RESTORE_GEN : Fld := ⟨Reg.SCN_RESTORE, 32, 32⟩
def Fld.SCN_RESTORE_INFO_CAUSE : Fld := ⟨Reg.SCN_RESTORE_INFO, 0, 4⟩
def Fld.SCN_RESTORE_INFO_SECTION : Fld := ⟨Reg.SCN_RESTORE_INFO, 4, 12⟩
def Fld.SCN_RESTORE_INFO_STATUS : Fld := ⟨Reg.SCN_RESTORE_INFO, 16, 3⟩
def Fld.SCN_RESTORE_INFO_KEPT : Fld := ⟨Reg.SCN_RESTORE_INFO, 32, 16⟩
def Fld.SCN_RESTORE_INFO_FETCHED : Fld := ⟨Reg.SCN_RESTORE_INFO, 48, 16⟩
def Fld.SCN_DATAPOS_STEP : Fld := ⟨Reg.SCN_DATAPOS, 0, 64⟩
def Fld.SCN_CKP_STATE : Fld := ⟨Reg.SCN_CKP, 0, 2⟩
def Fld.SCN_CKP_SECTION : Fld := ⟨Reg.SCN_CKP, 16, 11⟩
def Fld.SCN_CKP_LAST_STEP : Fld := ⟨Reg.SCN_CKP_LAST, 0, 64⟩
def Fld.SCN_CKP_ID_ID : Fld := ⟨Reg.SCN_CKP_ID, 0, 64⟩
def Fld.XCL_TWIN_CTRL_EN : Fld := ⟨Reg.XCL_TWIN_CTRL, 0, 1⟩
def Fld.XCL_TWIN_CTRL_HALT_ON : Fld := ⟨Reg.XCL_TWIN_CTRL, 1, 1⟩
def Fld.XCL_TWIN_CTRL_K : Fld := ⟨Reg.XCL_TWIN_CTRL, 16, 20⟩
def Fld.XCL_TWIN_PEER_ID : Fld := ⟨Reg.XCL_TWIN_PEER, 0, 16⟩
def Fld.XCL_TWIN_PEER_TYPE : Fld := ⟨Reg.XCL_TWIN_PEER, 16, 4⟩
def Fld.XCL_TWIN_PEER_HOPS : Fld := ⟨Reg.XCL_TWIN_PEER, 20, 5⟩
def Fld.XCL_TWIN_ROUTE0_CODES : Fld := ⟨Reg.XCL_TWIN_ROUTE0, 0, 60⟩
def Fld.XCL_TWIN_ROUTE1_CODES : Fld := ⟨Reg.XCL_TWIN_ROUTE1, 0, 60⟩
def Fld.XCL_TWIN_ROUTE2_CODES : Fld := ⟨Reg.XCL_TWIN_ROUTE2, 0, 24⟩
def Fld.XCL_TWIN_INBOX_BASE : Fld := ⟨Reg.XCL_TWIN_INBOX, 0, 48⟩
def Fld.XCL_TWIN_PINBOX_BASE : Fld := ⟨Reg.XCL_TWIN_PINBOX, 0, 48⟩
def Fld.XCL_TWIN_STATUS_MISMATCH : Fld := ⟨Reg.XCL_TWIN_STATUS, 0, 1⟩
def Fld.XCL_TWIN_STATUS_SILENT : Fld := ⟨Reg.XCL_TWIN_STATUS, 1, 1⟩
def Fld.XCL_TWIN_STATUS_SEND_FAIL : Fld := ⟨Reg.XCL_TWIN_STATUS, 2, 1⟩
def Fld.XCL_TWIN_COUNT_MATCHED : Fld := ⟨Reg.XCL_TWIN_COUNT, 0, 32⟩
def Fld.XCL_TWIN_COUNT_UNMATCHED : Fld := ⟨Reg.XCL_TWIN_COUNT, 32, 32⟩
def Fld.XCL_TWIN_MM_ENTRY : Fld := ⟨Reg.XCL_TWIN_MM, 0, 5⟩
def Fld.XCL_TWIN_MM_TAG : Fld := ⟨Reg.XCL_TWIN_MM, 16, 16⟩
def Fld.XCL_TWIN_MM_STEP : Fld := ⟨Reg.XCL_TWIN_MM, 32, 32⟩
def Fld.XCL_TWIN_MM_OWN_DIGEST : Fld := ⟨Reg.XCL_TWIN_MM_OWN, 0, 64⟩
def Fld.XCL_TWIN_MM_PEER_DIGEST : Fld := ⟨Reg.XCL_TWIN_MM_PEER, 0, 64⟩
def Fld.SDR_STATUS_STATE : Fld := ⟨Reg.SDR_STATUS, 0, 2⟩
def Fld.SDR_STATUS_CAUSE : Fld := ⟨Reg.SDR_STATUS, 2, 4⟩
def Fld.SDR_STATUS_LIFECYCLE : Fld := ⟨Reg.SDR_STATUS, 6, 2⟩
def Fld.SDR_STATUS_ZEROISED : Fld := ⟨Reg.SDR_STATUS, 8, 1⟩
def Fld.SDR_STATUS_TAMPER : Fld := ⟨Reg.SDR_STATUS, 9, 1⟩
def Fld.SDR_STATUS_IDKEY : Fld := ⟨Reg.SDR_STATUS, 10, 1⟩
def Fld.SDR_CTRL_SELFTEST : Fld := ⟨Reg.SDR_CTRL, 0, 1⟩
def Fld.SDR_CTRL_ZEROISE : Fld := ⟨Reg.SDR_CTRL, 1, 1⟩
def Fld.SDR_CTRL_DEBUG_LOCK : Fld := ⟨Reg.SDR_CTRL, 2, 1⟩
def Fld.SDR_CTRL_FW_COMMIT : Fld := ⟨Reg.SDR_CTRL, 3, 1⟩
def Fld.SDR_CTRL_SVN_ADVANCE : Fld := ⟨Reg.SDR_CTRL, 4, 1⟩
def Fld.SDR_ZEROISE_KEY_KEY : Fld := ⟨Reg.SDR_ZEROISE_KEY, 0, 32⟩
def Fld.SDR_NONCE_LO_NONCE : Fld := ⟨Reg.SDR_NONCE_LO, 0, 64⟩
def Fld.SDR_NONCE_HI_NONCE : Fld := ⟨Reg.SDR_NONCE_HI, 0, 64⟩
def Fld.SDR_DEBUG_SCOPE : Fld := ⟨Reg.SDR_DEBUG, 0, 3⟩
def Fld.SDR_FW_SM_SVN : Fld := ⟨Reg.SDR_FW, 0, 6⟩
def Fld.SDR_FW_MC_SVN : Fld := ⟨Reg.SDR_FW, 8, 6⟩
def Fld.SDR_FW_FUSED_SVN : Fld := ⟨Reg.SDR_FW, 16, 6⟩
def Fld.SDR_FW_ACTIVE : Fld := ⟨Reg.SDR_FW, 22, 2⟩
def Fld.SDR_FW_COMMIT_BUSY : Fld := ⟨Reg.SDR_FW, 24, 1⟩
def Fld.SDR_FW_COMMIT_RESULT : Fld := ⟨Reg.SDR_FW, 25, 3⟩
def Fld.SDR_FW_STAGE_ADDR : Fld := ⟨Reg.SDR_FW_STAGE, 0, 48⟩
def Fld.SDR_KEY_REVOKE_FW : Fld := ⟨Reg.SDR_KEY_REVOKE, 0, 4⟩
def Fld.SDR_KEY_REVOKE_TOKEN : Fld := ⟨Reg.SDR_KEY_REVOKE, 4, 4⟩
def Fld.SDR_UID_LO_UID : Fld := ⟨Reg.SDR_UID_LO, 0, 64⟩
def Fld.SDR_UID_HI_UID : Fld := ⟨Reg.SDR_UID_HI, 0, 64⟩
def Fld.SDR_TEST_PASS : Fld := ⟨Reg.SDR_TEST, 0, 8⟩
def Fld.SDR_TEST_FAIL : Fld := ⟨Reg.SDR_TEST, 8, 8⟩
def Fld.SMG_BOOT_STAGE : Fld := ⟨Reg.SMG_BOOT, 0, 3⟩
def Fld.SMG_BOOT_CAUSE : Fld := ⟨Reg.SMG_BOOT, 6, 2⟩
def Fld.SMG_BOOT_UNIT : Fld := ⟨Reg.SMG_BOOT, 8, 8⟩
def Fld.SMG_BOOT_STACK_INIT : Fld := ⟨Reg.SMG_BOOT, 16, 12⟩
def Fld.SCN_DBG_HALT0_CORES : Fld := ⟨Reg.SCN_DBG_HALT0, 0, 64⟩
def Fld.SCN_DBG_HALT1_CORES : Fld := ⟨Reg.SCN_DBG_HALT1, 0, 32⟩
def Fld.SCN_DBG_HALT1_DENIED : Fld := ⟨Reg.SCN_DBG_HALT1, 32, 1⟩
def Fld.SCN_DBG_HALT1_ACTIVE : Fld := ⟨Reg.SCN_DBG_HALT1, 33, 1⟩
def Fld.CFG_STRAP_MFG : Fld := ⟨Reg.CFG_STRAP, 0, 1⟩
def Fld.CFG_STRAP_FLASH_WP : Fld := ⟨Reg.CFG_STRAP, 1, 1⟩
def Fld.CFG_STRAP_SPARE : Fld := ⟨Reg.CFG_STRAP, 2, 1⟩
def Fld.PWR_THERM_COLDPLATE : Fld := ⟨Reg.PWR_THERM, 0, 16⟩
def Fld.PWR_THERM_MARGIN : Fld := ⟨Reg.PWR_THERM, 16, 7⟩
def Fld.PWR_THERM_MIN_IX : Fld := ⟨Reg.PWR_THERM, 24, 7⟩
def Fld.PWR_THERM_RAMP_HELD : Fld := ⟨Reg.PWR_THERM, 31, 1⟩
def Fld.PWR_VIN_MV : Fld := ⟨Reg.PWR_VIN, 0, 16⟩
def Fld.PWR_VIN_AMPS : Fld := ⟨Reg.PWR_VIN, 16, 16⟩
def Fld.PWR_VIN_PEAK : Fld := ⟨Reg.PWR_VIN, 32, 16⟩
def Fld.PWR_VIN_AUX_MV : Fld := ⟨Reg.PWR_VIN, 48, 16⟩

/-- Register table rows, part 0. -/
def regRows0 : List RegRow := [
  ⟨false, 0xFF0000000000, 0, 1, 0x160014C, [⟨0, 4, .ro, .x⟩, ⟨4, 3, .ro, .x⟩, ⟨8, 8, .ro, .x⟩, ⟨16, 8, .ro, .x⟩, ⟨24, 8, .ro, .x⟩]⟩,
  ⟨false, 0xFF0000010000, 0, 1, 0xDBBA0, [⟨0, 24, .rw, .q⟩]⟩,
  ⟨false, 0xFF0000010008, 0, 1, 0x0, [⟨0, 24, .ro, .now⟩]⟩,
  ⟨false, 0xFF0000010010, 0, 1, 0x0, [⟨0, 64, .ro, .now⟩]⟩,
  ⟨false, 0xFF0000010018, 0, 1, 0x0, [⟨0, 1, .w1c, .now⟩, ⟨1, 1, .ro, .now⟩, ⟨2, 1, .ro, .now⟩, ⟨3, 1, .w1c, .now⟩, ⟨4, 1, .w1c, .now⟩, ⟨5, 1, .w1c, .now⟩, ⟨6, 1, .w1c, .now⟩, ⟨7, 1, .w1c, .now⟩]⟩,
  ⟨false, 0xFF0000010020, 0, 1, 0x0, [⟨0, 7, .ro, .now⟩, ⟨8, 24, .ro, .now⟩]⟩,
  ⟨false, 0xFF0000010028, 0, 1, 0x0, [⟨0, 64, .ro, .now⟩]⟩,
  ⟨false, 0xFF0000010030, 0, 1, 0x0, [⟨0, 24, .ro, .now⟩]⟩,
  ⟨false, 0xFF0000010038, 0, 1, 0x0, [⟨0, 1, .wo, .t⟩]⟩,
  ⟨false, 0xFF0000020000, 0, 1, 0x0, [⟨0, 1, .rw, .q⟩]⟩,
  ⟨false, 0xFF0000020008, 0, 1, 0x0, [⟨0, 1, .rw, .q⟩]⟩,
  ⟨false, 0xFF0000020010, 0, 1, 0x0, [⟨0, 64, .rw, .q⟩]⟩,
  ⟨false, 0xFF0000020018, 0, 1, 0x0, [⟨0, 64, .ro, .now⟩]⟩,
  ⟨false, 0xFF0000020020, 0, 1, 0x0, [⟨0, 1, .ro, .now⟩, ⟨1, 1, .ro, .now⟩, ⟨2, 1, .ro, .now⟩, ⟨3, 1, .ro, .now⟩, ⟨4, 1, .ro, .now⟩, ⟨5, 1, .ro, .now⟩, ⟨6, 1, .ro, .now⟩, ⟨7, 1, .w1c, .now⟩, ⟨8, 5, .ro, .now⟩, ⟨32, 16, .ro, .now⟩]⟩,
  ⟨false, 0xFF0000020028, 0, 1, 0x3F, [⟨0, 6, .rw, .q⟩]⟩,
  ⟨false, 0xFF0000020030, 0, 1, 0x0, [⟨0, 48, .rw, .q⟩]⟩,
  ⟨false, 0xFF0000020038, 0, 1, 0x0, [⟨0, 32, .ro, .now⟩]⟩,
  ⟨false, 0xFF0000020040, 0, 1, 0xFFFFFFFFFFFFFFFF, [⟨0, 64, .ro, .now⟩]⟩,
  ⟨false, 0xFF0000020048, 0, 1, 0x7, [⟨0, 1, .rw, .t⟩, ⟨1, 1, .rw, .t⟩, ⟨2, 1, .rw, .t⟩]⟩,
  ⟨false, 0xFF0000020050, 0, 1, 0x0, [⟨0, 63, .rw, .q⟩, ⟨63, 1, .rw, .q⟩]⟩,
  ⟨false, 0xFF0000000008, 0, 1, 0x307, [⟨0, 3, .ro, .x⟩, ⟨8, 2, .rw, .q⟩]⟩,
  ⟨true, 0x0, 0, 1, 0x0, [⟨0, 1, .w1c, .now⟩, ⟨1, 1, .w1c, .now⟩, ⟨2, 1, .w1c, .now⟩, ⟨3, 1, .w1c, .now⟩, ⟨4, 1, .w1c, .now⟩, ⟨5, 1, .w1c, .now⟩]⟩,
  ⟨true, 0x8, 0, 1, 0x0, [⟨0, 1, .wo, .t⟩, ⟨1, 1, .wo, .t⟩]⟩,
  ⟨true, 0x10, 0, 1, 0x0, [⟨0, 4, .ro, .now⟩, ⟨32, 32, .ro, .now⟩]⟩]

/-- Register table rows, part 1. -/
def regRows1 : List RegRow := [
  ⟨true, 0x18, 0, 1, 0x0, [⟨0, 64, .ro, .now⟩]⟩,
  ⟨true, 0x20, 0, 1, 0x0, [⟨0, 32, .ro, .now⟩, ⟨32, 32, .ro, .now⟩]⟩,
  ⟨true, 0x28, 0, 1, 0x0, [⟨0, 48, .ro, .now⟩]⟩,
  ⟨true, 0x30, 0, 1, 0x0, [⟨0, 13, .ro, .now⟩, ⟨16, 13, .ro, .now⟩, ⟨32, 4, .ro, .now⟩]⟩,
  ⟨true, 0x38, 0, 1, 0x0, [⟨0, 32, .ro, .now⟩, ⟨32, 32, .ro, .now⟩]⟩,
  ⟨true, 0x40, 0, 1, 0x0, [⟨0, 32, .ro, .now⟩, ⟨32, 32, .ro, .now⟩]⟩,
  ⟨true, 0x48, 0, 1, 0x0, [⟨0, 32, .ro, .now⟩]⟩,
  ⟨true, 0x50, 0, 1, 0x0, [⟨0, 10, .ro, .now⟩, ⟨16, 7, .ro, .now⟩]⟩,
  ⟨false, 0xFF0000010040, 0, 1, 0x0, [⟨0, 16, .ro, .now⟩]⟩,
  ⟨false, 0xFF0000010048, 0, 1, 0x0, [⟨0, 64, .ro, .now⟩]⟩,
  ⟨false, 0xFF0000010050, 0, 1, 0x0, [⟨0, 64, .ro, .now⟩]⟩,
  ⟨false, 0xFF0000010058, 0, 1, 0x0, [⟨0, 8, .ro, .now⟩, ⟨8, 7, .ro, .now⟩, ⟨15, 1, .ro, .now⟩, ⟨16, 16, .ro, .now⟩, ⟨32, 32, .ro, .now⟩]⟩,
  ⟨false, 0xFF0000010060, 0, 1, 0x0, [⟨0, 32, .ro, .now⟩, ⟨32, 32, .ro, .now⟩]⟩,
  ⟨false, 0xFF0000010068, 0, 1, 0x0, [⟨0, 1, .w1c, .now⟩, ⟨1, 1, .w1c, .now⟩, ⟨2, 1, .w1c, .now⟩, ⟨8, 7, .ro, .now⟩]⟩,
  ⟨false, 0xFF0000010070, 0, 1, 0x0, [⟨0, 24, .ro, .now⟩, ⟨24, 7, .ro, .now⟩]⟩,
  ⟨false, 0xFF0000010078, 0, 1, 0x0, [⟨0, 32, .ro, .now⟩]⟩,
  ⟨false, 0xFF0000010400, 16, 64, 0x0, [⟨0, 48, .ro, .now⟩, ⟨48, 1, .ro, .now⟩]⟩,
  ⟨false, 0xFF0000010408, 16, 64, 0x0, [⟨0, 32, .ro, .now⟩]⟩,
  ⟨false, 0xFF0000000010, 0, 1, 0x1, [⟨0, 1, .rw, .q⟩]⟩,
  ⟨true, 0x1000, 0, 1, 0x0, [⟨0, 1, .w1c, .now⟩, ⟨1, 1, .w1c, .now⟩, ⟨2, 1, .w1c, .now⟩, ⟨3, 1, .w1c, .now⟩]⟩,
  ⟨true, 0x1008, 0, 1, 0x0, [⟨0, 48, .rw, .q⟩]⟩,
  ⟨true, 0x1010, 0, 1, 0x0, [⟨0, 21, .rw, .q⟩]⟩,
  ⟨true, 0x1018, 0, 1, 0x0, [⟨0, 13, .ro, .now⟩, ⟨16, 21, .ro, .now⟩]⟩,
  ⟨true, 0x1020, 0, 1, 0x0, [⟨0, 32, .ro, .now⟩, ⟨32, 12, .ro, .now⟩, ⟨48, 16, .ro, .now⟩]⟩]

/-- Register table rows, part 2. -/
def regRows2 : List RegRow := [
  ⟨true, 0x1028, 0, 1, 0x0, [⟨0, 64, .ro, .now⟩]⟩,
  ⟨true, 0x1030, 0, 1, 0x0, [⟨0, 4, .ro, .now⟩, ⟨8, 12, .ro, .now⟩, ⟨32, 32, .ro, .now⟩]⟩,
  ⟨true, 0x1038, 0, 1, 0x0, [⟨0, 1, .wo, .t⟩]⟩,
  ⟨true, 0x58, 0, 1, 0x0, [⟨0, 16, .ro, .now⟩, ⟨16, 16, .ro, .now⟩, ⟨32, 16, .ro, .now⟩, ⟨48, 3, .ro, .now⟩]⟩,
  ⟨false, 0xFF0000030000, 0, 1, 0x20000400001, [⟨0, 1, .rw, .t⟩, ⟨16, 10, .rw, .t⟩, ⟨32, 10, .rw, .t⟩]⟩,
  ⟨false, 0xFF0000030008, 0, 1, 0x0, [⟨0, 1, .w1c, .now⟩, ⟨1, 1, .w1c, .now⟩]⟩,
  ⟨false, 0xFF0000030100, 8, 256, 0x0, [⟨0, 16, .rw, .t⟩, ⟨16, 1, .rw, .t⟩]⟩,
  ⟨false, 0xFF0000030900, 8, 256, 0x0, [⟨0, 20, .ro, .now⟩]⟩,
  ⟨false, 0xFF0000000018, 0, 1, 0x0, [⟨0, 48, .rw, .q⟩]⟩,
  ⟨false, 0xFF0000000020, 0, 1, 0x0, [⟨0, 17, .rw, .q⟩, ⟨32, 1, .w1c, .now⟩]⟩,
  ⟨true, 0x2000, 0, 1, 0x0, [⟨0, 1, .w1c, .now⟩, ⟨1, 1, .w1c, .now⟩, ⟨2, 1, .w1c, .now⟩, ⟨3, 1, .w1c, .now⟩]⟩,
  ⟨true, 0x2008, 0, 1, 0x0, [⟨0, 32, .ro, .now⟩]⟩,
  ⟨true, 0x2010, 0, 1, 0x0, [⟨0, 3, .ro, .now⟩, ⟨3, 3, .ro, .now⟩, ⟨32, 32, .ro, .now⟩]⟩,
  ⟨true, 0x2018, 0, 1, 0x0, [⟨0, 48, .ro, .now⟩]⟩,
  ⟨true, 0x2020, 0, 1, 0x0, [⟨0, 1, .wo, .t⟩]⟩,
  ⟨false, 0xFF00000F0000, 0, 1, 0x1, [⟨0, 1, .rw, .t⟩]⟩,
  ⟨false, 0xFF00000F0100, 256, 12, 0x0, [⟨0, 1, .w1c, .now⟩, ⟨1, 1, .w1c, .now⟩, ⟨2, 1, .w1c, .now⟩]⟩,
  ⟨false, 0xFF00000F0108, 256, 12, 0x0, [⟨0, 32, .ro, .now⟩]⟩,
  ⟨false, 0xFF00000F0110, 256, 12, 0x0, [⟨0, 48, .ro, .now⟩]⟩,
  ⟨false, 0xFF00000F0118, 256, 12, 0x0, [⟨0, 32, .ro, .now⟩]⟩,
  ⟨false, 0xFF00000F0120, 256, 12, 0x0, [⟨0, 1, .wo, .t⟩]⟩,
  ⟨false, 0xFF00000A0000, 0, 1, 0x10000, [⟨0, 16, .rw, .q⟩, ⟨16, 4, .ro, .now⟩, ⟨20, 1, .rw, .q⟩]⟩,
  ⟨false, 0xFF00000A0008, 0, 1, 0x0, [⟨0, 1, .rw, .t⟩, ⟨1, 1, .rw, .q⟩]⟩,
  ⟨false, 0xFF00000A0010, 0, 1, 0x0, [⟨0, 64, .ro, .now⟩]⟩]

/-- Register table rows, part 3. -/
def regRows3 : List RegRow := [
  ⟨false, 0xFF00000A0018, 0, 1, 0x0, [⟨0, 1, .rw, .q⟩]⟩,
  ⟨false, 0xFF00000A0020, 0, 1, 0x1, [⟨0, 1, .ro, .now⟩, ⟨1, 1, .w1c, .now⟩, ⟨2, 1, .w1c, .now⟩, ⟨3, 1, .w1c, .now⟩, ⟨4, 1, .w1c, .now⟩]⟩,
  ⟨false, 0xFF00000A0028, 0, 1, 0x0, [⟨0, 16, .ro, .now⟩, ⟨16, 16, .ro, .now⟩, ⟨32, 16, .ro, .now⟩, ⟨48, 16, .ro, .now⟩]⟩,
  ⟨false, 0xFF00000A0030, 0, 1, 0x0, [⟨0, 16, .ro, .now⟩, ⟨16, 16, .ro, .now⟩, ⟨32, 16, .ro, .now⟩, ⟨48, 16, .ro, .now⟩]⟩,
  ⟨false, 0xFF00000A0038, 0, 1, 0x0, [⟨0, 4, .ro, .now⟩, ⟨4, 6, .ro, .now⟩, ⟨10, 10, .ro, .now⟩, ⟨20, 16, .ro, .now⟩, ⟨36, 16, .ro, .now⟩]⟩,
  ⟨false, 0xFF00000A0040, 0, 1, 0x0, [⟨0, 7, .ro, .now⟩, ⟨8, 4, .ro, .now⟩, ⟨12, 5, .ro, .now⟩, ⟨32, 32, .ro, .now⟩]⟩,
  ⟨false, 0xFF00000A0048, 0, 1, 0x0, [⟨0, 48, .rw, .q⟩]⟩,
  ⟨false, 0xFF00000A0050, 0, 1, 0x0, [⟨0, 48, .rw, .q⟩]⟩,
  ⟨false, 0xFF00000A1000, 8, 128, 0x0, [⟨0, 6, .rw, .t⟩, ⟨6, 1, .rw, .t⟩, ⟨7, 1, .rw, .t⟩]⟩,
  ⟨false, 0xFF00000A4000, 8, 1024, 0x0, [⟨0, 6, .rw, .q⟩, ⟨6, 8, .rw, .q⟩, ⟨14, 8, .rw, .q⟩, ⟨22, 8, .rw, .q⟩, ⟨30, 1, .rw, .q⟩]⟩,
  ⟨false, 0xFF00000B0100, 256, 48, 0x7, [⟨0, 1, .rw, .q⟩, ⟨1, 2, .rw, .q⟩, ⟨3, 1, .wo, .t⟩, ⟨4, 1, .rw, .q⟩]⟩,
  ⟨false, 0xFF00000B0108, 256, 48, 0x0, [⟨0, 3, .ro, .now⟩, ⟨3, 2, .ro, .now⟩, ⟨5, 1, .ro, .now⟩, ⟨6, 1, .w1c, .now⟩, ⟨7, 1, .ro, .now⟩, ⟨8, 1, .ro, .now⟩, ⟨9, 1, .ro, .now⟩, ⟨12, 16, .ro, .now⟩, ⟨28, 4, .ro, .now⟩, ⟨32, 6, .ro, .now⟩, ⟨38, 2, .ro, .now⟩]⟩,
  ⟨false, 0xFF00000B0110, 256, 48, 0x0, [⟨0, 32, .ro, .now⟩]⟩,
  ⟨false, 0xFF00000B0118, 256, 48, 0x0, [⟨0, 32, .ro, .now⟩, ⟨32, 16, .ro, .now⟩, ⟨48, 16, .ro, .now⟩]⟩,
  ⟨false, 0xFF00000B0120, 256, 48, 0x0, [⟨0, 1, .wo, .t⟩, ⟨1, 1, .wo, .t⟩]⟩,
  ⟨false, 0xFF00000C0000, 0, 1, 0x0, [⟨0, 1, .w1c, .now⟩, ⟨1, 1, .w1c, .now⟩, ⟨2, 1, .w1c, .now⟩, ⟨3, 1, .w1c, .now⟩, ⟨4, 1, .w1c, .now⟩, ⟨5, 1, .w1c, .now⟩, ⟨6, 1, .w1c, .now⟩]⟩,
  ⟨false, 0xFF00000C0008, 0, 1, 0x0, [⟨0, 2, .ro, .now⟩, ⟨2, 6, .ro, .now⟩, ⟨8, 14, .ro, .now⟩, ⟨32, 10, .ro, .now⟩]⟩,
  ⟨false, 0xFF00000C0010, 0, 1, 0x0, [⟨0, 32, .ro, .now⟩]⟩,
  ⟨false, 0xFF00000C0018, 0, 1, 0x0, [⟨0, 1, .wo, .t⟩]⟩,
  ⟨false, 0xFF00000C0800, 8, 1024, 0x0, [⟨0, 6, .rw, .q⟩, ⟨6, 1, .rw, .q⟩]⟩,
  ⟨false, 0xFF00000C4000, 64, 256, 0x0, [⟨0, 14, .rw, .q⟩, ⟨14, 4, .rw, .q⟩, ⟨18, 8, .rw, .q⟩, ⟨26, 1, .rw, .q⟩]⟩,
  ⟨false, 0xFF00000C4008, 64, 256, 0x0, [⟨0, 16, .rw, .q⟩, ⟨16, 4, .rw, .q⟩, ⟨20, 7, .rw, .q⟩, ⟨27, 10, .rw, .q⟩, ⟨37, 5, .rw, .q⟩]⟩,
  ⟨false, 0xFF00000C4010, 64, 256, 0x0, [⟨0, 60, .rw, .q⟩]⟩,
  ⟨false, 0xFF00000C4018, 64, 256, 0x0, [⟨0, 60, .rw, .q⟩]⟩]

/-- Register table rows, part 4. -/
def regRows4 : List RegRow := [
  ⟨false, 0xFF00000C4020, 64, 256, 0x0, [⟨0, 24, .rw, .q⟩]⟩,
  ⟨false, 0xFF00000C4028, 64, 256, 0x0, [⟨0, 15, .ro, .now⟩]⟩,
  ⟨false, 0xFF00000C8000, 16, 1024, 0x0, [⟨0, 48, .rw, .t⟩, ⟨48, 1, .rw, .t⟩]⟩,
  ⟨false, 0xFF00000C8008, 16, 1024, 0x0, [⟨0, 32, .rw, .t⟩]⟩,
  ⟨false, 0xFF00000CC000, 64, 32, 0x0, [⟨0, 4, .rw, .t⟩, ⟨4, 1, .rw, .t⟩, ⟨16, 16, .rw, .t⟩, ⟨32, 16, .rw, .t⟩]⟩,
  ⟨false, 0xFF00000CC008, 64, 32, 0x0, [⟨0, 48, .rw, .t⟩]⟩,
  ⟨false, 0xFF00000CC010, 64, 32, 0x0, [⟨0, 24, .rw, .t⟩, ⟨24, 24, .rw, .t⟩]⟩,
  ⟨false, 0xFF00000CC018, 64, 32, 0x0, [⟨0, 40, .rw, .t⟩]⟩,
  ⟨false, 0xFF00000CC020, 64, 32, 0x0, [⟨0, 24, .rw, .t⟩, ⟨24, 24, .rw, .t⟩]⟩,
  ⟨false, 0xFF00000CC028, 64, 32, 0x0, [⟨0, 64, .ro, .now⟩]⟩,
  ⟨false, 0xFF00000CC030, 64, 32, 0x0, [⟨0, 64, .ro, .now⟩]⟩,
  ⟨false, 0xFF00000CC038, 64, 32, 0x0, [⟨0, 1, .ro, .now⟩, ⟨1, 1, .ro, .now⟩, ⟨2, 1, .ro, .now⟩, ⟨3, 1, .ro, .now⟩, ⟨8, 56, .ro, .now⟩]⟩,
  ⟨false, 0xFF0000040000, 0, 1, 0x0, [⟨0, 3, .ro, .now⟩, ⟨3, 3, .ro, .now⟩, ⟨6, 1, .ro, .now⟩, ⟨7, 1, .ro, .now⟩, ⟨8, 1, .ro, .now⟩, ⟨9, 1, .w1c, .now⟩, ⟨10, 1, .ro, .now⟩, ⟨11, 1, .ro, .now⟩, ⟨12, 1, .w1c, .now⟩, ⟨13, 1, .w1c, .now⟩]⟩,
  ⟨false, 0xFF0000040008, 0, 1, 0x1, [⟨0, 32, .ro, .now⟩, ⟨32, 32, .ro, .now⟩]⟩,
  ⟨false, 0xFF0000040010, 0, 1, 0x0, [⟨12, 52, .rw, .t⟩]⟩,
  ⟨false, 0xFF0000040018, 0, 1, 0x0, [⟨0, 5, .rw, .t⟩]⟩,
  ⟨false, 0xFF0000040020, 0, 1, 0x0, [⟨0, 16, .rw, .t⟩]⟩,
  ⟨false, 0xFF0000040028, 0, 1, 0x10000, [⟨0, 16, .ro, .now⟩, ⟨16, 1, .ro, .now⟩]⟩,
  ⟨false, 0xFF0000040030, 0, 1, 0x1FF0000000, [⟨0, 48, .rw, .q⟩]⟩,
  ⟨false, 0xFF0000040038, 0, 1, 0x0, [⟨0, 32, .rw, .t⟩, ⟨32, 32, .ro, .now⟩]⟩,
  ⟨false, 0xFF0000040040, 0, 1, 0x0, [⟨0, 32, .rw, .t⟩, ⟨32, 32, .ro, .now⟩]⟩,
  ⟨false, 0xFF0000040048, 0, 1, 0x0, [⟨0, 32, .ro, .now⟩]⟩,
  ⟨false, 0xFF0000040050, 0, 1, 0x0, [⟨0, 32, .ro, .now⟩, ⟨32, 16, .ro, .now⟩]⟩,
  ⟨false, 0xFF0000040058, 0, 1, 0x0, [⟨0, 5, .w1c, .now⟩]⟩]

/-- Register table rows, part 5. -/
def regRows5 : List RegRow := [
  ⟨false, 0xFF0000048000, 8, 128, 0x0, [⟨0, 64, .rw, .now⟩]⟩,
  ⟨false, 0xFF000004C000, 0, 1, 0x0, [⟨0, 64, .ro, .now⟩]⟩,
  ⟨false, 0xFF0000050000, 0, 1, 0x30000, [⟨0, 16, .ro, .now⟩, ⟨16, 1, .ro, .now⟩, ⟨17, 1, .ro, .now⟩]⟩,
  ⟨false, 0xFF0000050008, 0, 1, 0x0, [⟨0, 1, .ro, .now⟩, ⟨1, 1, .ro, .now⟩, ⟨2, 1, .wo, .now⟩, ⟨3, 1, .w1c, .now⟩, ⟨16, 16, .ro, .now⟩]⟩,
  ⟨false, 0xFF0000050010, 0, 1, 0x0, [⟨0, 64, .ro, .now⟩]⟩,
  ⟨false, 0xFF0000060000, 0, 1, 0x212, [⟨0, 3, .ro, .now⟩, ⟨3, 1, .ro, .now⟩, ⟨4, 4, .ro, .now⟩, ⟨8, 3, .ro, .now⟩, ⟨11, 1, .ro, .now⟩]⟩,
  ⟨false, 0xFF0000060008, 0, 1, 0xD7A, [⟨0, 12, .rw, .q⟩]⟩,
  ⟨false, 0xFF0000060010, 0, 1, 0x0, [⟨0, 12, .ro, .now⟩, ⟨16, 12, .ro, .now⟩]⟩,
  ⟨false, 0xFF0000060018, 0, 1, 0x0, [⟨0, 1, .w1c, .now⟩]⟩,
  ⟨false, 0xFF0000060020, 0, 1, 0x7F0, [⟨0, 4, .ro, .now⟩, ⟨4, 7, .ro, .now⟩]⟩,
  ⟨false, 0xFF0000060028, 0, 1, 0x0, [⟨0, 64, .ro, .now⟩]⟩,
  ⟨false, 0xFF0000060100, 8, 113, 0x0, [⟨0, 16, .ro, .now⟩, ⟨16, 16, .ro, .now⟩, ⟨32, 16, .ro, .now⟩, ⟨48, 1, .ro, .now⟩]⟩,
  ⟨false, 0xFF00000E0000, 0, 1, 0x0, [⟨0, 1, .w1c, .now⟩, ⟨1, 1, .w1c, .now⟩, ⟨2, 1, .w1c, .now⟩, ⟨3, 1, .w1c, .now⟩]⟩,
  ⟨false, 0xFF00000E0008, 0, 1, 0x0, [⟨0, 3, .ro, .now⟩, ⟨8, 48, .ro, .now⟩]⟩,
  ⟨false, 0xFF00000E0010, 8, 8, 0x0, [⟨0, 2, .rw, .now⟩, ⟨8, 8, .rw, .now⟩, ⟨16, 8, .ro, .now⟩, ⟨32, 32, .ro, .now⟩]⟩,
  ⟨false, 0xFF0000070000, 0, 1, 0x0, [⟨0, 1, .w1c, .now⟩, ⟨1, 1, .ro, .now⟩, ⟨2, 1, .ro, .now⟩, ⟨3, 1, .ro, .now⟩, ⟨4, 1, .ro, .now⟩]⟩,
  ⟨false, 0xFF0000070008, 0, 1, 0x0, [⟨0, 1, .wo, .t⟩, ⟨1, 1, .rw, .t⟩, ⟨2, 1, .wo, .t⟩]⟩,
  ⟨false, 0xFF0000070010, 0, 1, 0x0, [⟨0, 6, .ro, .now⟩, ⟨8, 3, .ro, .now⟩, ⟨16, 8, .ro, .now⟩]⟩,
  ⟨false, 0xFF0000070018, 0, 1, 0x0, [⟨0, 64, .ro, .now⟩]⟩,
  ⟨false, 0xFF0000070020, 0, 1, 0x0, [⟨0, 4, .ro, .x⟩]⟩,
  ⟨false, 0xFF0000070028, 0, 1, 0x0, [⟨0, 64, .w1c, .now⟩]⟩,
  ⟨false, 0xFF0000070110, 16, 25, 0x0, [⟨0, 16, .rw, .t⟩, ⟨16, 24, .rw, .t⟩, ⟨40, 1, .rw, .t⟩, ⟨41, 1, .rw, .t⟩, ⟨42, 1, .rw, .t⟩]⟩,
  ⟨false, 0xFF0000070118, 16, 25, 0x0, [⟨0, 16, .ro, .now⟩, ⟨16, 32, .ro, .now⟩]⟩,
  ⟨true, 0x4000, 0, 1, 0x0, [⟨0, 1, .w1c, .now⟩, ⟨1, 1, .w1c, .now⟩, ⟨2, 1, .w1c, .now⟩]⟩]

/-- Register table rows, part 6. -/
def regRows6 : List RegRow := [
  ⟨false, 0xFF0000080000, 0, 1, 0x10000, [⟨0, 21, .rw, .t⟩]⟩,
  ⟨false, 0xFF0000080008, 0, 1, 0x0, [⟨0, 1, .w1c, .now⟩, ⟨1, 1, .ro, .now⟩, ⟨2, 1, .w1c, .now⟩]⟩,
  ⟨false, 0xFF0000080010, 0, 1, 0x0, [⟨0, 32, .ro, .now⟩]⟩,
  ⟨false, 0xFF0000080018, 0, 1, 0x0, [⟨0, 64, .ro, .now⟩]⟩,
  ⟨false, 0xFF0000080020, 0, 1, 0x0, [⟨0, 64, .rw, .t⟩]⟩,
  ⟨false, 0xFF0000080028, 0, 1, 0x0, [⟨0, 7, .ro, .now⟩, ⟨8, 7, .ro, .now⟩, ⟨16, 3, .ro, .now⟩]⟩,
  ⟨false, 0xFF0000080030, 0, 1, 0x0, [⟨0, 64, .ro, .now⟩]⟩,
  ⟨false, 0xFF0000080038, 0, 1, 0x0, [⟨0, 1, .wo, .t⟩]⟩,
  ⟨false, 0xFF0000080100, 16, 96, 0x0, [⟨0, 1, .ro, .now⟩, ⟨1, 1, .ro, .now⟩, ⟨2, 5, .ro, .now⟩, ⟨8, 56, .ro, .now⟩]⟩,
  ⟨false, 0xFF0000080108, 16, 96, 0x0, [⟨0, 64, .ro, .now⟩]⟩,
  ⟨false, 0xFF0000090000, 0, 1, 0x384000400200, [⟨0, 10, .rw, .t⟩, ⟨16, 10, .rw, .t⟩, ⟨32, 24, .rw, .t⟩]⟩,
  ⟨false, 0xFF0000090008, 0, 1, 0xC00, [⟨0, 10, .ro, .now⟩, ⟨10, 1, .ro, .now⟩, ⟨11, 1, .ro, .now⟩, ⟨16, 9, .ro, .now⟩]⟩,
  ⟨false, 0xFF0000090100, 16, 5, 0x0, [⟨0, 5, .rw, .t⟩, ⟨16, 16, .rw, .t⟩, ⟨32, 10, .rw, .t⟩]⟩,
  ⟨false, 0xFF0000090108, 16, 5, 0x0, [⟨0, 10, .ro, .now⟩]⟩,
  ⟨false, 0xFF0000010080, 0, 1, 0x0, [⟨0, 3, .ro, .now⟩, ⟨3, 1, .ro, .now⟩, ⟨32, 32, .ro, .now⟩]⟩,
  ⟨false, 0xFF0000010088, 0, 1, 0x0, [⟨0, 4, .ro, .now⟩, ⟨4, 12, .ro, .now⟩, ⟨16, 3, .ro, .now⟩, ⟨32, 16, .ro, .now⟩, ⟨48, 16, .ro, .now⟩]⟩,
  ⟨false, 0xFF0000010090, 0, 1, 0x0, [⟨0, 64, .ro, .now⟩]⟩,
  ⟨false, 0xFF0000010098, 0, 1, 0x0, [⟨0, 2, .ro, .now⟩, ⟨16, 11, .ro, .now⟩]⟩,
  ⟨false, 0xFF00000100A0, 0, 1, 0x0, [⟨0, 64, .ro, .now⟩]⟩,
  ⟨false, 0xFF00000100A8, 0, 1, 0x0, [⟨0, 64, .ro, .now⟩]⟩,
  ⟨false, 0xFF00000CD000, 0, 1, 0x4000002, [⟨0, 1, .rw, .t⟩, ⟨1, 1, .rw, .t⟩, ⟨16, 20, .rw, .t⟩]⟩,
  ⟨false, 0xFF00000CD008, 0, 1, 0x0, [⟨0, 16, .rw, .q⟩, ⟨16, 4, .rw, .q⟩, ⟨20, 5, .rw, .q⟩]⟩,
  ⟨false, 0xFF00000CD010, 0, 1, 0x0, [⟨0, 60, .rw, .q⟩]⟩,
  ⟨false, 0xFF00000CD018, 0, 1, 0x0, [⟨0, 60, .rw, .q⟩]⟩]

/-- Register table rows, part 7. -/
def regRows7 : List RegRow := [
  ⟨false, 0xFF00000CD020, 0, 1, 0x0, [⟨0, 24, .rw, .q⟩]⟩,
  ⟨false, 0xFF00000CD028, 0, 1, 0x0, [⟨0, 48, .rw, .q⟩]⟩,
  ⟨false, 0xFF00000CD030, 0, 1, 0x0, [⟨0, 48, .rw, .q⟩]⟩,
  ⟨false, 0xFF00000CD038, 0, 1, 0x0, [⟨0, 1, .w1c, .now⟩, ⟨1, 1, .ro, .now⟩, ⟨2, 1, .w1c, .now⟩]⟩,
  ⟨false, 0xFF00000CD040, 0, 1, 0x0, [⟨0, 32, .ro, .now⟩, ⟨32, 32, .ro, .now⟩]⟩,
  ⟨false, 0xFF00000CD048, 0, 1, 0x0, [⟨0, 5, .ro, .now⟩, ⟨16, 16, .ro, .now⟩, ⟨32, 32, .ro, .now⟩]⟩,
  ⟨false, 0xFF00000CD050, 0, 1, 0x0, [⟨0, 64, .ro, .now⟩]⟩,
  ⟨false, 0xFF00000CD058, 0, 1, 0x0, [⟨0, 64, .ro, .now⟩]⟩,
  ⟨false, 0xFF00000D0000, 0, 1, 0x440, [⟨0, 2, .ro, .now⟩, ⟨2, 4, .ro, .now⟩, ⟨6, 2, .ro, .now⟩, ⟨8, 1, .ro, .now⟩, ⟨9, 1, .ro, .now⟩, ⟨10, 1, .ro, .now⟩]⟩,
  ⟨false, 0xFF00000D0008, 0, 1, 0x0, [⟨0, 1, .wo, .t⟩, ⟨1, 1, .wo, .t⟩, ⟨2, 1, .wo, .t⟩, ⟨3, 1, .wo, .t⟩, ⟨4, 1, .wo, .t⟩]⟩,
  ⟨false, 0xFF00000D0010, 0, 1, 0x0, [⟨0, 32, .rw, .t⟩]⟩,
  ⟨false, 0xFF00000D0018, 0, 1, 0x0, [⟨0, 64, .ro, .now⟩]⟩,
  ⟨false, 0xFF00000D0020, 0, 1, 0x0, [⟨0, 64, .ro, .now⟩]⟩,
  ⟨false, 0xFF00000D0028, 0, 1, 0x0, [⟨0, 3, .ro, .now⟩]⟩,
  ⟨false, 0xFF00000D0030, 0, 1, 0x0, [⟨0, 6, .ro, .now⟩, ⟨8, 6, .ro, .now⟩, ⟨16, 6, .ro, .x⟩, ⟨22, 2, .ro, .now⟩, ⟨24, 1, .ro, .now⟩, ⟨25, 3, .ro, .now⟩]⟩,
  ⟨false, 0xFF00000D0038, 0, 1, 0x0, [⟨0, 48, .rw, .t⟩]⟩,
  ⟨false, 0xFF00000D0040, 0, 1, 0x0, [⟨0, 4, .ro, .x⟩, ⟨4, 4, .ro, .x⟩]⟩,
  ⟨false, 0xFF00000D0048, 0, 1, 0x0, [⟨0, 64, .ro, .x⟩]⟩,
  ⟨false, 0xFF00000D0050, 0, 1, 0x0, [⟨0, 64, .ro, .x⟩]⟩,
  ⟨false, 0xFF00000D0058, 0, 1, 0x0, [⟨0, 8, .ro, .now⟩, ⟨8, 8, .ro, .now⟩]⟩,
  ⟨false, 0xFF0000050018, 0, 1, 0xFF00, [⟨0, 3, .ro, .now⟩, ⟨6, 2, .ro, .now⟩, ⟨8, 8, .ro, .now⟩, ⟨16, 12, .ro, .now⟩]⟩,
  ⟨false, 0xFF00000100B0, 0, 1, 0x0, [⟨0, 64, .rw, .t⟩]⟩,
  ⟨false, 0xFF00000100B8, 0, 1, 0x0, [⟨0, 32, .rw, .t⟩, ⟨32, 1, .w1c, .now⟩, ⟨33, 1, .ro, .now⟩]⟩,
  ⟨false, 0xFF0000000028, 0, 1, 0x0, [⟨0, 1, .ro, .x⟩, ⟨1, 1, .ro, .x⟩, ⟨2, 1, .ro, .x⟩]⟩]

/-- Register table rows, part 8. -/
def regRows8 : List RegRow := [
  ⟨false, 0xFF0000060030, 0, 1, 0x7F000000, [⟨0, 16, .ro, .now⟩, ⟨16, 7, .ro, .now⟩, ⟨24, 7, .ro, .now⟩, ⟨31, 1, .ro, .now⟩]⟩,
  ⟨false, 0xFF0000060038, 0, 1, 0x0, [⟨0, 16, .ro, .now⟩, ⟨16, 16, .ro, .now⟩, ⟨32, 16, .ro, .now⟩, ⟨48, 16, .ro, .now⟩]⟩]

/-- Every row of the spec's register tables. -/
def regRows : List RegRow :=
  regRows0 ++ regRows1 ++ regRows2 ++ regRows3 ++ regRows4 ++ regRows5 ++ regRows6 ++ regRows7 ++ regRows8

/-- The index of an address within a row's array of registers. -/
def RegRow.index (r : RegRow) (a : Nat) : Option Nat :=
  if a < r.base then none
  else if r.stride = 0 then (if a = r.base then some 0 else none)
  else if (a - r.base) % r.stride = 0 ∧ (a - r.base) / r.stride < r.count then some ((a - r.base) / r.stride)
  else none

/-- The address as it stands in the rows: an offset in the core's block for a per-core block. -/
def regOffset (a : Nat) : Bool × Nat :=
  if 0xFF0001000000 ≤ a ∧ a < 0xFF0001000000 + 96 * 0x10000 then (true, (a - 0xFF0001000000) % 0x10000)
  else (false, a)

/-- Search the rows for an address. -/
def regSearch (pc : Bool) (a : Nat) : List RegRow → Option (RegRow × Nat)
  | [] => none
  | r :: rs =>
    if r.perCore = pc then
      match r.index a with
      | some i => some (r, i)
      | none => regSearch pc a rs
    else regSearch pc a rs

/-- The register at an address, with its index in its array; none at an unassigned offset (R220). -/
def regAt (a : Nat) : Option (RegRow × Nat) := regSearch (regOffset a).1 (regOffset a).2 regRows

/-- The address lies in the register range (R218). -/
def inRegRange (a : Nat) : Bool := decide (0xFF0000000000 ≤ a ∧ a < 0xFF0004000000)

/-- Counting defaults of R331 for source s (1 to 25): N, W, IE, PIN, SUSPECT. -/
def srcDefaults : List (Nat × Nat × Nat × Nat × Nat) :=
  [(1, 1, 1, 0, 0), (1, 1, 1, 0, 0), (2, 65536, 1, 1, 1), (2, 65536, 1, 1, 1), (0, 0, 0, 0, 0), (1, 1, 1, 0, 0),
   (1, 1, 1, 0, 0), (1, 1, 1, 0, 0), (2, 65536, 1, 1, 1), (1, 1, 1, 0, 0), (1, 1, 1, 0, 0), (2, 65536, 1, 1, 1),
   (64, 4096, 0, 0, 0), (2, 65536, 1, 1, 1), (256, 4096, 0, 0, 0), (2, 65536, 1, 1, 1), (4, 65536, 1, 0, 0),
   (1024, 4096, 0, 0, 0), (1, 1, 1, 0, 0), (16, 4096, 1, 0, 0), (1, 1, 1, 0, 0), (1, 1, 1, 0, 0), (1, 1, 1, 1, 1),
   (1, 1, 1, 1, 1), (1, 1, 1, 0, 0)]

/-- Reset value of FLT_SRC_CFG(s) from R331; source 24 marks suspect for causes 5 and 6 only (R333). -/
def srcCfgReset (i : Nat) : Nat :=
  let (n, w, ie, pin, sus) := srcDefaults.getD i (0, 0, 0, 0, 0)
  n + w * 2 ^ 16 + ie * 2 ^ 40 + pin * 2 ^ 41 + sus * 2 ^ 42

/-- Reset value of SVC_ARB(r): class and limit of R324. -/
def svcArbReset (i : Nat) : Nat :=
  let (c, l) := ([(1, 16), (2, 16), (2, 16), (3, 16), (1, 16), (0, 64), (1, 16), (3, 16)] : List (Nat × Nat)).getD i (0, 0)
  c + l * 2 ^ 8

/-- Reset value of FRW_IN_CFG(i): A, GAIN and CAP of R349. -/
def frwInReset (i : Nat) : Nat :=
  let (a, g, c) := ([(12, 4, 256), (12, 4, 256), (12, 1, 192), (16, 3200, 512), (4, 1, 128)] :
    List (Nat × Nat × Nat)).getD i (0, 0, 0)
  a + g * 2 ^ 16 + c * 2 ^ 32

/-- The value a register holds at reset: what the tables state, what R324, R331 and R349 state for the registers
that point to them, and the model's choices for fused, sampled and loaded fields (assumption 1). -/
def regReset (a : Nat) : BitVec 64 :=
  match regAt a with
  | none => 0
  | some (r, i) =>
    if r.perCore then BitVec.ofNat 64 r.reset
    else if r.base = Reg.FLT_SRC_CFG 1 then BitVec.ofNat 64 (srcCfgReset i)
    else if r.base = Reg.SVC_ARB 0 then BitVec.ofNat 64 (svcArbReset i)
    else if r.base = Reg.FRW_IN_CFG 0 then BitVec.ofNat 64 (frwInReset i)
    else BitVec.ofNat 64 r.reset

end Sys2Proof.Machine
end

