-- ==== Sys2Proof/Syntax.lean ====
section
/-! DEFINITION. The commands of the SVT-3: one constructor of `Instr` per row of the opcode table, with the row's
operands. Fields of an Ocran-3 slot keep the width that R151 and the slot tables R158 to R167 give them. -/

namespace Sys2Proof

/-- A data packet: the header fields of R246 and the payload bytes. -/
structure DataPkt where
  vl : BitVec 2
  sub : Bool
  epoch : Bool
  spec : Bool
  kind : BitVec 3
  hops : BitVec 5
  next : BitVec 5
  dtype : BitVec 4
  dest : BitVec 16
  stype : BitVec 4
  src : BitVec 16
  score : BitVec 7
  dcore : BitVec 7
  res : BitVec 10
  lscene : BitVec 4
  seq : BitVec 14
  last : Bool
  status : BitVec 3
  route : BitVec 144
  payload : List Byte
  deriving DecidableEq, Repr

/-- A control packet: the header fields of R248 and payload bytes 16 to 63. -/
structure CtrlPkt where
  sub : Bool
  epoch : Bool
  ckind : BitVec 4
  hops : BitVec 4
  next : BitVec 4
  dtype : BitVec 4
  dest : BitVec 16
  stype : BitVec 4
  src : BitVec 16
  route : BitVec 72
  payload : List Byte
  deriving DecidableEq, Repr

/-- A packet of the fabric (R245). -/
inductive Pkt where
  | data (p : DataPkt)
  | ctrl (p : CtrlPkt)
  deriving DecidableEq, Repr

/-- What a transfer of the service bus addresses (R295, R324): the device address space, the command window, or the telemetry window
that BAR4 reads. -/
inductive BusSpace where
  | device | window | telemetry
  deriving DecidableEq, Repr

/-- A transfer that a requester of the service bus asks for (R324, R325): a read of `len` bytes, or a write of `data`, at an address of
the device or an offset in a window. -/
structure BusReq where
  req : BitVec 3
  write : Bool
  space : BusSpace
  addr : BitVec 48
  len : BitVec 7
  data : List Byte
  deriving DecidableEq, Repr

/-- What the sensors and the regulators read at one instant (R318, R319, R424, R427): temperatures of the die sensors by
rail index and of the cold plate in 1/16 °C, rail voltages in mV and currents in 10 mA, the package power over the scene
so far in W with its largest 10 µs average, and VIN_MAIN and V3P3_AUX. -/
structure Readings where
  temps : List (BitVec 16) := []
  coldplate : BitVec 16 := 0
  railMv : List (BitVec 16) := []
  railCur : List (BitVec 16) := []
  pkgAvg : BitVec 12 := 0
  pkgPeak : BitVec 12 := 0
  vinMv : BitVec 16 := 0
  vinAmps : BitVec 16 := 0
  vinPeak : BitVec 16 := 0
  auxMv : BitVec 16 := 0
  deriving DecidableEq, Repr

/-- What a defect of two cores brings about in their Rehearsal: the lowest test that a residue or an uncorrectable Trellis error fails (0
none), and the captured results that differ: whether of the higher-numbered core, the test, the result's index and the bits that differ
(R340, R345). -/
structure RhsReport where
  residue : BitVec 3 := 0
  upsets : List (Bool × BitVec 3 × BitVec 24 × BitVec 32) := []
  deriving DecidableEq, Repr

/-- An operation of the JTAG port (R389, R421). -/
inductive JtagOp where
  | idcode
  /-- Boundary scan of the LVCMOS lands: the levels shifted in. -/
  | scan (bits : BitVec 8)
  /-- A read of SDR_STATUS, which needs no scope. -/
  | status
  /-- Halt, resume or step a Stage Manager pair, under SMG scope. -/
  | halt (pair : Bool)
  | resume (pair : Bool)
  | single (pair : Bool)
  deriving DecidableEq, Repr

/-- The commands. The first operand of an Ocran-3 instruction is the core whose unit runs it. -/
inductive Instr where
  --COREBEGIN
  /-- BUNDLE_ISSUE: the core's next bundle is fetched, decoded and issued (R118). -/
  | bundleIssue (c : CoreId)
  | mma (c : CoreId) (acc a b : BitVec 4) (ovw : Bool)
  | mmat (c : CoreId) (acc a b : BitVec 4) (ovw ts : Bool)
  | partialIntake (c : CoreId)
  | drain (c : CoreId) (acc dst sa sb fmt : BitVec 4) (mode : BitVec 2) (scl keep : Bool)
  | spill (c : CoreId) (acc : BitVec 4)
  | fill (c : CoreId) (acc : BitVec 4)
  | fenceRelease (c : CoreId)
  | residueComparison (c : CoreId)
  | vxsum (c : CoreId) (acc : BitVec 4) (v : BitVec 5) (q : BitVec 3) (ovw : Bool) (row col : BitVec 7) (g : BitVec 6)
  | vxacc (c : CoreId) (acc : BitVec 4) (v : BitVec 5) (q : BitVec 3) (ovw : Bool) (row : BitVec 7) (h : Bool)
      (g : BitVec 6)
  | vld (c : CoreId) (vd : BitVec 5) (p : BitVec 4) (off : BitVec 16) (fmt : BitVec 4)
  | vst (c : CoreId) (va : BitVec 5) (p : BitVec 4) (off : BitVec 16) (fmt : BitVec 4) (mode : BitVec 2) (q : BitVec 3)
  | vadd (c : CoreId) (vd va vb : BitVec 5) (q : BitVec 3) (mode : BitVec 2)
  | vsub (c : CoreId) (vd va vb : BitVec 5) (q : BitVec 3) (mode : BitVec 2)
  | vmul (c : CoreId) (vd va vb : BitVec 5) (q : BitVec 3) (mode : BitVec 2)
  | vfma (c : CoreId) (vd va vb vc : BitVec 5) (q : BitVec 3) (mode : BitVec 2)
  | vmax (c : CoreId) (vd va vb : BitVec 5) (q : BitVec 3)
  | vmin (c : CoreId) (vd va vb : BitVec 5) (q : BitVec 3)
  | vabs (c : CoreId) (vd va : BitVec 5) (q : BitVec 3)
  | vneg (c : CoreId) (vd va : BitVec 5) (q : BitVec 3)
  | vexp (c : CoreId) (vd va : BitVec 5) (q : BitVec 3) (mode : BitVec 2)
  | vlog (c : CoreId) (vd va : BitVec 5) (q : BitVec 3) (mode : BitVec 2)
  | vrcp (c : CoreId) (vd va : BitVec 5) (q : BitVec 3) (mode : BitVec 2)
  | vrsq (c : CoreId) (vd va : BitVec 5) (q : BitVec 3) (mode : BitVec 2)
  | vcmp (c : CoreId) (qd : BitVec 3) (va vb : BitVec 5) (cc : BitVec 3) (q : BitVec 3)
  | vsel (c : CoreId) (vd va vb : BitVec 5) (q : BitVec 3)
  | vcvt (c : CoreId) (vd va : BitVec 5) (fmt : BitVec 4) (mode : BitVec 2) (q : BitVec 3)
  | vsplat (c : CoreId) (vd : BitVec 5) (ga : BitVec 6)
  | vamax (c : CoreId) (gd : BitVec 6) (va : BitVec 5) (q : BitVec 3)
  | seed (c : CoreId) (vd : BitVec 5) (ga : BitVec 6) (tag : BitVec 16) (pur : BitVec 4) (w : BitVec 2) (sc : Bool)
  | dmov (c : CoreId) (ps pd : BitVec 4) (gl : BitVec 6)
  | dmovi (c : CoreId) (ps pd : BitVec 4) (len : BitVec 16)
  /-- DATA_MOVER_LINE: the next line of the core's `k`-th transfer reaches its destination (R229). -/
  | dataMoverLine (c : CoreId) (k : Nat)
  | stash (c : CoreId) (v : BitVec 5) (enc : BitVec 2) (ff : Bool) (g : BitVec 6) (plan : BitVec 12)
  | unstash (c : CoreId) (vd : BitVec 5) (enc : BitVec 2) (ff : Bool) (plan : BitVec 12)
  | frameSpill (c : CoreId)
  | frameSpillDone (c : CoreId)
  | frameReadbackDone (c : CoreId)
  | send (c : CoreId) (x : BitVec 12) (ps : BitVec 4)
  | recv (c : CoreId) (x : BitVec 12) (pd : BitVec 4)
  | recvComplete (c : CoreId) (x : BitVec 12)
  | gather (c : CoreId) (x : BitVec 12) (pd : BitVec 4)
  | gatherComplete (c : CoreId) (x : BitVec 12)
  | xred (c : CoreId) (x : BitVec 12) (acc : BitVec 4)
  | xredComplete (c : CoreId) (x : BitVec 12)
  | transferAnchor (c : CoreId) (x : BitVec 12)
  | lateTransferLaunch (c : CoreId) (x : BitVec 12)
  | loop (c : CoreId) (n : BitVec 16) (len : BitVec 12)
  | jmp (c : CoreId) (q : BitVec 3) (neg : Bool) (off : BitVec 16)
  | wait (c : CoreId) (n : BitVec 16)
  | phase (c : CoreId) (tag : BitVec 16)
  | confirm (c : CoreId) (gd : BitVec 6)
  | confirmOutcome (c : CoreId)
  | squash (c : CoreId)
  | admitRegion (c : CoreId) (gd : BitVec 6) (x : BitVec 12)
  | admitComplete (c : CoreId)
  | slot (c : CoreId) (n : BitVec 6)
  | gets (c : CoreId) (gd : BitVec 6) (sr : BitVec 4)
  | posadd (c : CoreId) (imm : BitVec 16)
  | movi (c : CoreId) (gd : BitVec 6) (imm : BitVec 16) (sh : BitVec 2) (kp : Bool)
  | addi (c : CoreId) (gd ga : BitVec 6) (imm : BitVec 16)
  | add (c : CoreId) (gd ga gb : BitVec 6)
  | sub (c : CoreId) (gd ga gb : BitVec 6)
  | and (c : CoreId) (gd ga gb : BitVec 6)
  | or (c : CoreId) (gd ga gb : BitVec 6)
  | xor (c : CoreId) (gd ga gb : BitVec 6)
  | shl (c : CoreId) (gd ga gb : BitVec 6)
  | shr (c : CoreId) (gd ga gb : BitVec 6)
  | sar (c : CoreId) (gd ga gb : BitVec 6)
  | mul (c : CoreId) (gd ga gb : BitVec 6)
  | cmp (c : CoreId) (qd : BitVec 3) (ga gb : BitVec 6) (cc : BitVec 3)
  | padd (c : CoreId) (pd pa : BitVec 4) (gb : BitVec 6)
  | pset (c : CoreId) (pd : BitVec 4) (ga : BitVec 6)
  | pget (c : CoreId) (gd : BitVec 6) (pa : BitVec 4)
  | tld (c : CoreId) (t : BitVec 4) (idx : BitVec 10)
  | tadj (c : CoreId) (t : BitVec 4) (fld : BitVec 3) (ga : BitVec 6)
  --COREEND
  /-- CUE: local fabric time reaches the announced NEXT_CUE (R29). -/
  | cue
  | cueHoldover
  | idleTick
  | syncPacketEmit
  | announcementEmit
  | finalAnnouncement
  /-- TIMING: a timing packet arrives on link `k` (R35). -/
  | timing (k : LinkId) (p : CtrlPkt)
  | halt (k : LinkId) (p : CtrlPkt)
  | notice (k : LinkId) (p : CtrlPkt)
  /-- TIM_CAPT_READ: 0 both halves, 1 the low half, 2 the high half (R42). -/
  | timCaptRead (part : BitVec 2)
  /-- PACKET_FORWARD: packet `p` that link `k` delivers is looked up and sent on (R252). -/
  | packetForward (k : LinkId) (p : Pkt)
  | write (k : LinkId) (p : DataPkt)
  | shard (k : LinkId) (p : DataPkt)
  | shardRequest (k : LinkId) (p : DataPkt)
  /-- SHARD_SERVE: the shard server reads the shard of its oldest request (R282). -/
  | shardServe
  | xp (k : LinkId) (p : DataPkt)
  | xpAbsorb (k : LinkId) (p : DataPkt)
  /-- REDUCER_EMIT: context `x` of link die `d` emits its next element (R275). -/
  | reducerEmit (d : BitVec 2) (x : BitVec 6)
  | rdReq (k : LinkId) (p : DataPkt)
  | wrReq (k : LinkId) (p : DataPkt)
  /-- REQUEST_SERVE: the request server completes its oldest request (R247). -/
  | requestServe
  | rdRsp (k : LinkId) (p : DataPkt)
  | wrAck (k : LinkId) (p : DataPkt)
  /-- REQUEST_TIMEOUT: the request with this tag has had no reply for 10 ms (R356). -/
  | requestTimeout (tag : BitVec 14)
  /-- CREDIT_RETURN: a credit for a sub-lane of VL0 to VL2, or for a reservation of VL3 with its LSCENE (R261, R263). -/
  | creditReturn (k : LinkId) (vl : BitVec 2) (sub : Bool) (res : BitVec 10) (lscene : BitVec 4)
  /-- FLIT: a flit arrives: what the FEC found (0 clean, 1 corrected, 2 beyond correction), what its link management
  says of the peer (0 nothing, 1 the peer rests, 2 it is active), its CRC field and bytes 0 to 231, BODY and LCTL, as the
  FEC leaves them (R237, R238). -/
  | flit (k : LinkId) (fec : BitVec 2) (crc : BitVec 32) (mgmt : BitVec 2) (bytes : List Byte)
  | linkDown (k : LinkId)
  /-- LINK_DETECT_PROBE: a probe, and whether it found a receiver termination (R240). -/
  | linkDetectProbe (k : LinkId) (found : Bool)
  /-- CAPABILITY_EXCHANGE: the peer's capability words (R240, R242). -/
  | capabilityExchange (k : LinkId) (rev : BitVec 2) (gen : BitVec 2) (type : BitVec 4) (id : BitVec 16) (port : BitVec 6)
  | equaliseDone (k : LinkId)
  /-- MEASURE_DONE: each probe's round trip and the turnaround that the peer reports, in 2^-16 ns (R241). -/
  | measureDone (k : LinkId) (probes : List (BitVec 40 × BitVec 40))
  | verifyDone (k : LinkId)
  | trainingRetry (k : LinkId)
  /-- WITNESS_RUN_START, WITNESS_RUN_DONE: the witness entry (R288). -/
  | witnessRunStart (w : BitVec 5)
  | witnessRunDone (w : BitVec 5)
  /-- The rows of host commands act on the record that a scan has taken (R298, R300). -/
  | nop
  | loadBooks
  /-- LOAD_BOOKS_DONE: the loader's checks end (R125). -/
  | loadBooksDone
  | startRun
  | setPower
  | powerStepDone
  | bindSlot
  | unbindSlot
  | datapos
  | checkpoint
  | checkpointSnapshot
  | checkpointDone
  | restore
  | restoreDone
  | restoreAlign
  | debugUnlock
  | tokenEvaluation
  | abort
  | reservedCommand
  | queuedNoticePost
  /-- TELEMETRY_RECORD_STORE: 0 the oldest phase record of core `c`, 1 an event record, 2 a trace record (R309). -/
  | telemetryRecordStore (ring : BitVec 2) (c : CoreId)
  | flr
  | d3hot (enter : Bool)
  | getVersion
  | getCapabilities
  | negotiateAlgorithms
  | getDigests
  /-- GET_CERTIFICATE: the slot, and the part of the chain that is asked for (R391). -/
  | getCertificate (slot : BitVec 4) (off len : BitVec 16)
  | challenge (slot : BitVec 4)
  /-- GET_MEASUREMENTS: 0 the number of blocks, 0xFF all, else one index; with or without a signature (R391, R392). -/
  | getMeasurements (index : BitVec 8) (sign : Bool)
  /-- SERVICE_BUS_TRANSFER: the transfers that requesters newly ask for; the arbiter grants one of those that wait (R326). -/
  | serviceBusTransfer (new : List BusReq)
  /-- REGISTER_WRITE: the host writes `v` to the register at device address `a` (R322). -/
  | registerWrite (a : BitVec 48) (v : Word)
  | scnLenWrite (len : BitVec 24)
  | clearHalt
  | timRoleWrite (root : Bool)
  | timCtrlWrite (en : Bool)
  | timEpochWrite (t : Word)
  | timCueParentWrite (port : BitVec 6)
  | timCueChildWrite (mask : BitVec 48)
  /-- CFR_OVF_WRITE: core `c`'s CFR_OVF_SIZE, or its CFR_OVF_BASE (R180). -/
  | cfrOvfWrite (c : CoreId) (size : Bool) (v : Word)
  /-- CFG_HIST_WRITE: CFG_HIST, or CFG_HIST_BASE (R211). -/
  | cfgHistWrite (count : Bool) (v : Word)
  | hstTelBaseWrite (v : Word)
  | hstCplHeadWrite (head : BitVec 16)
  /-- MSIX_TABLE_WRITE: 4 bytes at dword `i` of the table, or 8 bytes at an even dword (R311). -/
  | msixTableWrite (ix : BitVec 8) (wide : Bool) (v : Word)
  | svcArbWrite (r : BitVec 3) (v : Word)
  | discardQ
  | pinClear
  | pinTest
  | trlInjectRes (c : CoreId)
  | trlInjectSec (c : CoreId)
  | cfrInjectSec (c : CoreId)
  | spdInjectSec (c : CoreId)
  | memInjectSym (stack : Fin 12)
  | klInjectCrc (k : LinkId)
  | klInjectFec (k : LinkId)
  | xclInjectRes
  | rhsInjectDigest
  | retrain (k : LinkId)
  /-- SCN_DBG_HALT_WRITE: SCN_DBG_HALT1, or SCN_DBG_HALT0 (R405). -/
  | scnDbgHaltWrite (high : Bool) (v : Word)
  /-- FAB_HOPMAP_WRITE: entry `i` = 64 × bank + code (R258). -/
  | fabHopmapWrite (ix : BitVec 7) (v : Word)
  | fabResWrite (r : BitVec 10) (v : Word)
  /-- XCL_RCTX_CFG_WRITE: context `i` = 64 × link die + context (R290). -/
  | xclRctxCfgWrite (ix : BitVec 8) (v : Word)
  | wltTagWrite (ix : BitVec 8) (v : Word)
  /-- FLT_SRC_CFG_WRITE: source `i` + 1 (R352). -/
  | fltSrcCfgWrite (ix : Fin 25) (v : Word)
  | selftest
  /-- SELFTEST_DONE: bit i: self-test i of R383 failed. -/
  | selftestDone (fails : BitVec 8)
  | zeroise
  | zeroisationDone
  | debugLock
  | fwCommit
  /-- FW_COMMIT_DONE: whether the flash reads back as written (R387). -/
  | fwCommitDone (readback : Bool)
  | svnAdvance
  /-- ENTROPY_SAMPLE: whether the sample passes the continuous health tests (R383). -/
  | entropySample (pass : Bool)
  | tamper
  /-- IDENTITY_KEY_GENERATION: the pair that is generated, its modulus and its private exponent, big-endian (R383, R390). -/
  | identityKeyGeneration (key : List Byte × List Byte)
  | certificateWrite (device ca : List Byte)
  | deploy
  | perstAssert
  /-- PERST_DEASSERT: the straps as sampled (R422). -/
  | perstDeassert (mfg wp spare : Bool)
  /-- STAGE_DOOR_BOOT_DONE: which self-tests fail, which units answer on the service bus (stacks, then link dies) (R22,
  R382). -/
  | stageDoorBootDone (fails : BitVec 8) (answers : BitVec 16)
  | railRampDone
  /-- MEMORY_CLEAR_DONE: the stacks that fail to clear (R401). -/
  | memoryClearDone (failed : BitVec 12)
  | auxUndervoltage
  | powerLoss
  | vinOvercurrent
  | railFault (rail : BitVec 7)
  | sensorRead (r : Readings)
  | lockstep (pair : Bool)
  | tcmUncorr
  | trst
  | severe
  | rehearsalDue
  | forcedRehearsal (c : CoreId)
  | rehearsalStart (c : CoreId)
  /-- REHEARSAL_END: the pair that core `c` is in, with what a defect of its cores brings about (R340, R345). -/
  | rehearsalEnd (c : CoreId) (found : RhsReport)
  | frostWatchWarm
  | wiltAlarm
  | wiltLong
  | twinExchange
  | silent
  | scrubRead
  /-- COMMAND_WINDOW_WRITE: a write TLP of these bytes at a BAR2 offset (R297). -/
  | commandWindowWrite (off : BitVec 24) (bytes : List Byte)
  /-- POWER_UP: the supplies reach regulation with PERST# deasserted, and the straps (R397, R422). -/
  | powerUp (mfg wp spare : Bool)
  /-- PCIE_LINK_TRAINING: the rate and width that the link trains to, and FLIT mode (R292, R294). -/
  | pcieLinkTraining (rate width : BitVec 3) (flit : Bool)
  | jtagDebug (op : JtagOp)
  deriving DecidableEq, Repr

end Sys2Proof
end

