-- ==== Sys2Proof/Machine/State.lean ====
section
/-! DEFINITION. The state of the SVT-3 as plain data: every register, memory, buffer, queue, counter, mode and pin that
the spec gives the device, and the queue of commands that wait. INVENTORY.md lists each with its rule. -/

namespace Sys2Proof.Machine

/-- Why a step can stop with a fault. -/
inductive Fault where
  /-- An Ocran-3 instruction carries a field value that R172 calls an illegal encoding and for which no rule gives a
  run-time effect; raised by the commands of that instruction and by BUNDLE_ISSUE of a corrupted bundle. Safe: the
  model stops where the spec gives no effect. -/
  | illegalEncoding
  deriving DecidableEq, Repr

/-- Why a step can be refused. -/
inductive Refusal where
  /-- The command of this mnemonic has no meaning yet. Safe: no statement covers it. -/
  | notModelled (mnemonic : String)
  deriving DecidableEq, Repr

/-! ### The cores -/

/-- A tile descriptor (R153): the fields of its eight words. -/
structure Desc where
  fmt : BitVec 4
  role : BitVec 2
  rows : BitVec 2
  cols : BitVec 2
  acc : Bool
  bdim : Bool
  frzMode : Bool
  klen : BitVec 16
  tag : BitVec 16
  f : BitVec 16
  addr : BitVec 48
  xaddr : BitVec 48
  stride : BitVec 24
  xstride : BitVec 24
  scale : BitVec 32
  row0 : BitVec 24
  col0 : BitVec 24
  k0 : BitVec 40
  freeze : BitVec 128
  deriving DecidableEq, Repr

/-- The register files of one core (R122) and SLOT (R123). An unlisted register reads zero; t holds no descriptor. -/
structure Regs where
  g : SMap Word := []
  p : SMap Addr := []
  v : SMap Lanes := []
  q : SMap Word := []
  t : SMap (Option Desc) := []
  slot : BitVec 6 := 0
  deriving DecidableEq, Repr

/-- The six units of a core (R117). -/
inductive UnitId where
  | m | t | v | d | f | c
  deriving DecidableEq, Repr

/-- An instruction in a unit queue (R118): the registers as its bundle read them at issue (R156), the bundle address
(R150), the ordinal of the region it was issued in, its place in the core's issue order, and the CYCLE of its issue (R107). -/
structure QEntry where
  instr : Instr
  regs : Regs
  bundle : Nat
  region : Option Nat
  seq : Nat
  at_ : Nat
  deriving DecidableEq, Repr

/-- One aligned addend of a partial: g × 2^e, with its 13-bit residue (R77, R78). -/
structure PPart where
  g : Int
  e : Int
  res : Nat
  deriving DecidableEq, Repr

/-- A partial on its way to the Trellis store (R77, R78), with the CYCLE at whose end it is in the store (R107). A split partial
has two addends. -/
structure PPartial where
  granule : Nat
  row : Nat
  col : Nat
  j : Nat
  count : Nat
  pinf : Bool
  ninf : Bool
  nan : Bool
  allneg0 : Bool
  maxExp : Option Int
  parts : List PPart
  last : Bool
  treg : Nat
  bundle : Nat
  region : Option Nat
  at_ : Nat
  deriving DecidableEq, Repr

/-- A recorded MMA or MMAT of a C160 tile's pass (R102): its descriptors and, for MMAT, its TS. -/
structure RecMma where
  a : Desc
  b : Desc
  acc : Desc
  ts : Option Bool
  treg : Nat
  bundle : Nat
  deriving DecidableEq, Repr

/-- The fill point of a tile (R102, R103): its overwrite, or the image read by its last FILL. -/
inductive FillPt where
  | overwrite
  | c160
  | f640
  deriving DecidableEq, Repr

/-- A tile table entry (R95, R97, R103, R107, R156). `id` tells the accumulations of one core apart (R200); `settled` is the CYCLE
from which its fence is open: the one after the last of its partials, or an XRED on it, is in the store (R107); `wovf`: a window overflow has been met (R105). -/
structure Tile where
  id : Nat
  granule : Nat
  rows : Nat
  cols : Nat
  c160 : Bool
  f : Int
  tag : BitVec 16
  row0 : Nat
  col0 : Nat
  inflight : Nat
  settled : Nat
  promoted : Bool
  wovf : Bool
  drained : Bool
  fill : FillPt
  fillAddr : Nat
  recs : List RecMma
  region : Option Nat
  deriving DecidableEq, Repr

/-- A DRAIN, SPILL or XRED that waits at the fence (R107), or a DRAIN or SPILL whose promotion replay runs: the replay's cycles and
the CYCLE at which it ends (R103, R104). -/
structure FenceOp where
  entry : QEntry
  replay : Option (Nat × Nat)
  deriving DecidableEq, Repr

/-- A residue comparison not yet made (R108): the destination ranges it guards, the lowest failing element, the CYCLE from which the
destination is readable in the wings, and the CYCLE of the comparison (R107). -/
structure Cmp where
  ranges : List (Nat × Nat)
  fail : Option (Nat × Nat × Nat × Nat)
  done : Bool
  injected : Bool
  treg : Nat
  bundle : Nat
  region : Option Nat
  seq : Nat
  open_ : Nat
  at_ : Nat
  deriving DecidableEq, Repr

/-- A data mover transfer in progress (R229). `start` is the cycle from the cue at which it starts, `lands` that at which the last line
moved is written. -/
structure DmXfer where
  src : Nat
  dst : Nat
  len : Nat
  moved : Nat
  bad : Bool
  region : Option Nat
  bundle : Nat
  seq : Nat
  start : Nat
  lands : Nat
  deriving DecidableEq, Repr

/-- A data mover transfer whose lines have all been taken and whose last is not yet written (R229): destination, length, the cycle from the
cue at which it is complete, and its place in issue order. -/
structure Landing where
  dst : Nat
  len : Nat
  at_ : Nat
  seq : Nat
  deriving DecidableEq, Repr

/-- A transfer at the fabric port: SEND, RECV, GATHER or XRED by its table index (R166, R264). `addr` is PS or PD;
for an XRED `acc` is its accumulator descriptor. `fence`: the drain fence is behind it (R278); `sent`: its packets have
left the core's port; `inOn`: inbound data moves to the core (R265, R278); `seqs` and `lastSeq`: packets written;
`added` and `streams`: contributions added and the next index of each inbound stream (R278); `rest`: payloads of an XRED beyond
BYTES, with the first SEQ among them, that launch late (R279). -/
structure PortXfer where
  instr : Instr
  x : Nat
  addr : Nat
  acc : Option Desc
  treg : Nat
  region : Option Nat
  bundle : Nat
  regs : Regs
  fence : Bool
  sent : Bool
  inOn : Bool
  seqs : List Nat
  lastSeq : Option Nat
  added : Nat
  streams : List (List Nat × Nat)
  bad : Bool
  seq : Nat
  at_ : Nat
  rest : Nat × List (List Byte)
  deriving DecidableEq, Repr

/-- What a wings line is pending for (R135, R139): a region of the core itself, or a region of a source core. -/
inductive Pend where
  | own
  | src (dev core region : Nat)
  deriving DecidableEq, Repr

/-- A Repot trigger seen in a region or at an unguarded DRAIN (R196, R200), with the ordinal of its tile. -/
structure Trig where
  tile : Nat
  tag : Nat
  kind : Nat
  c160 : Bool
  fmt : Nat
  deriving DecidableEq, Repr

/-- Speculative packets sent to one peer on one reservation (R138, R283), with the route of the first SEND to it. -/
structure SentRec where
  dev : Nat
  core : Nat
  local_ : Bool
  res : Nat
  count : Nat
  hops : Nat
  route : BitVec 144
  dtype : BitVec 4
  deriving DecidableEq, Repr

/-- States of a Cold Frame plan entry (R178). -/
inductive CfSt where
  | empty | filling | reading | evicted
  deriving DecidableEq, Repr

/-- Where a page of a plan entry is (R176, R181, R182). -/
inductive CfLoc where
  | frame (p : Nat)
  | spilling (p r : Nat)
  | ovf (r : Nat)
  | readback (r p : Nat)
  | gone
  deriving DecidableEq, Repr

/-- A Cold Frame plan entry (R177, R178): encoding, groups stashed, groups returned, pages in order. -/
structure CfEntry where
  st : CfSt := .empty
  enc : BitVec 2 := 0
  ff : Bool := false
  n : Nat := 0
  rd : Nat := 0
  pages : List CfLoc := []
  deriving DecidableEq, Repr

/-- Wilt Watch counts of one watched entry: E, Z, U (R207). -/
structure WiltCnt where
  e : Nat := 0
  z : Nat := 0
  u : Nat := 0
  deriving DecidableEq, Repr

/-- The open speculative region of a core (R132 to R137). -/
structure Region where
  ord : Nat
  shadow : Regs
  cfShadow : SMap CfEntry
  trigs : List Trig
  fault : Bool
  sent : List SentRec
  posadd : List (BitVec 6 × Nat)
  wilt : List (Nat × WiltCnt)
  deriving DecidableEq, Repr

/-- What a core holds of one source region (R138, R139, R284): its notice and the packets written, per reservation. -/
structure SrcRegion where
  dev : Nat
  core : Nat
  region : Nat
  notice : Option (Nat × List (Nat × Nat))
  written : List (Nat × Nat)
  deriving DecidableEq, Repr

/-- One level of the loop stack (R119): first and last bundle of the body and repetitions left. -/
structure LoopFrame where
  first : Nat
  last : Nat
  left : Nat
  deriving DecidableEq, Repr

/-- A transfer table entry (R264), with its XDATA bytes 42 to 63 (R277, R281). -/
structure XferEntry where
  kind : Nat
  hops : Nat
  dest : Nat
  dtype : Nat
  dcore : Nat
  res : Nat
  bytes : Nat
  anchor : Nat
  route : BitVec 144
  linkDie : Nat
  peer : Nat
  peerCore : Nat
  region : Nat
  xdata : List Byte
  deriving DecidableEq, Repr

/-- A program table entry (R114), with the transfer table entries that its bundles name (R166). -/
structure ProgEntry where
  off : Nat
  count : Nat
  w : Nat
  uses : List Nat
  deriving DecidableEq, Repr

/-- A loaded prompt book (R113, R114): the tables a run needs. The code lies in the book area of `mem`. -/
structure Book where
  setId : Nat
  digest : List Byte
  usesSpec : Bool
  bookSize : Nat
  wingsBase : Nat
  wingsSize : Nat
  progs : List ProgEntry
  seq : List (Nat × Bool)
  layers : List (Nat × Nat)
  phases : List Nat
  xfers : List XferEntry
  descs : Nat
  deriving DecidableEq, Repr

/-- A register of a core. -/
inductive RegName where
  | g (i : Nat) | p (i : Nat) | v (i : Nat) | q (i : Nat) | t (i : Nat)
  deriving DecidableEq, Repr

/-- One core (R17, R112 to R147, R176). `mFree`, `tNext` and `tFree` are the CYCLEs from which the mesh takes a further multiply,
the Trellis unit a further instruction, and the drain port a further DRAIN, SPILL or FILL (R118, R159, R160); `tileOrd` counts the
accumulations started. `wheel` holds, by stack channel, the first turn whose position of the core is not yet used in the scene, and
`landing` the transfers that are not yet complete (R226, R229); `ready` the CYCLE from which each late result is available (R170). -/
structure Core where
  regs : Regs := {}
  pool : SMap Desc := []
  book : Option Book := none
  prog : Option Nat := none
  pc : Nat := 0
  loops : List LoopFrame := []
  holdUntil : Nat := 0
  atCueWait : Bool := true
  stopped : Bool := false
  compiled : Nat := 0
  nextOrd : Nat := 0
  region : Option Region := none
  confirm : Option (QEntry × BitVec 6) := none
  admitOp : Option (QEntry × BitVec 6 × Nat) := none
  sources : List SrcRegion := []
  pend : SMap (Option Pend) := []
  uM : List QEntry := []
  uT : List QEntry := []
  uV : List QEntry := []
  uD : List QEntry := []
  uF : List QEntry := []
  uC : List QEntry := []
  tiles : List Tile := []
  spilled : List (Nat × Bool) := []
  inflight : List PPartial := []
  tWait : List FenceOp := []
  cmps : List Cmp := []
  dm : List DmXfer := []
  port : List PortXfer := []
  cf : SMap CfEntry := []
  phases : List (List Byte) := []
  phaseLost : Bool := false
  slip : Nat := 0
  fenceSlip : Nat := 0
  ranScene : Bool := false
  issued : Nat := 0
  mFree : Nat := 0
  tNext : Nat := 0
  tFree : Nat := 0
  tileOrd : Nat := 0
  wheel : SMap Nat := []
  landing : List Landing := []
  ready : List (RegName × Nat) := []
  deriving DecidableEq, Repr

/-! ### The device -/

/-- An announcement (R34): the next cue's instant (none: all ones), the scene it starts, its length and HALT. -/
structure Announce where
  nextCue : Option Nat
  scene : Nat
  len : Nat
  halt : Bool
  deriving DecidableEq, Repr

/-- The overrun whose lateness SCN_OVR_INFO shows (R47): the core, the clock edge of its cue, the divider in force, and the
last clock edge up to which its issued work was not complete. -/
structure LateRun where
  core : Nat
  cue : Nat
  div : Nat
  upTo : Nat
  deriving DecidableEq, Repr

/-- Time base and cue logic (R29 to R46). `now` counts units of 2^-16 / 18 ns, so that one cycle of 3.6 GHz is
327,680 units and one ns is 1,179,648 units (assumption 3). `ticks` counts the edges of the undivided 3.6 GHz clock and `edge` is
the instant of the last one (R35, R36); `sceneTick` is the edge of the last cue. `slewLeft` is the correction still to be made,
`slewRate` its part per cycle, `slewRoom` what R35 still allows beyond it in this interval, and `syncSeen` the instant of the
last sync packet. `pulse` is the instant at which the pulse on CUE_OUT ends (R43). -/
structure Tim where
  now : Nat := 0
  ticks : Nat := 0
  edge : Nat := 0
  slewLeft : Int := 0
  slewRate : Int := 0
  slewRoom : Nat := 0
  syncSeen : Nat := 0
  lockRun : Nat := 0
  everLocked : Bool := false
  announced : Option Announce := none
  lastCue : Option Nat := none
  sceneTick : Nat := 0
  pulse : Option Nat := none
  late : Option LateRun := none
  missed : Nat := 0
  cuesRun : Bool := false
  ended : Bool := false
  idleDue : Nat := 0
  syncDue : Nat := 0
  midDue : Option Nat := none
  finalDue : Option Nat := none
  placed : Option Announce := none
  rootScene : Nat := 0
  rootLive : Bool := false
  haltReq : Bool := false
  started : Bool := false
  sceneOn : Bool := false
  overrunDue : Option Nat := none
  lockLost : Bool := false
  deriving DecidableEq, Repr

/-- State of one 16-byte code word (R223, R232): correct, correctable, uncorrectable, or uncorrectable by an
injection (R337, R338). -/
inductive Ecc where
  | ok | corr | uncorr | injected
  deriving DecidableEq, Repr

/-- What leaves the device. -/
inductive OutItem where
  | packet (link : Nat) (p : Pkt)
  | flit (link : Nat) (bytes : List Byte)
  | linkWord (link : Nat) (what : Nat) (value : Nat)
  | hostWrite (addr : Nat) (bytes : List Byte)
  | msix (vector : Nat) (addr data : Nat)
  | completion (value : Nat)
  | spdm (code : Nat) (bytes : List Byte)
  | jtag (what : Nat) (value : Nat)
  | pin (what : Nat) (level : Nat)
  deriving DecidableEq, Repr

/-- A long command that runs (R299): its opcode, SEQ, NOTIFY, the scene of its taking and the words its chapter keeps. -/
structure LongCmd where
  op : Nat
  seq : Nat
  notify : Bool
  taken : Nat
  words : List Nat
  deriving DecidableEq, Repr

/-- A taken command record (R296, R298): its 64 bytes, its slot's payload and the scene of its taking. -/
structure Taken where
  bytes : List Byte
  payload : List Byte
  scene : Nat
  deriving DecidableEq, Repr

/-- The host interface (R298 to R307): the record taken, records left in this scan, the long command, the last
command's SEQ and status, completion ring entries reserved and posted, waiting notices (code, scene, DETAIL), and the
vectors whose cause has occurred since their last message. -/
structure HostSt where
  taken : Option Taken := none
  scanLeft : Nat := 0
  long : Option LongCmd := none
  prev : Option (Nat × Option Nat) := none
  reserved : Nat := 0
  posted : Nat := 0
  notices : List (Nat × Nat × Nat) := []
  causes : List Nat := []
  deriving DecidableEq, Repr

/-- Telemetry (R308, R309): events and trace records that wait, and whether a loss episode is open. -/
structure Tel where
  events : List (List Byte) := []
  lossOpen : Bool := false
  trace : List (List Byte) := []
  deriving DecidableEq, Repr

/-- A source that has become severe and whose actions are due (R333): source, injected, unit, index. -/
structure SevereDue where
  src : Nat
  injected : Bool
  unit : Nat
  index : Nat
  deriving DecidableEq, Repr

/-- The fault collector (R332, R333, R336): window starts, severe actions due, whether PIN_TEST holds the pair at its fault level, and
whether the pair is driven. -/
structure Flt where
  wstart : SMap Nat := []
  severe : List SevereDue := []
  pinTest : Bool := false
  driven : Bool := false
  deriving DecidableEq, Repr

/-- A packet in a receive buffer of a K-link (R260, R262). `buf` is its buffer of the link's VL3 pool (R261). -/
structure RxItem where
  link : Nat
  p : Pkt
  buf : Nat := 0
  deriving DecidableEq, Repr

/-- A packet in a transmit queue: its egress link, the receive buffer it still holds, and the packet as it leaves. -/
structure TxItem where
  link : Nat
  held : Option RxItem
  p : Pkt
  deriving DecidableEq, Repr

/-- A bed switch port in one direction: a core port or a link-die port of a bed (R19, R127). -/
inductive BedPort where
  | core (c : Nat) (out : Bool)
  | die (bed d : Nat) (out : Bool)
  deriving DecidableEq, Repr

/-- The fabric (R252 to R263): receive buffers, transmit queues, credits in use (a reservation r under r, a sub-lane of
VL0 to VL2 of link k under 4096 + 8k + 2 VL + SUB), the scene of the last HALT forwarded, the request server's queue
(with whether QUIESCE was in force when the request came, R259) and the shard server's; the occupancies of the bed switch
ports by the transfers of this scene that have begun: port, first CYCLE and length (R19, R127, R130); `lane`: the VL0 packets for
service units that the inbound control lane has taken and requester 7 has not yet drained (R324). -/
structure FabSt where
  rx : List RxItem := []
  tx : List TxItem := []
  used : SMap Nat := []
  haltScene : Option Nat := none
  reqs : List (RxItem × Bool) := []
  shards : List DataPkt := []
  spans : List (BedPort × Nat × Nat) := []
  lane : List CtrlPkt := []
  deriving DecidableEq, Repr

/-- A K-link (R237 to R241): the next SEQ expected, consecutive failures and body bytes not yet a whole packet; the next SEQ to send,
packet bytes not yet in a flit, the replay buffer (SEQ and BODY, oldest first) and the SEQ of a flit sent with an injected error (R338); the
revision and peer of the saved coefficients, when training may go on, and since when the link is in its training state. -/
structure LinkSt where
  rxSeq : Nat := 0
  fails : Nat := 0
  body : List Byte := []
  txSeq : Nat := 0
  txBody : List Byte := []
  replay : List (Nat × List Byte) := []
  inj : Option Nat := none
  since : Nat := 0
  saved : Option (Nat × Nat × Nat) := none
  due : Nat := 0
  deriving DecidableEq, Repr

/-- An element slot of a reducer context (R275), with the instant of its last arrival. -/
structure RedSlot where
  a : Int := 0
  pinf : Bool := false
  ninf : Bool := false
  nan : Bool := false
  allneg0 : Bool := false
  nanBlock : Nat := 2 ^ 48 - 1
  empty : Bool := true
  residue : Nat := 0
  count : Nat := 0
  at_ : Nat := 0
  deriving DecidableEq, Repr

/-- A reducer context in a scene (R275, R276): its slots, elements emitted, the instant of the last emission, the stop,
the next index of each inbound stream, and the packet being filled. -/
structure RedCtx where
  slots : SMap RedSlot := []
  emitted : Nat := 0
  at_ : Nat := 0
  stopped : Bool := false
  streams : List (List Nat × Nat) := []
  fill : List Byte := []
  fillFirst : Nat := 0
  fillN : Nat := 0
  seq : Nat := 0
  deriving DecidableEq, Repr

/-- A witness entry's run (R288): it runs, the scene of its trigger, the digest of its range at the trigger; the completed
runs kept for twin mode, newest first: tag, step, digest (R373). -/
structure WitRun where
  scene : Option Nat := none
  digest0 : Word := 0
  past : List (Nat × Nat × Word) := []
  deriving DecidableEq, Repr

/-- A write held in shadow (R322): register, lowest bit and width of the field, and the value. -/
structure PendW where
  reg : Nat
  lo : Nat
  w : Nat
  val : Nat
  deriving DecidableEq, Repr

/-- What a taken command writes at the next cue or idle tick (R299, R301). -/
inductive CmdEff where
  | bind (slot : BitVec 6) (seqId pos : Nat)
  | unbind (slot : BitVec 6)
  | run (step pos : Nat)
  | align (winner dp : Nat)
  deriving DecidableEq, Repr

/-- The service bus (R324 to R326): the transfer each requester waits for, the last winner of each class (at first the
requester before number 0), and what the last read on each requester's return lane gave. -/
structure BusSt where
  waiting : List BusReq := []
  ptr : SMap Nat := []
  data : SMap (List Byte) := []
  deriving DecidableEq, Repr

/-- A power step in progress (R316): the state it leads to, its divider, and the instant it ends (none: at the next cue or
idle tick). -/
structure PwrStep where
  ps : Nat
  div : Nat
  due : Option Nat
  deriving DecidableEq, Repr

/-- Supplies, reset and power (R316, R318, R397 to R401, R416): whether both supplies are in regulation, PERST# is asserted,
the Stage Door has released the Stage Manager, the rails ramp, the memories are being cleared, the step in progress, a SET_POWER
that waits for admission, and the last readings. -/
structure PwrSt where
  supplied : Bool := true
  perst : Bool := false
  released : Bool := false
  ramping : Bool := false
  clearing : Bool := false
  step : Option PwrStep := none
  waits : Bool := false
  readings : Readings := {}
  deriving DecidableEq, Repr

/-- A Rehearsal in progress (R340): the pair, the instant it ends, its round, whether it is forced, and whether the injection into the
digest (`inj`) and one into the Trellis of test 1 (`spoil`) act on it (R337). -/
structure RhsRun where
  a : Nat
  b : Nat
  due : Nat
  round : Nat
  forced : Bool
  inj : Bool
  spoil : Bool := false
  deriving DecidableEq, Repr

/-- Rehearsal (R340 to R345): Rehearsals in progress; cores whose admission is decided since reset or PS3; whether admission
has completed once, so that D_0 is set; lower cores of the pairs that have run in this round; cores whose pair is due again;
an opportunity without a scene is open; cores forced, with the scene at which they were; the fused RHS_SEED. -/
structure RhsSt where
  running : List RhsRun := []
  decided : List Nat := []
  d0 : Bool := false
  ran : List Nat := []
  again : List Nat := []
  opp : Bool := false
  forced : List (Nat × Nat) := []
  seed0 : Word := 0
  deriving DecidableEq, Repr

/-- Frost Watch (R349 to R351): e_i, the fused prior, updates made, the scene of the last SECURE_NOW, and whether the
one of R351 is posted. -/
structure FrostSt where
  e : SMap Nat := []
  prior : SMap Nat := []
  n : Nat := 0
  last : Option Nat := none
  warm : Bool := false
  deriving DecidableEq, Repr

/-- One copy of an image in the boot flash: its bytes, header and body (R381). -/
abbrev FlashCopy := List Byte

/-- A Hash_DRBG with SHA-256 (R379, R380; SP 800-90A): the seed it was made from, the values V and C, and the reseed counter. -/
structure Drbg where
  seed : List Byte
  v : List Byte
  c : List Byte
  ctr : Nat
  deriving DecidableEq, Repr

/-- A firmware commit that runs (R387): the copy to write, whether it is core microcode, and the result of the checks (1 OK);
its image is still to be read when the self-tests defer it (R383). -/
structure Commit where
  read : Bool
  copy : FlashCopy
  mc : Bool
  result : Nat
  deriving DecidableEq, Repr

/-- An SPDM request (R391): 0 GET_VERSION, 1 GET_CAPABILITIES, 2 NEGOTIATE_ALGORITHMS, 3 GET_DIGESTS, 4 GET_CERTIFICATE,
5 CHALLENGE, 6 GET_MEASUREMENTS, with its slot or index, offset or signature mark, and length. -/
structure SpdmReq where
  kind : Nat
  a : Nat := 0
  b : Nat := 0
  c : Nat := 0
  deriving DecidableEq, Repr

/-- A service that the self-tests defer (R383): an SPDM request, or one of the manufacture port (R390, R394). -/
inductive DoorReq where
  | spdm (q : SpdmReq)
  | keygen (modulus exponent : List Byte)
  | certs (device ca : List Byte)
  | deploy
  deriving DecidableEq, Repr

/-- The Stage Door (R380 to R395): the ZERO_STARTED fuse, the identity key's OTP area (0 blank, 1 a key, 2 overwritten) and the modulus and
private exponent it holds, the certificates, the key hashes of the ROM, copies A and B of each image, what boot has loaded into the tightly
coupled memory and the cores' microcode stores, digests of the running images, the token under evaluation, the scope bits that the next cue
applies, the self-tests that run and the services they defer, the commit, the zeroisation in progress (whether the mesh started it), the
DRBG while it is seeded, and the mailbox's DOE Error bit. -/
structure DoorSt where
  zeroStarted : Bool := false
  keyArea : Nat := 1
  key : List Byte × List Byte := Config.identityKey
  fwKeys : List (List Byte) := [Config.fwKeyHash 0, Config.fwKeyHash 1, Config.fwKeyHash 2, Config.fwKeyHash 3]
  tokenKeys : List (List Byte) := [Config.tokenKeyHash 0, Config.tokenKeyHash 1, Config.tokenKeyHash 2, Config.tokenKeyHash 3]
  certs : Option (List Byte × List Byte) := some ([], [])
  flashSm : FlashCopy × FlashCopy := (Config.bootFlash 0, Config.bootFlash 1)
  flashMc : FlashCopy × FlashCopy := (Config.bootFlash 2, Config.bootFlash 3)
  tcm : List Byte := []
  microcode : List Byte := []
  smDigest : List Byte := []
  mcDigest : List Byte := []
  token : Option (List Byte) := none
  scopeNext : Option Nat := none
  testing : Bool := false
  deferred : List DoorReq := []
  svnWaits : Bool := false
  commit : Option Commit := none
  zeroing : Option Bool := none
  drbg : Option Drbg := none
  doeError : Bool := false
  deriving DecidableEq, Repr

/-- The JTAG port (R389, R421): bits of the boundary-scan register, halted Stage Manager pairs, steps made, and whether the
test access port has been used since TRST#. -/
structure TapSt where
  scan : BitVec 8 := 0
  halted : List Bool := []
  steps : Nat := 0
  active : Bool := false
  deriving DecidableEq, Repr

/-- A section descriptor (R360). -/
structure Sect where
  addr : Nat
  fmt : Nat
  routeIx : Nat
  tag : Nat
  rows : Nat
  cols : Nat
  stride : Nat
  row0 : Nat
  col0 : Nat
  remote : Nat
  bytes : Nat
  digest : Word
  deriving DecidableEq, Repr

/-- A route of the request engine (R358, R363). -/
structure EngRoute where
  dest : Nat
  dtype : Nat
  hops : Nat
  route : BitVec 144
  deriving DecidableEq, Repr

/-- A request outstanding (R356): its tag, whether it writes, the section it serves (0xFFF the manifest, 0x1000 twin
records), its offset within that, its length, the address at the other node, its data, its route, the instant of its launch
and whether it has been launched again. -/
structure EngReq where
  tag : Nat
  write : Bool
  sect : Nat
  off : Nat
  len : Nat
  remote : Nat
  data : List Byte
  route : EngRoute
  at_ : Nat
  again : Bool
  deriving DecidableEq, Repr

/-- What a snapshot latches (R359): step, position, slots (bound, identifier, position), data position and its tag, book
set, scene, fabric time, and the scale history's base and count. -/
structure Snap where
  step : Nat
  pos : Nat
  slots : List (Bool × Nat × Nat)
  dpValid : Bool
  dp : List Byte
  dpStep : Nat
  setId : Nat
  scene : Nat
  time : Nat
  histBase : Nat
  histCount : Nat
  seed : Word
  digs : List Word
  deriving DecidableEq, Repr

/-- A checkpoint that runs (R358 to R361): identifier, route, manifest address, NOW, the host's descriptors, the latched
snapshot, the sections with their digests, and the next byte to send: section and offset. -/
structure CkpJob where
  id : Nat
  route : EngRoute
  maddr : Nat
  now : Bool
  given : List Sect
  snap : Option Snap
  sects : List Sect
  cur : Nat
  off : Nat
  manifest : List Byte
  deriving DecidableEq, Repr

/-- A restore that runs (R363 to R365): seed, generation, routes, the manifest's route and address, sections, the manifest's
bytes as they arrive, the next byte to fetch, bytes received of each section and the digest of those bytes, sections kept
and passed. -/
structure RstJob where
  seed : Word
  gen : Nat
  routes : List EngRoute
  mroute : Nat
  maddr : Nat
  sects : List Sect
  manifest : List Byte
  size : Nat
  haveMan : Bool
  cur : Nat
  off : Nat
  got : SMap Nat
  dig : SMap Word
  kept : List Nat
  passed : List Nat
  deriving DecidableEq, Repr

/-- A candidate of the restore table (R368): the section, its generation, and the manifest's STEP and SEED_CHECK. -/
structure Cand where
  sect : Sect
  gen : Nat
  step : Nat
  check : Word
  deriving DecidableEq, Repr

/-- The request engine (R356): its outstanding requests, those that wait to be launched, and the checkpoint and restore it
serves. `table` and `last` are the restore table: its
candidates, and the sections of the last generation that finished; `restored` is what START_RUN must agree with (R367);
`quiet` is the instant at which QUIESCE came into force (R356). -/
structure EngSt where
  quiet : Nat := 0
  reqs : List EngReq := []
  wait : List EngReq := []
  nextTag : Nat := 0
  ckp : Option CkpJob := none
  latch : Option Snap := none
  rst : Option RstJob := none
  table : List Cand := []
  last : List Cand := []
  restored : Option (Nat × Nat × Word) := none
  deriving DecidableEq, Repr

/-- A twin record (R372): entry, tag, step, digest, completion scene. -/
structure TwinRec where
  entry : Nat
  tag : Nat
  step : Nat
  digest : Word
  scene : Nat
  deriving DecidableEq, Repr

/-- Twin mode (R371 to R375): the number of the next record to send, runs completed since the last exchange, an exchange
that is due, the next number expected, records held, the scene of the last new record, and whether EN stood at the last
cue. -/
structure TwinSt where
  seq : Nat := 1
  done : List TwinRec := []
  due : Bool := false
  expect : Nat := 1
  held : List TwinRec := []
  since : Nat := 0
  on : Bool := false
  deriving DecidableEq, Repr

/-- The service positions of the stack wheel (R226, R227, R233). The patrol scrub: the next line of every stack, the lines to write back in
the next turn, and the first turn of the scene whose position 2 is not yet used. Position 3: by stack channel, the first turn of the
scene that is not yet used. -/
structure ScrubSt where
  line : Nat := 0
  back : List Nat := []
  turn : Nat := 0
  share : SMap Nat := []
  deriving DecidableEq, Repr

/-- The scale history (R213): whether records must be made cold at the next scene start, and those that a restore filled. -/
structure HistSt where
  due : Bool := false
  filled : List Nat := []
  deriving DecidableEq, Repr

/-- A WILT_ALARM or WILT_LONG that is due (R210): tag, counter, step. -/
structure WiltDue where
  tag : Nat
  count : Nat
  step : Nat
  deriving DecidableEq, Repr

/-- The state of the device. -/
structure State where
  pending : List Instr := []
  regs : SMap Word := []
  mem : List Host.Cell := []
  ecc : SMap Ecc := []
  cores : SMap Core := []
  tim : Tim := {}
  host : HostSt := {}
  tel : Tel := {}
  flt : Flt := {}
  frostX : SMap Nat := []
  posadd : List (BitVec 6 × Nat) := []
  wlt : SMap WiltCnt := []
  seed : Word := 0
  seedSet : Bool := false
  subkeys : SMap Word := []
  inj : List (Nat × Nat) := []
  out : List OutItem := []
  fab : FabSt := {}
  links : SMap LinkSt := []
  red : SMap RedCtx := []
  wit : SMap WitRun := []
  pendT : List PendW := []
  pendQ : List PendW := []
  cmdEff : List CmdEff := []
  bus : BusSt := {}
  pwr : PwrSt := {}
  rhs : RhsSt := {}
  frost : FrostSt := {}
  door : DoorSt := {}
  tap : TapSt := {}
  eng : EngSt := {}
  twin : TwinSt := {}
  scrub : ScrubSt := {}
  hist : HistSt := {}
  wiltAlarms : List WiltDue := []
  wiltLongs : List WiltDue := []
  dp : List Byte := []
  win : List Host.Cell := []
  freeCtr : Nat := 0
  deriving DecidableEq, Repr

/-- The machine right after reset. -/
def State.reset : State := {}

end Sys2Proof.Machine
end

