-- ==== Sys2Proof/Machine/Ops.lean ====
section
/-! DEFINITION. The named operations on the state: registers and their fields, memory, ECC state, cores, and the map of
the device address space (R218). A block has no exception entry; raising a fault is Machine/Faults.lean. -/

namespace Sys2Proof.Machine

/-- The outcome of a command. -/
abbrev Out := Host.Outcome State Fault Refusal

/-- A bit as a number. -/
def b2n (b : Bool) : Nat := if b then 1 else 0

/-! ### Registers -/

/-- The 64 bits held for the register at address `a`. -/
def State.reg (s : State) (a : Nat) : Word := SMap.get (regReset a) s.regs a

/-- Put a value into the register at address `a`. -/
def State.setReg (s : State) (a : Nat) (v : Word) : State := { s with regs := SMap.set (regReset a) s.regs a v }

/-- A field of a 64-bit value. -/
def bitsGet (v : Word) (lo w : Nat) : Nat := (v.extractLsb' lo w).toNat

/-- The mask of `w` bits from bit `lo`. -/
def bitsMask (lo w : Nat) : Word := (BitVec.allOnes w).setWidth 64 <<< lo

/-- Replace a field of a 64-bit value. -/
def bitsPut (v : Word) (lo w : Nat) (x : Nat) : Word :=
  (v &&& ~~~ bitsMask lo w) ||| ((BitVec.ofNat 64 x <<< lo) &&& bitsMask lo w)

/-- Read a field. -/
def State.fld (s : State) (f : Fld) : Nat := bitsGet (s.reg f.reg) f.lo f.w

/-- Write a field, the register's other bits unchanged. -/
def State.setFld (s : State) (f : Fld) (x : Nat) : State := s.setReg f.reg (bitsPut (s.reg f.reg) f.lo f.w x)

/-- A one-bit field reads 1. -/
def State.bit (s : State) (f : Fld) : Bool := decide (s.fld f = 1)

/-- Add to a counting field, saturating at its largest value. -/
def State.addSat (s : State) (f : Fld) (n : Nat) : State := s.setFld f (min (2 ^ f.w - 1) (s.fld f + n))

/-! ### Memory -/

/-- One byte of the device memory; a byte that nothing has written reads zero (R398 step 5). -/
def State.byte (s : State) (a : Nat) : Byte := SMap.get 0#8 s.mem a

/-- Write one byte of the device memory. -/
def State.setByte (s : State) (a : Nat) (b : Byte) : State := { s with mem := SMap.set 0#8 s.mem a b }

/-- `n` bytes from address `a`. -/
def State.bytes (s : State) (a n : Nat) : List Byte := (List.range n).map fun i => s.byte (a + i)

/-- Write a list of bytes into a memory from address `a`. -/
def memWrite (m : SMap Byte) (a : Nat) : List Byte → SMap Byte
  | [] => m
  | b :: bs => memWrite (SMap.set 0#8 m a b) (a + 1) bs

/-- Little-endian value of a list of bytes (R9). -/
def leNat : List Byte → Nat
  | [] => 0
  | b :: bs => b.toNat + 256 * leNat bs

/-- The `n` little-endian bytes of a value (R9). -/
def leBytes : Nat → Nat → List Byte
  | 0, _ => []
  | n + 1, x => BitVec.ofNat 8 x :: leBytes n (x / 256)

/-- The little-endian value of `n` bytes at address `a`. -/
def State.le (s : State) (a n : Nat) : Nat := leNat (s.bytes a n)

/-- Put an ECC state on one 16-byte code word. -/
def State.setEcc (s : State) (a : Nat) (e : Ecc) : State := { s with ecc := SMap.set .ok s.ecc (a / 16) e }

/-- ECC state of the code word that holds address `a`. -/
def State.eccAt (s : State) (a : Nat) : Ecc := SMap.get .ok s.ecc (a / 16)

/-- The code words that a range touches. -/
def wordsOf (a n : Nat) : List Nat := if n = 0 then [] else (List.range ((a + n - 1) / 16 + 1 - a / 16)).map (a / 16 + ·)

/-- Lines of a range. -/
def linesOf (a n : Nat) : List Nat := if n = 0 then [] else (List.range ((a + n - 1) / 64 + 1 - a / 64)).map (a / 64 + ·)

/-- The ECC state of a code word after a write of the range (R223): a whole word is stored fresh; a masked write
corrects a correctable word and keeps an uncorrectable one. -/
def eccAfter (a n w : Nat) (e : Ecc) : Ecc :=
  if a ≤ 16 * w ∧ 16 * w + 16 ≤ a + n then .ok
  else match e with
    | .uncorr => .uncorr
    | .injected => .injected
    | _ => .ok

/-- Write bytes at address `a`, with the code words' states (R223, R232). -/
def State.write (s : State) (a : Nat) (bs : List Byte) : State :=
  { s with
    mem := memWrite s.mem a bs
    ecc := (wordsOf a bs.length).foldl (fun m w => SMap.set .ok m w (eccAfter a bs.length w (SMap.get .ok m w))) s.ecc }

/-- Write the bytes that are present, in order, from address `a`. -/
def memWriteMasked (m : SMap Byte) (a : Nat) : List (Option Byte) → SMap Byte
  | [] => m
  | b :: bs => memWriteMasked (match b with | some v => SMap.set 0#8 m a v | none => m) (a + 1) bs

/-- The byte of a masked write that lands at address `a`. -/
def maskedAt (a0 : Nat) (bs : List (Option Byte)) (a : Nat) : Bool := decide (a0 ≤ a) && ((bs.getD (a - a0) none).isSome)

/-- A masked write (R222, R223): each code word is stored fresh where every byte is written, merged where some are. -/
def State.writeMasked (s : State) (a : Nat) (bs : List (Option Byte)) : State :=
  { s with
    mem := memWriteMasked s.mem a bs
    ecc := (wordsOf a bs.length).foldl (fun m w =>
      let hit := (List.range 16).map fun i => maskedAt a bs (16 * w + i)
      if hit.all id then SMap.set .ok m w .ok
      else if hit.any id then SMap.set .ok m w (eccAfter 1 0 w (SMap.get .ok m w))
      else m) s.ecc }

/-- A range holds an uncorrectable code word. -/
def State.uncorr (s : State) (a n : Nat) : Bool :=
  (wordsOf a n).any fun w => match SMap.get .ok s.ecc w with
    | .uncorr => true
    | .injected => true
    | _ => false

/-- Every uncorrectable word of the range comes from an injection. -/
def State.uncorrInjected (s : State) (a n : Nat) : Bool :=
  (wordsOf a n).all fun w => decide (SMap.get .ok s.ecc w ≠ .uncorr)

/-- Correctable words of a range. -/
def State.corrCount (s : State) (a n : Nat) : Nat :=
  ((wordsOf a n).filter fun w => decide (SMap.get .ok s.ecc w = .corr)).length

/-! ### The address map (R218) -/

/-- First address of a scratchpad. -/
def scrBase (n : CoreId) : Nat := 0xF00000000000 + 0x2000000 * n.val
/-- Bytes of a scratchpad: 24 MiB. -/
def scrSize : Nat := 0x1800000
/-- First address of a Cold Frame window (R176). -/
def cfBase (n : CoreId) : Nat := 0xF10000000000 + 0x800000 * n.val
/-- First address of a Trellis window (R99). -/
def trlBase (n : CoreId) : Nat := 0xF20000000000 + 0x400000 * n.val
/-- Offset of the tag store in the Trellis window (R99). -/
def tagOff : Nat := 0x280000
/-- Bytes of one Huari stack site: 128 GiB. -/
def stackSize : Nat := 0x2000000000

/-- What an address lies in (R218). -/
inductive Place where
  | stack (s : Nat)
  | scratch (n : Nat) (off : Nat)
  | frame (n : Nat)
  | trellis (n : Nat)
  | regs
  | unmapped
  deriving DecidableEq, Repr

/-- Huari stacks fitted (R21). -/
def State.nStacks (s : State) : Nat := s.fld Fld.CFG_ASSEMBLY_STACKS

/-- Link dies fitted (R21). -/
def State.linkDies (s : State) : Nat := s.fld Fld.CFG_ASSEMBLY_LINK_DIES

/-- The range of R218 that holds an address; the sites of stacks not fitted are unmapped. -/
def placeOf (ns a : Nat) : Place :=
  if a < stackSize * ns then .stack (a / stackSize)
  else if 0xF00000000000 ≤ a ∧ a < 0xF00000000000 + 96 * 0x2000000 then
    let o := (a - 0xF00000000000) % 0x2000000
    if o < scrSize then .scratch ((a - 0xF00000000000) / 0x2000000) o else .unmapped
  else if 0xF10000000000 ≤ a ∧ a < 0xF10000000000 + 96 * 0x800000 then .frame ((a - 0xF10000000000) / 0x800000)
  else if 0xF20000000000 ≤ a ∧ a < 0xF20000000000 + 96 * 0x400000 then .trellis ((a - 0xF20000000000) / 0x400000)
  else if 0xFF0000000000 ≤ a ∧ a < 0xFF0004000000 then .regs
  else .unmapped

/-- A range of at least one byte lies wholly within fitted stacks. -/
def State.inStacks (s : State) (a n : Nat) : Bool := decide (0 < n ∧ a + n ≤ stackSize * s.nStacks)

/-! ### Cores -/

/-- The core `n`. -/
def State.core (s : State) (n : CoreId) : Core := SMap.get {} s.cores n.val

/-- Put the core `n`. -/
def State.setCore (s : State) (n : CoreId) (k : Core) : State := { s with cores := SMap.set {} s.cores n.val k }

/-- Change the core `n`. -/
def State.updCore (s : State) (n : CoreId) (f : Core → Core) : State := s.setCore n (f (s.core n))

/-- Every core number. -/
def allCores : List CoreId := List.finRange 96

/-- The units of the cores run: the device is started up (R398), in PS0 to PS2 (R314) and not stopped (R321). -/
def State.live (s : State) : Bool :=
  decide (s.fld Fld.SMG_BOOT_STAGE = 4 ∧ s.fld Fld.PWR_STATE_PS ≤ 2 ∧ s.fld Fld.PWR_STATE_FAULT_STOP = 0)

/-- Bytes of the book area of a core; 0 before a load (R115). -/
def Core.bookSize (k : Core) : Nat := match k.book with | some b => b.bookSize | none => 0
/-- Offset of the wings area (R224). -/
def Core.wingsBase (k : Core) : Nat := match k.book with | some b => b.wingsBase | none => 0
/-- Bytes of the wings area (R224). -/
def Core.wingsSize (k : Core) : Nat := match k.book with | some b => b.wingsSize | none => 0

/-- Offset of the book area in the scratchpad (R224). -/
def Core.bookOff (k : Core) : Nat := scrSize - k.bookSize

/-! ### Register files (R122) -/

/-- g register; g0 reads as zero. -/
def Regs.gr (r : Regs) (i : BitVec 6) : Word := if i = 0 then 0 else SMap.get 0 r.g i.toNat
/-- Write a g register; a write of g0 is ignored. -/
def Regs.setG (r : Regs) (i : BitVec 6) (v : Word) : Regs := if i = 0 then r else { r with g := SMap.set 0 r.g i.toNat v }
/-- p register. -/
def Regs.pr (r : Regs) (i : BitVec 4) : Addr := SMap.get 0 r.p i.toNat
/-- Write a p register. -/
def Regs.setP (r : Regs) (i : BitVec 4) (v : Addr) : Regs := { r with p := SMap.set 0 r.p i.toNat v }
/-- The lanes of a register that nothing has written. -/
def zeroLanes : Lanes := List.replicate 64 0#32
/-- v register. -/
def Regs.vr (r : Regs) (i : BitVec 5) : Lanes := SMap.get zeroLanes r.v i.toNat
/-- Write a v register. -/
def Regs.setV (r : Regs) (i : BitVec 5) (v : Lanes) : Regs := { r with v := SMap.set zeroLanes r.v i.toNat v }
/-- q register; q0 reads as all ones. -/
def Regs.qr (r : Regs) (i : BitVec 3) : Word := if i = 0 then BitVec.allOnes 64 else SMap.get 0 r.q i.toNat
/-- Write a q register; a write of q0 is ignored. -/
def Regs.setQ (r : Regs) (i : BitVec 3) (v : Word) : Regs := if i = 0 then r else { r with q := SMap.set 0 r.q i.toNat v }
/-- t register: a descriptor, or none. -/
def Regs.tr (r : Regs) (i : BitVec 4) : Option Desc := SMap.get none r.t i.toNat
/-- Write a t register. -/
def Regs.setT (r : Regs) (i : BitVec 4) (d : Desc) : Regs := { r with t := SMap.set none r.t i.toNat (some d) }

/-- Lane i of a vector. -/
def lane (v : Lanes) (i : Nat) : Lane := v.getD i 0
/-- The vector whose lane i is `f i`. -/
def lanes (f : Nat → Lane) : Lanes := (List.range 64).map f

/-- Local fabric time in whole ns (R39). -/
def State.ns (s : State) : Nat := s.tim.now / 1179648

/-- The clock divider d in force (R315): 1 except in PS1. -/
def State.div (s : State) : Nat := if s.fld Fld.PWR_STATE_PS = 1 then max 1 (s.fld Fld.PWR_STATE_DIVIDER) else 1

/-- Divided clock cycles since the last cue; the divider restarts at the cue's edge (R36). -/
def State.sinceCue (s : State) : Nat := (s.tim.ticks - s.tim.sceneTick) / s.div

/-- CYCLE: cycles since the scene's first bundle issued, 256 cycles after the cue (R123, R29, R315). -/
def State.cycle (s : State) : Nat := s.sinceCue - 256

/-- The stacks are in self-refresh (R314, R321). -/
def State.stacksRest (s : State) : Bool := decide (s.fld Fld.PWR_STATE_PS = 3) || s.bit Fld.PWR_STATE_FAULT_STOP

/-- JTAG has halted Stage Manager pair 0, control: what R312 has it do waits (R389; assumption 36). -/
def State.controlHalted (s : State) : Bool := s.tap.halted.contains false

/-- JTAG has halted Stage Manager pair 1, health: what R312 has it do waits (R389; assumption 36). -/
def State.healthHalted (s : State) : Bool := s.tap.halted.contains true

/-- The bank of a scratchpad that holds the 64-byte line at address `a` (R20, R222). -/
def bankOf (a : Nat) : Nat := a / 64 % 32

/-! ### Work of a core -/

/-- Every queue entry of a core. -/
def Core.queued (k : Core) : List QEntry := k.uM ++ k.uT ++ k.uV ++ k.uD ++ k.uF ++ k.uC

/-- Work of the core's issued bundles is not complete. -/
def Core.busy (k : Core) : Bool :=
  !(k.queued.isEmpty && k.inflight.isEmpty && k.tWait.isEmpty && (k.cmps.all fun m => m.done) && k.dm.isEmpty && k.port.isEmpty) ||
    k.confirm.isSome || k.admitOp.isSome

end Sys2Proof.Machine
end

