-- ==== Sys2Proof/Machine/Faults.lean ====
section
/-! DEFINITION. Raising a fault or an event: counting (R332), the severe actions falling due (R333), the event record
(R334), the completion ring and notices (R302 to R306) and the interrupt causes (R307). -/

namespace Sys2Proof.Machine

/-- Interrupt cause `v` has occurred: HST_INT.PEND and the vector's message at the next cue or idle tick (R307). -/
def irq (v : Nat) (s : State) : State :=
  let s := s.setFld Fld.HST_INT_PEND (s.fld Fld.HST_INT_PEND ||| 2 ^ v)
  { s with host := { s.host with causes := if v ∈ s.host.causes then s.host.causes else v :: s.host.causes } }

/-- Entries of the completion ring, 0 while none is set up (R302). -/
def cplEntries (s : State) : Nat := if s.fld Fld.HST_CPL_CTRL_LOG2 = 0 then 0 else 2 ^ s.fld Fld.HST_CPL_CTRL_LOG2

/-- Entries free in the completion ring beyond those posted and reserved (R303). -/
def cplFree (s : State) : Nat := cplEntries s - s.host.posted - s.host.reserved

/-- Write a 32-byte ring entry (R304) into host memory at TAIL and advance TAIL, inverting PHASE at each pass. -/
def cplWrite (seq code status : Nat) (notice : Bool) (taken applied detail : Nat) (s : State) : State :=
  let tail := s.fld Fld.HST_CPL_TAIL_TAIL
  let ph := s.fld Fld.HST_CPL_TAIL_PHASE
  let bytes := leBytes 4 seq ++ leBytes 1 code ++ leBytes 1 status ++ leBytes 1 (ph + 2 * b2n notice) ++ leBytes 1 0 ++
    leBytes 8 taken ++ leBytes 8 applied ++ leBytes 8 detail
  let s := { s with
    out := s.out ++ [OutItem.hostWrite (s.fld Fld.HST_CPL_BASE_BASE * 4096 + 32 * tail) bytes]
    host := { s.host with posted := s.host.posted + 1 } }
  if tail + 1 < cplEntries s then s.setFld Fld.HST_CPL_TAIL_TAIL (tail + 1)
  else (s.setFld Fld.HST_CPL_TAIL_TAIL 0).setFld Fld.HST_CPL_TAIL_PHASE (1 - ph)

/-- A trace record (R310) waits for the streamer; while the streams pause, a buffer of 256 overwrites its oldest (R308). -/
def traceRec (kind code status seq detail : Nat) (s : State) : State :=
  let r := leBytes 8 s.ns ++ leBytes 8 (s.fld Fld.SCN_COUNT_SCENE) ++ leBytes 1 kind ++ leBytes 1 code ++ leBytes 1 status ++
    leBytes 1 0 ++ leBytes 4 seq ++ leBytes 8 detail
  let old := if s.stacksRest ∧ 256 ≤ s.tel.trace.length then s.tel.trace.drop (s.tel.trace.length - 255) else s.tel.trace
  { s with tel := { s.tel with trace := old ++ [r] } }

/-- Write a notice into the ring, with its trace record and the cause of vector 1 (R304, R306, R307, R310). -/
def writeNotice (code scene detail : Nat) (s : State) : State :=
  irq 1 (traceRec 3 code 0 0 detail (cplWrite 0 code 0 true scene 0 detail s))

/-- Post a notice, or let it wait for room, or drop and count it beyond 16 (R303, R306). -/
def postNotice (code detail : Nat) (s : State) : State :=
  let scene := s.fld Fld.SCN_COUNT_SCENE
  if 0 < cplFree s ∧ s.host.notices = [] then writeNotice code scene detail s
  else if s.host.notices.length < 16 then { s with host := { s.host with notices := s.host.notices ++ [(code, scene, detail)] } }
  else s.addSat Fld.HST_TEL_LOST_NOTICE 1

/-- Records the event ring holds unread (R309). -/
def eventUnread (s : State) : Nat := (s.fld Fld.HST_TEL_EVENT_WR + 2 ^ 32 - s.fld Fld.HST_TEL_EVENT_RD) % 2 ^ 32

/-- Raise an event record: it waits for the streamer, or is lost while the ring is full, or the streams pause, and 1,024 wait (R308,
R309). -/
def logRecord (r : List Byte) (s : State) : State :=
  if (eventUnread s < 2 ^ 20 ∧ s.stacksRest = false) ∨ s.tel.events.length < 1024 then
    { s with tel := { s.tel with events := s.tel.events ++ [r], lossOpen := false } }
  else
    let s := (s.addSat Fld.HST_TEL_LOST_EVENT 1).setFld Fld.HST_STATUS_EVENTS_LOST 1
    if s.tel.lossOpen then s
    else postNotice 6 (s.fld Fld.HST_TEL_LOST_EVENT) { s with tel := { s.tel with lossOpen := true } }

/-- Where an event arose (R334): unit kind, index, bundle, slot, injected, in the wings. -/
structure Origin where
  unit : Nat := 0
  index : Nat := 0xFF
  bundle : Nat := 0xFFFFFFFF
  slot : Nat := 0xFF
  injected : Bool := false
  wings : Bool := false
  deriving DecidableEq, Repr

/-- The 64-byte event record of R334. -/
def eventRecord (code : Nat) (o : Origin) (severe suspect : Bool) (payload : List Byte) (s : State) : List Byte :=
  leBytes 8 s.ns ++ leBytes 8 (s.fld Fld.SCN_COUNT_SCENE) ++ leBytes 8 (s.fld Fld.SCN_STEP_STEP) ++ leBytes 2 code ++
    leBytes 1 o.unit ++ leBytes 1 o.index ++
    leBytes 1 (b2n severe + 2 * b2n suspect + 4 * b2n o.injected + 8 * b2n o.wings) ++ leBytes 3 0 ++
    leBytes 4 o.bundle ++ leBytes 1 o.slot ++ leBytes 3 0 ++ (payload ++ List.replicate 24 0#8).take 24

/-- Log an event of R335 that belongs to no fault source. -/
def logEvent (code : Nat) (o : Origin) (payload : List Byte) (s : State) : State :=
  logRecord (eventRecord code o false false payload s) s

/-- The Frost Watch input a source feeds, if any (R349). -/
def frostInput : Nat → Option Nat
  | 13 => some 0 | 15 => some 1 | 18 => some 2
  | 3 => some 3 | 4 => some 3 | 9 => some 3 | 12 => some 3 | 14 => some 3 | 16 => some 3 | 17 => some 3
  | _ => none

/-- Count one event of source `src` (R332): the new state and whether it has become severe. -/
def countEvent (src : Nat) (s : State) : State × Bool :=
  let s := s.addSat (Fld.FLT_SRC_STATE_TOTAL src) 1
  let n := s.fld (Fld.FLT_SRC_CFG_N src)
  let scene := s.fld Fld.SCN_COUNT_SCENE
  let cnt := s.fld (Fld.FLT_SRC_STATE_COUNT src)
  if n = 0 then (s, false)
  else
    let fresh := cnt = 0 ∨ SMap.get 0 s.flt.wstart src + s.fld (Fld.FLT_SRC_CFG_W src) ≤ scene
    let cnt' := if fresh then 1 else cnt + 1
    let s := if fresh then { s with flt := { s.flt with wstart := SMap.set 0 s.flt.wstart src scene } } else s
    if n ≤ cnt' then (s.setFld (Fld.FLT_SRC_STATE_COUNT src) 0, true)
    else (s.setFld (Fld.FLT_SRC_STATE_COUNT src) cnt', false)

/-- A severe event of this source and origin would mark the device suspect now (R333, R348); source 24 is decided by
its cause (R331). -/
def marksSuspect (src : Nat) (injected : Bool) (s : State) : Bool :=
  !injected && s.bit (Fld.FLT_SRC_CFG_SUSPECT src) && !s.bit Fld.FLT_STATUS_SUSPECT &&
    s.flt.severe.all fun d => !(!d.injected && s.bit (Fld.FLT_SRC_CFG_SUSPECT d.src))

/-- Raise one event of fault source `src`: count it (R332), log it (R331, R334), raise its interrupt (R333), feed
Frost Watch (R349), make a core's pair due again (R342) and let the severe actions fall due. -/
def raise (src : Nat) (o : Origin) (payload : List Byte) (s : State) : State :=
  let s := match frostInput src with
    | some i => if o.injected then s else { s with frostX := SMap.set 0 s.frostX i (SMap.get 0 s.frostX i + 1) }
    | none => s
  let (s, severe) := countEvent src s
  let quiet := decide (src = 13 ∨ src = 15 ∨ src = 18)
  let s := if severe || !quiet then
      logRecord (eventRecord src o severe (severe && marksSuspect src o.injected s) payload s) s
    else s
  let s := if s.bit (Fld.FLT_SRC_CFG_IE src) then
      irq 2 (s.setFld Fld.FLT_INT_PEND_PEND (s.fld Fld.FLT_INT_PEND_PEND ||| 2 ^ src))
    else s
  let s := if (src = 3 ∨ src = 9) ∧ o.unit = 1 then { s with rhs := { s.rhs with again := o.index :: s.rhs.again } } else s
  if severe then { s with flt := { s.flt with severe := s.flt.severe ++ [⟨src, o.injected, o.unit, o.index⟩] } } else s

/-- Count `n` quiet events of a source (13, 15 or 18). -/
def raiseMany (src : Nat) (o : Origin) : Nat → State → State
  | 0, s => s
  | n + 1, s => raiseMany src o n (raise src o [] s)

/-- The origin of an event of core `c`'s instruction. -/
def coreOrigin (c : CoreId) (bundle slot : Nat) (injected wings : Bool) : Origin :=
  { unit := 1, index := c.val, bundle := bundle, slot := slot, injected := injected, wings := wings }

/-- Core `c` issues no further bundle (R173). -/
def stopCore (c : CoreId) (s : State) : State := s.updCore c fun k => { k with stopped := true }

/-- The core's region cannot confirm (R136). -/
def regionFault (c : CoreId) (s : State) : State :=
  s.updCore c fun k => { k with region := k.region.map fun r => { r with fault := true } }

/-- Record the first fault of a core since its status bits were cleared (R234). -/
def spdInfo (c : CoreId) (kind slot bundle addr : Nat) (s : State) : State :=
  if s.fld (Fld.SPD_STATUS_UNCORR c) + s.fld (Fld.SPD_STATUS_ADDR c) + s.fld (Fld.SPD_STATUS_STACK c) = 0 then
    (((s.setFld (Fld.SPD_FAULT_INFO_KIND c) kind).setFld (Fld.SPD_FAULT_INFO_SLOT c) slot).setFld
      (Fld.SPD_FAULT_INFO_BUNDLE c) bundle).setFld (Fld.SPD_FAULT_ADDR_ADDR c) addr
  else s

/-- The line of an address (R213, R229): 64 bytes. -/
def lineAt (a : Nat) : Nat := a / 64 * 64

/-- OPERAND_RANGE (R173): no effect, and the core stops. `w` marks an instruction in the wings. -/
def operandRange (c : CoreId) (bundle slot : Nat) (w : Bool) (s : State) : State :=
  stopCore c (raise 10 (coreOrigin c bundle slot false w) [] s)

/-- ADDRESS_FAULT of a kind (R221): recorded with the faulting line, and the core stops. -/
def addressFault (c : CoreId) (kind bundle slot : Nat) (w : Bool) (addr : Nat) (s : State) : State :=
  stopCore c (raise 11 (coreOrigin c bundle slot false w) (leBytes 1 kind)
    ((spdInfo c kind slot bundle (lineAt addr) s).setFld (Fld.SPD_STATUS_ADDR c) 1))

/-- SRAM_UNCORR met by an instruction outside the Trellis paths (R223): recorded, and the core stops. -/
def sramUncorr (c : CoreId) (bundle slot : Nat) (w : Bool) (addr : Nat) (injected : Bool) (s : State) : State :=
  stopCore c (raise 12 (coreOrigin c bundle slot injected w) []
    ((spdInfo c 4 slot bundle (lineAt addr) s).setFld (Fld.SPD_STATUS_UNCORR c) 1))

/-- STACK_UNCORR met by a data mover read (R232): recorded, and the core stops. -/
def stackUncorr (c : CoreId) (bundle : Nat) (w : Bool) (addr stack : Nat) (injected : Bool) (s : State) : State :=
  let s := ((spdInfo c 5 3 bundle (lineAt addr) s).setFld (Fld.SPD_STATUS_STACK c) 1).setFld (Fld.MEM_STATUS_UNCORR stack) 1
  let s := s.setFld (Fld.MEM_ERR_ADDR_ADDR stack) (lineAt addr)
  stopCore c (raise 14 { unit := 2, index := stack, bundle := bundle, slot := 3, injected := injected, wings := w } [] s)

/-- Correctable words met on a scratchpad read path (R223): counted. -/
def sramCorr (c : CoreId) (n : Nat) (s : State) : State :=
  if n = 0 then s
  else raiseMany 13 { unit := 1, index := c.val } n ((s.addSat (Fld.SPD_CORR_COUNT c) n).setFld (Fld.SPD_STATUS_CORR c) 1)

/-- Correctable words of a Trellis or Cold Frame store met on a read path (R223). -/
def storeCorr (c : CoreId) (n : Nat) (s : State) : State := raiseMany 13 { unit := 1, index := c.val } n s

/-- SPEC_ESCAPE (R134): the write is suppressed and the region cannot confirm. -/
def specEscape (c : CoreId) (bundle slot : Nat) (s : State) : State :=
  let first := s.fld Fld.SCN_SPEC_STATUS_ABANDON + s.fld Fld.SCN_SPEC_STATUS_ESCAPE + s.fld Fld.SCN_SPEC_STATUS_EARLY = 0
  let s := if first then s.setFld Fld.SCN_SPEC_STATUS_CORE c.val else s
  regionFault c (raise 6 (coreOrigin c bundle slot false true) [] (s.setFld Fld.SCN_SPEC_STATUS_ESCAPE 1))

/-! ### Injections (R337) -/

/-- An injection is armed at a register's bit (R337). -/
def armed (s : State) (reg bit : Nat) : Bool := s.inj.contains (reg, bit)

/-- Use an armed injection: it disarms, and FLT_STATUS.INJ_ARMED follows (R337). -/
def useInj (reg bit : Nat) (s : State) : State :=
  let l := s.inj.filter fun p => decide (p ≠ (reg, bit))
  { s with inj := l }.setFld Fld.FLT_STATUS_INJ_ARMED (b2n !l.isEmpty)

end Sys2Proof.Machine
end

