-- ==== Sys2Proof/Machine/Round.lean ====
section
/-! DEFINITION. Tensor formats: the format codes (R50), the exact decode into the internal form (R57), exact values,
rounding (R60 to R63), conversion (R65), block forming (R66) and the products of scales (R67, R68). -/

namespace Sys2Proof.Machine

/-- The element encodings of R52. -/
inductive Elem where
  | fp32 | bf16 | e4m3 | e5m2 | int8 | e3m2 | e2m3 | e2m1
  deriving DecidableEq, Repr

/-- The element of a format code; the reserved codes 0x5, 0xE, 0xF have none (R50). -/
def fmtElem (fmt : BitVec 4) : Option Elem :=
  match fmt.toNat with
  | 0x0 => some .fp32 | 0x1 => some .bf16 | 0x2 => some .e4m3 | 0x3 => some .e5m2 | 0x4 => some .int8
  | 0x6 => some .e4m3 | 0x7 => some .e4m3 | 0x8 => some .e3m2 | 0x9 => some .e3m2
  | 0xA => some .e2m3 | 0xB => some .e2m3 | 0xC => some .e2m1 | 0xD => some .e2m1
  | _ => none

/-- The block size of a format code, 0 for a plain format (R50). -/
def fmtBlock (fmt : BitVec 4) : Nat :=
  match fmt.toNat with
  | 0x6 | 0x8 | 0xA | 0xC => 32
  | 0x7 | 0x9 | 0xB | 0xD => 16
  | _ => 0

/-- The lowest contract level of a format code (R50). -/
def fmtLevel (fmt : BitVec 4) : Nat :=
  match fmt.toNat with
  | 0x0 | 0x1 | 0x2 | 0x3 | 0x4 => 1
  | 0x6 => 2
  | _ => 3

/-- A plain format code 0x0 to 0x4, the only ones the V and D slots may name (R73, R162). -/
def fmtPlain (fmt : BitVec 4) : Bool := decide (fmt.toNat ≤ 4)

/-- Bits of one element (R52). -/
def Elem.width : Elem → Nat
  | .fp32 => 32 | .bf16 => 16 | .e4m3 => 8 | .e5m2 => 8 | .int8 => 8 | .e3m2 => 6 | .e2m3 => 6 | .e2m1 => 4

/-- Mantissa field width w (R52); none for INT8. -/
def Elem.mant : Elem → Nat
  | .fp32 => 23 | .bf16 => 7 | .e4m3 => 3 | .e5m2 => 2 | .int8 => 0 | .e3m2 => 2 | .e2m3 => 3 | .e2m1 => 1

/-- Exponent bias b (R52). -/
def Elem.bias : Elem → Nat
  | .fp32 => 127 | .bf16 => 127 | .e4m3 => 7 | .e5m2 => 15 | .int8 => 0 | .e3m2 => 3 | .e2m3 => 1 | .e2m1 => 1

/-- Exponent of the smallest subnormal (R52, R76): 1 - b - w; INT8 has unit 1. -/
def Elem.minExp : Elem → Int
  | .int8 => 0
  | e => 1 - (e.bias : Int) - (e.mant : Int)

/-- Largest finite magnitude as an integer times a power of two: (significand, exponent) (R52). -/
def Elem.maxMag : Elem → Nat × Int
  | .fp32 => (0xFFFFFF, 104) | .bf16 => (0xFF, 120) | .e4m3 => (14, 5) | .e5m2 => (7, 13) | .int8 => (127, 0)
  | .e3m2 => (7, 2) | .e2m3 => (15, -1) | .e2m1 => (3, 1)

/-- The width w of R76: grid bits of an element magnitude; only for the formats that R76 lists. -/
def Elem.gridWidth : Elem → Nat
  | .e4m3 => 18 | .e5m2 => 32 | .e3m2 => 9 | .e2m3 => 6 | .e2m1 => 4 | .int8 => 8 | .fp32 => 0 | .bf16 => 0

/-- Class of a decoded operand (R57). -/
inductive Cls where
  | zero | finite | inf | nan
  deriving DecidableEq, Repr

/-- The internal form of R57: sign, unbiased exponent, 24-bit significand, class. -/
structure Dec where
  s : Bool
  e : Int
  m : Nat
  cls : Cls
  deriving DecidableEq, Repr

/-- Index of the most significant set bit; 0 for 0. -/
def msb (n : Nat) : Nat := Nat.log2 n

/-- The decode of R57. `bexp` is the block exponent byte, or none for a plain format. -/
def decodeElem (el : Elem) (bits : Nat) (bexp : Option Nat) : Dec :=
  match el with
  | .int8 =>
    let v := bits % 256
    if v = 0 then ⟨false, 0, 0, .zero⟩
    else
      let s := decide (128 ≤ v)
      let a := if s then 256 - v else v
      ⟨s, msb a, a * 2 ^ (23 - msb a), .finite⟩
  | el =>
    let w := el.mant
    let bits := bits % 2 ^ el.width
    let s := decide (bits / 2 ^ (el.width - 1) = 1)
    let ef := bits / 2 ^ w % 2 ^ (el.width - 1 - w)
    let mf := bits % 2 ^ w
    let ones := decide (ef = 2 ^ (el.width - 1 - w) - 1)
    let wide := match el with | .fp32 => true | .bf16 => true | .e5m2 => true | _ => false
    if wide && ones then ⟨s, 0, 0, if mf = 0 then .inf else .nan⟩
    else if decide (el = .e4m3) && ones && decide (mf = 7) then ⟨s, 0, 0, .nan⟩
    else
      let d : Dec :=
        if ef = 0 then
          if mf = 0 then ⟨s, 0, 0, .zero⟩
          else ⟨s, 1 - (el.bias : Int) - (w : Int) + msb mf, mf * 2 ^ (23 - msb mf), .finite⟩
        else ⟨s, (ef : Int) - el.bias, 2 ^ 23 + mf * 2 ^ (23 - w), .finite⟩
      match bexp with
      | none => d
      | some x =>
        if x = 0xFF then ⟨s, 0, 0, .nan⟩
        else if d.cls = .finite then { d with e := d.e + x - 127 } else d

/-- An exact value: NaN, a signed infinity, or (-1)^s × n × 2^e; a zero keeps its sign in s. -/
inductive Val where
  | nan
  | inf (s : Bool)
  | num (s : Bool) (n : Nat) (e : Int)
  deriving DecidableEq, Repr

/-- The exact value of a decoded operand (R57). -/
def Dec.val (d : Dec) : Val :=
  match d.cls with
  | .nan => .nan
  | .inf => .inf d.s
  | .zero => .num d.s 0 0
  | .finite => .num d.s d.m (d.e - 23)

/-- The exact value of an FP32 lane. -/
def laneVal (x : BitVec 32) : Val := (decodeElem .fp32 x.toNat none).val

/-- Compare the magnitudes n × 2^e and m × 2^f. -/
def magLe (n : Nat) (e : Int) (m : Nat) (f : Int) : Bool :=
  if e ≤ f then decide (n ≤ m * 2 ^ (f - e).toNat) else decide (n * 2 ^ (e - f).toNat ≤ m)

/-- Round n × 2^e to an integer number of units 2^u in a mode of R60 (0 RNE, 1 RTZ, 2 RTO). -/
def roundUnits (mode : Nat) (n : Nat) (e u : Int) : Nat :=
  if u ≤ e then n * 2 ^ (e - u).toNat
  else
    let k := (u - e).toNat
    let q := n / 2 ^ k
    let r := n % 2 ^ k
    if r = 0 then q
    else
      match mode with
      | 0 => if 2 ^ k < 2 * r then q + 1 else if 2 * r = 2 ^ k then q + q % 2 else q
      | 1 => q
      | _ => q + (1 - q % 2)

/-- Bits of a format's infinity or overflow value with a sign bit (R52). -/
def Elem.signed (el : Elem) (s : Bool) (mag : Nat) : Nat := (if s then 2 ^ (el.width - 1) else 0) + mag

/-- Magnitude bits of the largest finite value (R52). -/
def Elem.maxBits : Elem → Nat
  | .fp32 => 0x7F7FFFFF | .bf16 => 0x7F7F | .e4m3 => 0x7E | .e5m2 => 0x7B | .int8 => 127
  | .e3m2 => 0x1F | .e2m3 => 0x1F | .e2m1 => 0x7

/-- Canonical NaN of a plain format; its sign is 0 (R71). INT8 has none: NaN becomes 0 (R65). -/
def Elem.nanBits : Elem → Nat
  | .fp32 => 0x7FC00000 | .bf16 => 0x7FC0 | .e4m3 => 0x7F | .e5m2 => 0x7E | _ => 0

/-- A conversion into a plain format: the bits, whether it is a format overflow (R63), and whether it is a NaN into
INT8 (R65). -/
structure Conv where
  bits : Nat
  ovf : Bool
  nanInt : Bool
  deriving DecidableEq, Repr

/-- |v| ≥ MAX + u/2, the format overflow test of R63, for a magnitude n × 2^e and sign s. -/
def ovfTest (el : Elem) (s : Bool) (n : Nat) (e : Int) : Bool :=
  let (m, f) := if decide (el = .int8) && s then (128, 0) else el.maxMag
  magLe (2 * m + 1) (f - 1) n e

/-- Round a finite value into a plain format, or into a block element after scaling (R60 to R63). -/
def roundNum (el : Elem) (mode : Nat) (s : Bool) (n : Nat) (e : Int) : Conv :=
  match el with
  | .int8 =>
    let lim := if s then 128 else 127
    let q := min lim (roundUnits mode n e 0)
    ⟨if s then (256 - q) % 256 else q, ovfTest .int8 s n e, false⟩
  | el =>
    let ovf := ovfTest el s n e
    let fmtOvf := match el with | .fp32 => false | .bf16 => false | _ => ovf
    let (m, f) := el.maxMag
    if decide (mode = 0) && ovf then
      ⟨if decide (el = .e4m3) then 0x7F else el.signed s (el.maxBits + 1), fmtOvf, false⟩
    else if decide (mode ≠ 0) && !magLe n e m f then ⟨el.signed s el.maxBits, fmtOvf, false⟩
    else if n = 0 then ⟨el.signed s 0, false, false⟩
    else
      let u := max el.minExp (e + msb n - el.mant)
      let q := roundUnits mode n e u
      ⟨el.signed s ((u - el.minExp).toNat * 2 ^ el.mant + q), fmtOvf, false⟩

/-- Convert an exact value into a plain format in a mode (R65). -/
def convert (el : Elem) (mode : Nat) : Val → Conv
  | .nan => ⟨el.nanBits, false, decide (el = .int8)⟩
  | .inf s =>
    match el with
    | .int8 => ⟨if s then 0x80 else 127, false, false⟩
    | .e4m3 => ⟨0x7F, false, false⟩
    | .fp32 => ⟨Elem.fp32.signed s 0x7F800000, false, false⟩
    | .bf16 => ⟨Elem.bf16.signed s 0x7F80, false, false⟩
    | .e5m2 => ⟨Elem.e5m2.signed s 0x7C, false, false⟩
    | _ => ⟨0, false, false⟩
  | .num s n e => roundNum el mode s n e

/-- Convert an exact value into FP32. -/
def toLane (mode : Nat) (v : Val) : BitVec 32 := BitVec.ofNat 32 (convert .fp32 mode v).bits

/-- Exact sum under the special-value rules of IEEE 754 (R70, R163). -/
def Val.add : Val → Val → Val
  | .nan, _ => .nan
  | _, .nan => .nan
  | .inf s, .inf t => if s = t then .inf s else .nan
  | .inf s, _ => .inf s
  | _, .inf t => .inf t
  | .num s n e, .num t m f =>
    if n = 0 ∧ m = 0 then .num (s && t) 0 0
    else
      let u := min e f
      let a : Int := (n * 2 ^ (e - u).toNat : Nat)
      let b : Int := (m * 2 ^ (f - u).toNat : Nat)
      let z := (if s then -a else a) + (if t then -b else b)
      if z = 0 then .num false 0 0 else .num (decide (z < 0)) z.natAbs u

/-- Change of sign. -/
def Val.neg : Val → Val
  | .nan => .nan
  | .inf s => .inf (!s)
  | .num s n e => .num (!s) n e

/-- Exact product under the special-value rules of R68. -/
def Val.mul : Val → Val → Val
  | .nan, _ => .nan
  | _, .nan => .nan
  | .inf s, .inf t => .inf (s != t)
  | .inf s, .num t m _ => if m = 0 then .nan else .inf (s != t)
  | .num s n _, .inf t => if n = 0 then .nan else .inf (s != t)
  | .num s n e, .num t m f => if n * m = 0 then .num (s != t) 0 0 else .num (s != t) (n * m) (e + f)

/-- The value is NaN or an infinity. -/
def Val.nonFinite : Val → Bool
  | .num _ _ _ => false
  | _ => true

/-- The value is NaN. -/
def Val.isNan : Val → Bool
  | .nan => true
  | _ => false

/-- The smallest X with A ≤ MAX_E × 2^X for a nonzero magnitude A = n × 2^e (R66 step 3): from the exponent of A,
adjusted by at most one. -/
def blockX (el : Elem) (n : Nat) (e : Int) : Int :=
  let (m, f) := el.maxMag
  let x0 := e + msb n - (f + msb m)
  if magLe n e m (f + x0) then x0 else x0 + 1

/-- The value of largest magnitude among finite values (R66 step 2). -/
def blockMax : List Val → Nat × Int
  | [] => (0, 0)
  | .num _ n e :: vs => let (m, f) := blockMax vs; if magLe n e m f then (m, f) else (n, e)
  | _ :: vs => blockMax vs

/-- A formed block: exponent byte, element bits, format overflow (R66). -/
structure Block where
  exp : Nat
  elems : List Nat
  ovf : Bool
  deriving DecidableEq, Repr

/-- Form one block of element format `el` from up to n exact values (R66). -/
def formBlock (el : Elem) (mode : Nat) (vs : List Val) : Block :=
  if vs.any Val.nonFinite then ⟨0xFF, vs.map fun _ => 0, false⟩
  else
    let (n, e) := blockMax vs
    if n = 0 then ⟨0, vs.map fun v => (convert el mode v).bits, false⟩
    else
      let x := blockX el n e
      if 127 < x then ⟨0xFF, vs.map fun _ => 0, true⟩
      else
        let x := max x (-127)
        ⟨(x + 127).toNat, vs.map fun v =>
          match v with
          | .num s n e => (roundNum el mode s n (e - x)).bits
          | _ => 0, false⟩

/-- Order of two exact values that are not NaN: a < b (R162, R163). -/
def Val.lt : Val → Val → Bool
  | .nan, _ => false
  | _, .nan => false
  | .inf s, .inf t => s && !t
  | .inf s, .num _ _ _ => s
  | .num _ _ _, .inf t => !t
  | .num s n e, .num t m f =>
    if n = 0 ∧ m = 0 then false
    else if n = 0 then !t
    else if m = 0 then s
    else
      match s, t with
      | false, true => false
      | true, false => true
      | false, false => !magLe m f n e
      | true, true => !magLe n e m f

/-- a = b for values that are not NaN; the zeros are equal (R163). -/
def Val.eqv : Val → Val → Bool
  | .nan, _ => false
  | _, .nan => false
  | a, b => !a.lt b && !b.lt a

end Sys2Proof.Machine
end

