-- ==== Sys2Proof/Machine/Operands.lean ====
section
/-! DEFINITION. Operand forms of the Ocran-3 instructions: tile descriptors (R153, R155, R157), the start of an
instruction in its unit (R118, R156), the interlocks of R129 and R170, and the checks that every scratchpad access
makes (R134, R139, R219, R221, R223). -/

namespace Sys2Proof.Machine

/-! ### Tile descriptors -/

/-- A 64-byte pool descriptor as the 512-bit number of its little-endian words (R153). -/
def Desc.decode (b : BitVec 512) : Desc where
  fmt := b.extractLsb' 0 4
  role := b.extractLsb' 4 2
  rows := b.extractLsb' 6 2
  cols := b.extractLsb' 8 2
  acc := b.getLsbD 10
  bdim := b.getLsbD 11
  frzMode := b.getLsbD 12
  klen := b.extractLsb' 16 16
  tag := b.extractLsb' 32 16
  f := b.extractLsb' 48 16
  addr := b.extractLsb' 64 48
  xaddr := b.extractLsb' 128 48
  stride := b.extractLsb' 192 24
  xstride := b.extractLsb' 216 24
  scale := b.extractLsb' 256 32
  row0 := b.extractLsb' 288 24
  col0 := b.extractLsb' 320 24
  k0 := b.extractLsb' 344 40
  freeze := b.extractLsb' 384 128

/-- The 512 bits of a descriptor, its reserved bits zero (R153). -/
def Desc.encode (d : Desc) : BitVec 512 :=
  d.freeze ++ (d.k0 ++ d.col0) ++ ((0#8 ++ d.row0) ++ d.scale) ++ ((0#16 ++ d.xstride) ++ d.stride) ++
    (0#16 ++ d.xaddr) ++ (0#16 ++ d.addr) ++
    (d.f ++ d.tag ++ d.klen ++ 0#3 ++ BitVec.ofBool d.frzMode ++ BitVec.ofBool d.bdim ++ BitVec.ofBool d.acc ++
      d.cols ++ d.rows ++ d.role ++ d.fmt)

/-- 16, 32, 64 or 128 (R153). -/
def dimOf (x : BitVec 2) : Nat := 16 * 2 ^ x.toNat

/-- Rows, or outer length of an operand. -/
def Desc.nRows (d : Desc) : Nat := dimOf d.rows
/-- Columns. -/
def Desc.nCols (d : Desc) : Nat := dimOf d.cols
/-- Reduction length K of an operand. -/
def Desc.kLen (d : Desc) : Nat := d.klen.toNat + 1
/-- Base granule of an accumulator (bits 8:0 of word 2). -/
def Desc.granule (d : Desc) : Nat := d.xaddr.toNat % 512
/-- Floor exponent f of a C160 accumulator. -/
def Desc.floor (d : Desc) : Int := d.f.toInt
/-- The roles of R153. -/
def Desc.isOperand (d : Desc) : Bool := decide (d.role = 0)
/-- Role accumulator. -/
def Desc.isAcc (d : Desc) : Bool := decide (d.role = 1)
/-- Role destination. -/
def Desc.isDst (d : Desc) : Bool := decide (d.role = 2)
/-- Row `i` is frozen (R188). -/
def Desc.frozen (d : Desc) (i : Nat) : Bool := if d.frzMode then d.freeze.getLsbD (i / 16) else d.freeze.getLsbD i

/-- The coordinate limits of R157, for a descriptor of each role. -/
def Desc.inRange (d : Desc) : Bool :=
  if d.isAcc then decide (d.row0.toNat + d.nRows ≤ 2 ^ 24 ∧ d.col0.toNat + d.nCols ≤ 2 ^ 24)
  else if d.isOperand then decide (d.k0.toNat + d.kLen ≤ 2 ^ 40 ∧ d.k0.toNat % 32 = 0)
  else true

/-- TADJ (R157): the adjusted descriptor, or none where the field is not listed for the role or a limit breaks. -/
def Desc.adjust (d : Desc) (fld : BitVec 3) (ga : Word) : Option Desc :=
  let g := ga.toInt
  match fld.toNat with
  | 0 => some { d with addr := d.addr + ga.setWidth 48 }
  | 1 => if d.isOperand || d.isDst then some { d with xaddr := d.xaddr + ga.setWidth 48 } else none
  | 2 =>
    let r := (d.row0.toNat : Int) + g
    if d.isAcc ∧ 0 ≤ r ∧ r + d.nRows ≤ 2 ^ 24 then some { d with row0 := BitVec.ofInt 24 r } else none
  | 3 =>
    let r := (d.col0.toNat : Int) + g
    if d.isAcc ∧ 0 ≤ r ∧ r + d.nCols ≤ 2 ^ 24 then some { d with col0 := BitVec.ofInt 24 r } else none
  | 4 =>
    let r := (d.k0.toNat : Int) + g
    if d.isOperand ∧ 0 ≤ r ∧ r + d.kLen ≤ 2 ^ 40 ∧ r % 32 = 0 then some { d with k0 := BitVec.ofInt 40 r } else none
  | 5 => if d.isOperand then some { d with scale := ga.setWidth 32 } else none
  | _ => none

/-- First address and element offset of element (i, k) of an operand, and its exponent address (R155); FP6 and FP4
elements are packed from the line's first byte (R53). `across` reads across lines. -/
def Desc.elemBit (d : Desc) (el : Elem) (across : Bool) (i k : Nat) : Nat × Nat :=
  let line := if across then k else i
  let pos := if across then i else k
  (d.addr.toNat + line * d.stride.toNat, pos * el.width)

/-- Exponent address of element (i, k) of an operand with block size n (R155). -/
def Desc.expAddr (d : Desc) (n : Nat) (across : Bool) (i k : Nat) : Nat :=
  if across then d.xaddr.toNat + (k / n) * d.xstride.toNat + i else d.xaddr.toNat + i * d.xstride.toNat + k / n

/-- Bytes of one line of `n` elements (R53). -/
def lineBytes (el : Elem) (n : Nat) : Nat := (n * el.width + 7) / 8

/-- Bits `pos` to `pos + w - 1` counted from the first byte of a line (R53). -/
def State.bitsAt (s : State) (line pos w : Nat) : Nat := s.le (line + pos / 8) (w / 8 + 2) / 2 ^ (pos % 8) % 2 ^ w

/-- The address ranges that an operand's elements and exponents occupy (R155). -/
def Desc.operandRanges (d : Desc) (across : Bool) : List (Nat × Nat) :=
  match fmtElem d.fmt with
  | none => []
  | some el =>
    let lines := if across then d.kLen else d.nRows
    let n := if across then d.nRows else d.kLen
    let es := (List.range lines).map fun l => (d.addr.toNat + l * d.stride.toNat, lineBytes el n)
    if fmtBlock d.fmt = 0 then es
    else
      let b := fmtBlock d.fmt
      let xl := if across then (d.kLen + b - 1) / b else d.nRows
      let xn := if across then d.nRows else (d.kLen + b - 1) / b
      es ++ (List.range xl).map fun l => (d.xaddr.toNat + l * d.xstride.toNat, xn)

/-- The address ranges that a destination's elements and exponents occupy (R155). -/
def Desc.dstRanges (d : Desc) : List (Nat × Nat) :=
  match fmtElem d.fmt with
  | none => []
  | some el =>
    let es := (List.range d.nRows).map fun r => (d.addr.toNat + r * d.stride.toNat, lineBytes el d.nCols)
    if fmtBlock d.fmt = 0 then es
    else
      let b := fmtBlock d.fmt
      let xl := if d.bdim then (d.nRows + b - 1) / b else d.nRows
      let xn := if d.bdim then d.nCols else (d.nCols + b - 1) / b
      es ++ (List.range xl).map fun l => (d.xaddr.toNat + l * d.xstride.toNat, xn)

/-- Bytes of a spill area (R100, R101): 96 per element. -/
def Desc.spillBytes (d : Desc) : Nat := 96 * d.nRows * d.nCols

/-! ### The start of an instruction in its unit -/

/-- Which slot a unit's faults name (R234). -/
def UnitId.slot : UnitId → Nat
  | .m => 0 | .t => 1 | .v => 2 | .d => 3 | .f => 4 | .c => 5

/-- The queue of a unit. -/
def Core.queue (k : Core) : UnitId → List QEntry
  | .m => k.uM | .t => k.uT | .v => k.uV | .d => k.uD | .f => k.uF | .c => k.uC

/-- Put the queue of a unit. -/
def Core.setQueue (k : Core) (u : UnitId) (q : List QEntry) : Core :=
  match u with
  | .m => { k with uM := q } | .t => { k with uT := q } | .v => { k with uV := q }
  | .d => { k with uD := q } | .f => { k with uF := q } | .c => { k with uC := q }

/-- What a starting instruction works with: its core and unit, the registers its bundle read at issue, its bundle
address, the region it was issued in, its place in the issue order and the CYCLE of its issue. -/
structure Ctx where
  c : CoreId
  u : UnitId
  regs : Regs
  bundle : Nat
  region : Option Nat
  seq : Nat
  at_ : Nat
  deriving DecidableEq, Repr

/-- The context of a queue entry. -/
def QEntry.ctx (e : QEntry) (c : CoreId) (u : UnitId) : Ctx := ⟨c, u, e.regs, e.bundle, e.region, e.seq, e.at_⟩

/-- The context of an instruction that no bundle has issued: the registers as they stand, at CYCLE `n`. -/
def Core.ctx (k : Core) (c : CoreId) (u : UnitId) (n : Nat) : Ctx :=
  ⟨c, u, k.regs, 0xFFFFFFFF, k.region.map (·.ord), k.issued, n⟩

/-! ### Registers read and written, for the interlock of R170 -/

/-- The registers an instruction writes. -/
def instrWrites : Instr → List RegName
  | .vld _ vd .. | .vadd _ vd .. | .vsub _ vd .. | .vmul _ vd .. | .vfma _ vd .. | .vmax _ vd .. | .vmin _ vd ..
  | .vabs _ vd .. | .vneg _ vd .. | .vexp _ vd .. | .vlog _ vd .. | .vrcp _ vd .. | .vrsq _ vd .. | .vsel _ vd ..
  | .vcvt _ vd .. | .vsplat _ vd .. | .seed _ vd .. | .unstash _ vd .. => [.v vd.toNat]
  | .vcmp _ qd .. | .cmp _ qd .. => [.q qd.toNat]
  | .vamax _ gd .. | .gets _ gd .. | .movi _ gd .. | .addi _ gd .. | .add _ gd .. | .sub _ gd .. | .and _ gd ..
  | .or _ gd .. | .xor _ gd .. | .shl _ gd .. | .shr _ gd .. | .sar _ gd .. | .mul _ gd .. | .pget _ gd ..
  | .confirm _ gd | .admitRegion _ gd _ => if gd = 0 then [] else [.g gd.toNat]
  | .padd _ pd .. | .pset _ pd .. => [.p pd.toNat]
  | .tld _ t .. | .tadj _ t .. => [.t t.toNat]
  | _ => []

/-- The registers an instruction reads. -/
def instrReads : Instr → List RegName
  | .mma _ acc a b _ => [.t acc.toNat, .t a.toNat, .t b.toNat]
  | .mmat _ acc a b _ _ => [.t acc.toNat, .t a.toNat, .t b.toNat]
  | .drain _ acc dst sa sb _ _ scl _ => [.t acc.toNat, .t dst.toNat] ++ if scl then [.t sa.toNat, .t sb.toNat] else []
  | .spill _ acc => [.t acc.toNat]
  | .fill _ acc => [.t acc.toNat]
  | .vxsum _ acc v q _ _ _ g => [.t acc.toNat, .v v.toNat, .q q.toNat, .g g.toNat]
  | .vxacc _ acc v q _ _ _ g => [.t acc.toNat, .v v.toNat, .q q.toNat, .g g.toNat]
  | .vld _ _ p _ _ => [.p p.toNat]
  | .vst _ va p _ _ _ q => [.v va.toNat, .p p.toNat, .q q.toNat]
  | .vadd _ vd va vb q _ | .vsub _ vd va vb q _ | .vmul _ vd va vb q _ | .vmax _ vd va vb q | .vmin _ vd va vb q =>
    [.v vd.toNat, .v va.toNat, .v vb.toNat, .q q.toNat]
  | .vfma _ vd va vb vc q _ => [.v vd.toNat, .v va.toNat, .v vb.toNat, .v vc.toNat, .q q.toNat]
  | .vabs _ vd va q | .vneg _ vd va q | .vexp _ vd va q _ | .vlog _ vd va q _ | .vrcp _ vd va q _ | .vrsq _ vd va q _
  | .vcvt _ vd va _ _ q => [.v vd.toNat, .v va.toNat, .q q.toNat]
  | .vcmp _ _ va vb _ q => [.v va.toNat, .v vb.toNat, .q q.toNat]
  | .vsel _ _ va vb q => [.v va.toNat, .v vb.toNat, .q q.toNat]
  | .vsplat _ _ ga => [.g ga.toNat]
  | .vamax _ _ va q => [.v va.toNat, .q q.toNat]
  | .seed _ _ ga _ _ _ _ => [.g ga.toNat]
  | .dmov _ ps pd gl => [.p ps.toNat, .p pd.toNat, .g gl.toNat]
  | .dmovi _ ps pd _ => [.p ps.toNat, .p pd.toNat]
  | .stash _ v _ _ g _ => [.v v.toNat, .g g.toNat]
  | .send _ _ ps => [.p ps.toNat]
  | .recv _ _ pd => [.p pd.toNat]
  | .gather _ _ pd => [.p pd.toNat]
  | .xred _ _ acc => [.t acc.toNat]
  | .jmp _ q _ _ => [.q q.toNat]
  | .addi _ _ ga _ => [.g ga.toNat]
  | .movi _ gd _ _ kp => if kp then [.g gd.toNat] else []
  | .add _ _ ga gb | .sub _ _ ga gb | .and _ _ ga gb | .or _ _ ga gb | .xor _ _ ga gb | .shl _ _ ga gb
  | .shr _ _ ga gb | .sar _ _ ga gb | .mul _ _ ga gb | .cmp _ _ ga gb _ => [.g ga.toNat, .g gb.toNat]
  | .padd _ _ pa gb => [.p pa.toNat, .g gb.toNat]
  | .pset _ _ ga => [.g ga.toNat]
  | .pget _ _ pa => [.p pa.toNat]
  | .tadj _ t _ ga => [.t t.toNat, .g ga.toNat]
  | _ => []

/-- Cycles from issue until a bundle may read the instruction's result (R162, R167, R179). -/
def resultCycles : Instr → Nat
  | .vld .. => 6
  | .vadd .. | .vsub .. | .vmul .. | .vcvt .. => 4
  | .vfma .. => 5
  | .vmax .. | .vmin .. | .vabs .. | .vneg .. | .vcmp .. | .vsel .. | .vsplat .. => 2
  | .vexp .. | .vlog .. | .vrcp .. | .vrsq .. | .seed .. => 12
  | .vamax .. => 6
  | .unstash .. => 8
  | .mul .. => 3
  | .confirm .. | .tld .. | .tadj .. => 2
  | _ => 1

/-- The registers an instruction names as sources: a vector destination whose lanes a predicate keeps is none. -/
def sourceRegs (i : Instr) : List RegName :=
  match i with
  | .vadd _ vd .. | .vsub _ vd .. | .vmul _ vd .. | .vfma _ vd .. | .vmax _ vd .. | .vmin _ vd .. | .vabs _ vd .. | .vneg _ vd ..
  | .vexp _ vd .. | .vlog _ vd .. | .vrcp _ vd .. | .vrsq _ vd .. | .vcvt _ vd .. => (instrReads i).erase (.v vd.toNat)
  | i => instrReads i

/-- The results of instruction `i`, started at CYCLE `n`, are available after its Result cycles (R162, R167, R170, R179). -/
def Core.deliver (k : Core) (i : Instr) (n : Nat) : Core :=
  match instrWrites i with
  | [] => k
  | rs => { k with ready := rs.map (fun r => (r, n + resultCycles i)) ++ k.ready.filter fun p => decide (n < p.2) && !rs.contains p.1 }

/-- The CYCLE from which all of a list of registers are available (R170). -/
def Core.readyAt (k : Core) (rs : List RegName) : Nat := ((k.ready.filter fun p => rs.contains p.1).map (·.2)).foldl max 0

/-- The end of an instruction's start: a state with the times of its results noted, or, where it must wait, the state before. -/
def delivered (c : CoreId) (i : Instr) (s : State) (o : Option State) : State :=
  match o with
  | some t => t.updCore c fun k => k.deliver i t.cycle
  | none => s

/-- Start instruction `i` in unit `u`: it is the front of the unit's queue, or the queue is empty (assumption 4). A
started instruction leaves the queue; `f` answers none while the instruction must wait, and then nothing changes
(assumption 6). -/
def runUnit (c : CoreId) (u : UnitId) (i : Instr) (s : State) (f : Ctx → State → Option State) : State :=
  if s.live then
    match (s.core c).queue u with
    | [] => delivered c i s (f ((s.core c).ctx c u s.cycle) (s.updCore c fun k => { k with issued := k.issued + 1 }))
    | e :: q =>
      if e.instr = i then delivered c i s (f (e.ctx c u) (s.updCore c fun k => k.setQueue u q)) else s
  else s

/-- The context in which instruction `i` would start in unit `u`, where it is the next there. -/
def nextCtx (s : State) (c : CoreId) (u : UnitId) (i : Instr) : Option Ctx :=
  if s.live then
    match (s.core c).queue u with
    | [] => some ((s.core c).ctx c u s.cycle)
    | e :: _ => if e.instr = i then some (e.ctx c u) else none
  else none

/-- Write registers: a result of an instruction issued before the open region also belongs to its shadow (R135). -/
def Core.writeRegs (k : Core) (x : Ctx) (f : Regs → Regs) : Core :=
  { k with
    regs := f k.regs
    region := k.region.map fun r => if x.region = some r.ord then r else { r with shadow := f r.shadow } }

/-- Write registers of the instruction's core. -/
def wr (x : Ctx) (f : Regs → Regs) (s : State) : State := s.updCore x.c fun k => k.writeRegs x f

/-- A core's region of an ordinal is still open. -/
def stillOpen (s : State) (c : CoreId) (ord : Option Nat) : Bool :=
  match (s.core c).region, ord with
  | some r, some o => decide (r.ord = o)
  | _, _ => false

/-- The instruction runs in the wings: the region it was issued in is still open. -/
def inWings (x : Ctx) (s : State) : Bool :=
  match (s.core x.c).region, x.region with
  | some r, some o => decide (r.ord = o)
  | _, _ => false

/-- The registers whose producers have issued and not delivered (R170). -/
def Core.pendingRegs (k : Core) : List RegName :=
  k.queued.flatMap (fun e => instrWrites e.instr) ++
    (match k.confirm with | some (_, gd) => if gd = 0 then [] else [RegName.g gd.toNat] | none => []) ++
    (match k.admitOp with | some (_, gd, _) => if gd = 0 then [] else [RegName.g gd.toNat] | none => [])

/-! ### Reads wait for earlier writes (R129) -/

/-- Two ranges share a byte. -/
def overlaps (r t : Nat × Nat) : Bool := decide (r.1 < t.1 + t.2 ∧ t.1 < r.1 + r.2 ∧ 0 < r.2 ∧ 0 < t.2)

/-- The transfer table entry X of the loaded book. -/
def Core.xfer (k : Core) (x : Nat) : Option XferEntry := match k.book with | some b => b.xfers[x]? | none => none

/-- P + 64 × OFF, an address of a vector load or store (R162). -/
def vecAddr (p : Addr) (off : BitVec 16) : Nat := (p + 64#48 * off.signExtend 48).toNat

/-- The scratchpad ranges an instruction writes, with its registers. -/
def writeRanges (k : Core) (r : Regs) : Instr → List (Nat × Nat)
  | .vst _ _ p off fmt _ _ =>
    match fmtElem fmt with
    | some el => [(vecAddr (r.pr p) off, 64 * el.width / 8)]
    | none => []
  | .drain _ _ dst _ _ _ _ _ _ => match r.tr dst with | some d => d.dstRanges | none => []
  | .spill _ acc => match r.tr acc with | some d => [(d.addr.toNat, d.spillBytes)] | none => []
  | .dmov _ _ pd gl => [((r.pr pd).toNat, (r.gr gl).toNat % 2 ^ 32)]
  | .dmovi _ _ pd len => [((r.pr pd).toNat, (len.toNat + 1) * 64)]
  | .recv _ x pd => match k.xfer x.toNat with | some e => [((r.pr pd).toNat, e.bytes)] | none => []
  | .gather _ x pd => match k.xfer x.toNat with | some e => [((r.pr pd).toNat, e.bytes)] | none => []
  | _ => []

/-- Ranges of the core's writes earlier in issue order than `seq` that have not completed at CYCLE `n` (R129, R108). -/
def Core.busyRanges (k : Core) (seq n : Nat) : List (Nat × Nat) :=
  (k.queued.filter fun e => decide (e.seq < seq)).flatMap (fun e => writeRanges k e.regs e.instr) ++
  (k.tWait.filter fun w => decide (w.entry.seq < seq)).flatMap (fun w => writeRanges k w.entry.regs w.entry.instr) ++
  (k.cmps.filter fun w => decide (w.seq < seq ∧ (w.region = none ∨ n < w.open_))).flatMap (fun w => w.ranges) ++
  (k.dm.filter fun w => decide (w.seq < seq)).map (fun w => (w.dst, w.len)) ++
  (k.landing.filter fun w => decide (w.seq < seq ∧ n + 256 ≤ w.at_)).map (fun w => (w.dst, w.len)) ++
  (k.port.filter fun w => decide (w.seq < seq)).flatMap (fun w => writeRanges k w.regs w.instr)

/-- The drain fence of a tile is shut for an instruction at `seq` of the issue order: partials are in flight, or an
earlier XRED of the tile has not completed (R107, R278). -/
def Core.fenceShut (k : Core) (t : Tile) (seq : Nat) : Bool :=
  decide (0 < t.inflight) ||
    k.port.any fun w => decide (w.seq < seq) && (match w.acc with | some d => decide (d.granule = t.granule) | none => false)

/-- A read of the ranges must wait (R129). -/
def mustWait (x : Ctx) (rs : List (Nat × Nat)) (s : State) : Bool :=
  ((s.core x.c).busyRanges x.seq s.cycle).any fun b => rs.any fun r => overlaps r b

/-! ### Access checks -/

/-- The kind of address fault of a range that an M, T, V or F slot reads or writes (R219, R221), or none. -/
def ownScratchKind (s : State) (c : CoreId) (a n : Nat) : Option Nat :=
  let o := a - scrBase c
  let k := s.core c
  if scrBase c ≤ a ∧ o < scrSize then
    if o + n ≤ k.bookOff then none
    else if k.bookSize = 0 then some 1 else some 2
  else
    match placeOf s.nStacks a with
    | .unmapped => some 1
    | _ => some 3

/-- Where a range of the core's own scratchpad meets its first address fault: the book area, or its first byte (R234). -/
def scratchLine (s : State) (c : CoreId) (a : Nat) : Nat :=
  if scrBase c ≤ a ∧ a - scrBase c < scrSize then max a (scrBase c + (s.core c).bookOff) else a

/-- The range lies in the core's wings area (R224). -/
def inWingsArea (s : State) (c : CoreId) (a n : Nat) : Bool :=
  let b := scrBase c + (s.core c).wingsBase
  decide (b ≤ a ∧ a + n ≤ b + (s.core c).wingsSize)

/-- A line of the range is pending for a source region (R139). -/
def pendingSource (s : State) (c : CoreId) (a n : Nat) : Bool :=
  (s.core c).pend.any fun (l, p) =>
    match p with
    | some (.src _ _ _) => overlaps (64 * l, 64) (a, n)
    | _ => false

/-- Outcome of an access check: go on, wait, or a fault has been taken. -/
inductive Check where
  | ok (s : State)
  | wait
  | stop (s : State)
  deriving DecidableEq, Repr

/-- Continue after a check: a waiting instruction waits; a fault is its whole effect. -/
def Check.bind (k : Check) (f : State → Option State) : Option State :=
  match k with
  | .ok s => f s
  | .wait => none
  | .stop s => some s

/-- WINGS_EARLY (R139): the status bit, the fault, the stop, and the region that cannot confirm. -/
def wingsEarly (x : Ctx) (s : State) : State :=
  let first := s.fld Fld.SCN_SPEC_STATUS_ABANDON + s.fld Fld.SCN_SPEC_STATUS_ESCAPE + s.fld Fld.SCN_SPEC_STATUS_EARLY = 0
  let s := if first then s.setFld Fld.SCN_SPEC_STATUS_CORE x.c.val else s
  regionFault x.c (stopCore x.c (raise 7 (coreOrigin x.c x.bundle x.u.slot false (inWings x s)) []
    (s.setFld Fld.SCN_SPEC_STATUS_EARLY 1)))

/-- The lines of `rs` that hold an uncorrectable code word (R223). -/
def lostLines (s : State) (rs : List (Nat × Nat)) : List Nat :=
  (rs.flatMap fun r => (wordsOf r.1 r.2).filterMap fun w => match SMap.get .ok s.ecc w with
    | .uncorr => some (w / 4)
    | .injected => some (w / 4)
    | _ => none).eraseDups

/-- What a reader sees where a line of the ranges is pending for a source region: the read is suppressed and returns zero (R139). -/
def earlyView (c : CoreId) (rs : List (Nat × Nat)) (s : State) : State :=
  ((s.core c).pend.filter fun e => match e.2 with
    | some (.src _ _ _) => rs.any fun r => overlaps (64 * e.1, 64) r
    | _ => false).foldl (fun v e => { v with mem := memWrite v.mem (64 * e.1) (List.replicate 64 0#8) }) s

/-- The first uncorrectable code word of a list of ranges, as an address. -/
def firstUncorr (s : State) (rs : List (Nat × Nat)) : Option (Nat × Bool) :=
  rs.findSome? fun r => (wordsOf r.1 r.2).findSome? fun w =>
    match SMap.get .ok s.ecc w with
    | .uncorr => some (16 * w, false)
    | .injected => some (16 * w, true)
    | _ => none

/-- The address fault that the reads or writes of an M, T, V or F slot instruction meet (R221): its kind, and where. -/
def scratchFault (s : State) (c : CoreId) (rs : List (Nat × Nat)) : Option (Nat × Nat) :=
  rs.findSome? fun r => (ownScratchKind s c r.1 r.2).map fun k => (k, scratchLine s c r.1)

/-- Outcome of the reads of an M, T, V or F slot instruction: the state whose bytes it reads, the lines that give it nothing
(R223) and the state in which it goes on; or it waits, or an address fault has been taken. -/
inductive Reads where
  | ok (view : State) (lost : List Nat) (s : State)
  | wait
  | stop (s : State)

/-- Continue after the reads. -/
def Reads.bind (k : Reads) (f : State → List Nat → State → Option State) : Option State :=
  match k with
  | .ok v lost s => f v lost s
  | .wait => none
  | .stop s => some s

/-- The reads of an M, T, V or F slot instruction: address (R221), completion of earlier writes (R129), pending lines of a source
region, which read as zero (R139), and the code words: a line in error gives nothing (R223). Each fault is raised once. -/
def readScr (x : Ctx) (rs : List (Nat × Nat)) (s : State) : Reads :=
  match scratchFault s x.c rs with
  | some (k, a) => .stop (addressFault x.c k x.bundle x.u.slot (inWings x s) a s)
  | none =>
    if mustWait x rs s then .wait
    else
      let early := rs.any fun r => pendingSource s x.c r.1 r.2
      let s1 := sramCorr x.c ((rs.map fun r => s.corrCount r.1 r.2).foldl (· + ·) 0) (if early then wingsEarly x s else s)
      let s2 := match firstUncorr s rs with
        | some (w, injected) => sramUncorr x.c x.bundle x.u.slot (inWings x s) w injected s1
        | none => s1
      .ok (if early then earlyView x.c rs s else s) (lostLines s rs) s2

/-- The reads of a promotion replay (R103): an address fault, an early read or a word in error is the whole effect of its DRAIN or
SPILL. -/
def checkReads (x : Ctx) (rs : List (Nat × Nat)) (s : State) : Check :=
  match scratchFault s x.c rs with
  | some (k, a) => .stop (addressFault x.c k x.bundle x.u.slot (inWings x s) a s)
  | none =>
    if mustWait x rs s then .wait
    else if rs.any fun r => pendingSource s x.c r.1 r.2 then .stop (wingsEarly x s)
    else
      match firstUncorr s rs with
      | some (w, injected) => .stop (sramUncorr x.c x.bundle x.u.slot (inWings x s) w injected s)
      | none => .ok (sramCorr x.c ((rs.map fun r => s.corrCount r.1 r.2).foldl (· + ·) 0) s)

/-- Check the writes of an M, T, V or F slot instruction: in the wings, an address outside the wings area is
suppressed and reported as SPEC_ESCAPE (R134, R221). -/
def checkWrites (x : Ctx) (rs : List (Nat × Nat)) (s : State) : Check :=
  if inWings x s then
    if rs.all fun r => inWingsArea s x.c r.1 r.2 then .ok s else .stop (specEscape x.c x.bundle x.u.slot s)
  else
    match scratchFault s x.c rs with
    | some (k, a) => .stop (addressFault x.c k x.bundle x.u.slot (inWings x s) a s)
    | none => .ok s

/-- Invert the check bits of the first code word of a write, if armed (R337). -/
def injectWord (reg bit a : Nat) (s : State) : State :=
  if armed s reg bit then (useInj reg bit s).setEcc a .injected else s

/-- The injection register that guards the place of an address, and its bit (R337). -/
def injectorAt (s : State) (a : Nat) : Option (Nat × Nat) :=
  match placeOf s.nStacks a with
  | .stack k => some (Reg.MEM_INJECT k, 0)
  | .scratch n _ => if h : n < 96 then some (Reg.SPD_INJECT ⟨n, h⟩, 0) else none
  | .frame n => if h : n < 96 then some (Reg.CFR_INJECT ⟨n, h⟩, 0) else none
  | .trellis n => if h : n < 96 then some (Reg.TRL_INJECT ⟨n, h⟩, 1) else none
  | .regs => none
  | .unmapped => none

/-- A write to any store of the device: its first code word takes an armed injection (R337). -/
def State.store (s : State) (a : Nat) (bs : List Byte) : State :=
  match (if bs.isEmpty then none else injectorAt s a) with
  | some (reg, bit) => injectWord reg bit a (s.write a bs)
  | none => s.write a bs

/-- Lines of a range that the region in the wings has written become pending (R135). -/
def markPending (x : Ctx) (a n : Nat) (s : State) : State :=
  if inWings x s then
    s.updCore x.c fun k => { k with pend := (linesOf a n).foldl (fun m l => SMap.set none m l (some .own)) k.pend }
  else s

/-- A scratchpad write of an instruction: bytes, injection, and, in the wings, the lines pending (R135). -/
def writeScr (x : Ctx) (a : Nat) (bs : List Byte) (s : State) : State :=
  markPending x a bs.length (injectWord (Reg.SPD_INJECT x.c) 0 a (s.write a bs))

/-- The lines in which a masked write selects a byte. -/
def maskedLines (a : Nat) (bs : List (Option Byte)) : List Nat :=
  (linesOf a bs.length).filter fun l => (List.range 64).any fun i => maskedAt a bs (64 * l + i)

/-- A masked scratchpad write of an instruction: only the lines that it writes become pending in the wings (R135), and an armed
injection takes the first word written. -/
def writeScrMasked (x : Ctx) (a : Nat) (bs : List (Option Byte)) (s : State) : State :=
  match bs.findIdx? Option.isSome with
  | some i =>
    (maskedLines a bs).foldl (fun s l => markPending x (64 * l) 64 s) (injectWord (Reg.SPD_INJECT x.c) 0 (a + i) (s.writeMasked a bs))
  | none => s

end Sys2Proof.Machine
end

