-- ==== Sys2Proof/WellFormed.lean ====
section
/-! DEFINITION. Well-formed commands: the field values that R172 calls illegal encodings are excluded. Rules that need
the loaded book or a register's contents are no part of it. -/

namespace Sys2Proof

/-- A plain format code (R162, R172). -/
def plainFmt (fmt : BitVec 4) : Bool := decide (fmt.toNat ≤ 4)

/-- A format code of R50 that is not reserved. -/
def validFmt (fmt : BitVec 4) : Bool := decide (fmt ≠ 5 ∧ fmt ≠ 0xE ∧ fmt ≠ 0xF)

/-- A rounding mode of R60. -/
def validMode (m : BitVec 2) : Bool := decide (m ≠ 3)

/-- The command's own field values are none of the illegal encodings of R172. -/
def Instr.wellFormed : Instr → Bool
  | .drain _ _ _ sa sb fmt mode scl _ => validFmt fmt && validMode mode && (scl || decide (sa = 0 ∧ sb = 0))
  | .vld _ _ _ _ fmt => plainFmt fmt
  | .vst _ _ _ _ fmt mode _ => plainFmt fmt && validMode mode
  | .vadd _ _ _ _ _ mode => validMode mode
  | .vsub _ _ _ _ _ mode => validMode mode
  | .vmul _ _ _ _ _ mode => validMode mode
  | .vfma _ _ _ _ _ _ mode => validMode mode
  | .vexp _ _ _ _ mode => validMode mode
  | .vlog _ _ _ _ mode => validMode mode
  | .vrcp _ _ _ _ mode => validMode mode
  | .vrsq _ _ _ _ mode => validMode mode
  | .vcmp _ qd _ _ cc _ => decide (cc.toNat ≤ 5 ∧ qd ≠ 0)
  | .vcvt _ _ _ fmt mode _ => plainFmt fmt && validMode mode
  | .seed _ _ _ _ pur _ _ => decide (pur.toNat < 0xC)
  | .stash _ _ enc _ g _ => decide (enc ≠ 3) && (decide (enc = 1) || decide (g = 0))
  | .unstash _ _ enc _ _ => decide (enc ≠ 3)
  | .jmp _ _ _ off => decide (off ≠ 0)
  | .gets _ _ sr => decide (sr.toNat ≤ 8)
  | .cmp _ qd _ _ cc => decide (cc.toNat ≤ 5 ∧ qd ≠ 0)
  | .tadj _ _ fld _ => decide (fld.toNat ≤ 5)
  | _ => true

end Sys2Proof
end

