-- ==== Sys2Proof/Machine/Flags.lean ====
section
/-! DEFINITION. Comparisons into predicate registers (R162, R167), the lane masks, and the guard for illegal encodings
(R172). The device has no arithmetic flag register; its flags are the status bits of the register blocks, set where
the rules name them. -/

namespace Sys2Proof.Machine

/-- A command with an illegal encoding stops with a fault: R172 gives it no effect at run time. -/
def guardWf (i : Instr) (s : State) : Out := if i.wellFormed then .next s else .fault .illegalEncoding

/-- The CMP conditions of R167. -/
def cmpCond (cc : BitVec 3) (a b : Word) : Bool :=
  match cc.toNat with
  | 0 => decide (a = b)
  | 1 => decide (a ≠ b)
  | 2 => a.slt b
  | 3 => a.ult b
  | 4 => a.sle b
  | _ => a.ule b

/-- The VCMP conditions of R162 on two lanes. -/
def vcmpCond (cc : BitVec 3) (a b : Lane) : Bool :=
  match cc.toNat with
  | 0 => (laneVal a).eqv (laneVal b)
  | 1 => (laneVal a).lt (laneVal b)
  | 2 => (laneVal a).lt (laneVal b) || (laneVal a).eqv (laneVal b)
  | 3 => (laneVal a).isNan || (laneVal b).isNan
  | 4 => a.ult b
  | _ => decide (a ≠ b)

/-- All 64 bits of a predicate register. -/
def allBits (b : Bool) : Word := if b then BitVec.allOnes 64 else 0

/-- The predicate whose bit i is `f i`. -/
def maskOf (f : Nat → Bool) : Word := BitVec.ofNat 64 ((List.range 64).foldl (fun n i => n + if f i then 2 ^ i else 0) 0)

end Sys2Proof.Machine
end

