-- ==== Sys2Proof/Machine/Time.lean ====
section
/-! DEFINITION. Local time and the edges of the undivided 3.6 GHz clock: letting time run to an instant, with the correction that a
slew spreads over the cycles that pass (R35, R36, R39, R43, R47; assumption 3). -/

namespace Sys2Proof.Machine

/-- Units of `tim.now` in one ns. -/
def unitNs : Nat := 1179648

/-- Length of a scene of `len` cycles in ns: len / 3.6 (R25). -/
def sceneNs (len : Nat) : Nat := len * 5 / 18

/-- The part of a slew that is made in the next `n` cycles (R35). -/
def Tim.slewOver (t : Tim) (n : Nat) : Int :=
  if n * t.slewRate.natAbs ≤ t.slewLeft.natAbs then n * t.slewRate else t.slewLeft

/-- The local fabric time of the `n`-th clock edge from the last one. -/
def Tim.edgeIn (t : Tim) (n : Nat) : Nat := (((t.edge + 327680 * n : Nat) : Int) + t.slewOver n).toNat

/-- Cycles in which the slew runs at its full rate. -/
def Tim.slewCycles (t : Tim) : Nat := t.slewLeft.natAbs / t.slewRate.natAbs

/-- How many clock edges after the last one lie at or before instant `u`. -/
def Tim.edgesTo (t : Tim) (u : Nat) : Nat :=
  if u < t.edge then 0
  else if u ≤ t.edgeIn t.slewCycles then (u - t.edge) / (327680 + t.slewRate).toNat
  else max t.slewCycles ((((u - t.edge : Nat) : Int) - t.slewLeft).toNat / 327680)

/-- The instant of the first clock edge at or after `u`. -/
def Tim.edgeFrom (t : Tim) (u : Nat) : Nat :=
  let n := t.edgesTo u
  if u ≤ t.edgeIn n then t.edgeIn n else t.edgeIn (n + 1)

/-- The work of the core that overran was not complete before this instant (R47). -/
def lateMoves (s : State) (ticks : Nat) : Option LateRun :=
  s.tim.late.map fun l =>
    if h : l.core < 96 then if (s.core ⟨l.core, h⟩).busy then { l with upTo := ticks } else l else l

/-- Local fabric time reaches instant `t`: the clock edges up to it pass, and the pulse on CUE_OUT ends (R35, R43, R47). -/
def runTo (t : Nat) (s : State) : State :=
  let n := s.tim.edgesTo t
  let tim := { s.tim with
    now := t, ticks := s.tim.ticks + n, edge := s.tim.edgeIn n, slewLeft := s.tim.slewLeft - s.tim.slewOver n
    late := lateMoves s (s.tim.ticks + n) }
  match s.tim.pulse with
  | some e => if e ≤ t then { s with tim := { tim with pulse := none }, out := s.out ++ [.pin 1 0] } else { s with tim := tim }
  | none => { s with tim := tim }

/-- Let local fabric time run to instant `t` if it has not reached it. -/
def advanceTo (t : Nat) (s : State) : State := if s.tim.now < t then runTo t s else s

/-- The instant at which `n` divided cycles have passed since the last cue (R36, R315). -/
def State.cueCycleAt (s : State) (n : Nat) : Nat := s.tim.edgeIn (s.tim.sceneTick + n * s.div - s.tim.ticks)

/-- The instant at which CYCLE reads `n`, 256 cycles and `n` more after the cue (R29, R123). -/
def State.cycleAt (s : State) (n : Nat) : Nat := s.cueCycleAt (256 + n)

end Sys2Proof.Machine
end

