-- ==== Sys2Proof/Machine/Wheel.lean ====
section
/-! DEFINITION. The stack wheel: turns, positions and their owners (R225 to R227, R231; assumption 69). -/

namespace Sys2Proof.Machine

/-- The cycle of a turn at which position `p` begins (R226). -/
def posAt (p : Nat) : Nat := 36 * p / 5

/-- The first turn of a scene whose position `p` begins at or after cycle `n` from the cue (R226): a turn has 720 cycles. -/
def turnFrom (p n : Nat) : Nat := if n ≤ posAt p then 0 else (n - posAt p + 719) / 720

/-- The cycle from the cue at which position `p` of turn `t` begins. -/
def turnCycle (t p : Nat) : Nat := 720 * t + posAt p

/-- A stack channel of the device: channel (a / 64) mod 128 of the stack that holds address `a` (R225). -/
def channelOf (a : Nat) : Nat := 128 * (a / stackSize) + a / 64 % 128

/-- The first turn from `t` on in which an owner has position 3, by the turn number mod 8 (R227). -/
def ownedFrom (owns : List Nat) (t : Nat) : Nat := t + ((List.range 8).find? fun i => owns.contains ((t + i) % 8)).getD 0

/-- The turns of the shard server, the request engine, the request server and the service bus (R227). -/
def shardTurns : List Nat := [0, 2, 4, 6]
/-- The turns of the request engine. -/
def engineTurns : List Nat := [1, 5]
/-- The turns of the request server. -/
def serverTurns : List Nat := [3]
/-- The turns of the service bus. -/
def busTurns : List Nat := [7]

/-- An owner of position 3 reaches the line at address `a`: in its first turn in which the line's channel is not yet used; time runs to
that position (R227). -/
def shareLine (owns : List Nat) (a : Nat) (s : State) : State :=
  let k := channelOf a
  let t := ownedFrom owns (max (turnFrom 3 s.sinceCue) (SMap.get 0 s.scrub.share k))
  advanceTo (s.cueCycleAt (turnCycle t 3)) { s with scrub := { s.scrub with share := SMap.set 0 s.scrub.share k (t + 1) } }

/-- An owner of position 3 reaches the lines of a stack range (R227). -/
def shareLines (owns : List Nat) (a n : Nat) (s : State) : State := (linesOf a n).foldl (fun s l => shareLine owns (64 * l) s) s

end Sys2Proof.Machine
end

