-- ==== Sys2Proof/Machine/DataMover.lean ====
section
/-! DEFINITION. The data mover: DMOV, DMOVI and DATA_MOVER_LINE (R133, R165, R219, R221, R223, R229, R232). -/

namespace Sys2Proof.Machine

/-- The core whose scratchpad holds an address. -/
def scrOwner (s : State) (a : Nat) : Option CoreId :=
  match placeOf s.nStacks a with
  | .scratch n _ => if h : n < 96 then some ⟨n, h⟩ else none
  | _ => none

/-- The kind of address fault of a data mover range, or none: any scratchpad outside its book area, or fitted stacks
(R219, R221). -/
def moverKind (s : State) (a n : Nat) : Option Nat :=
  match placeOf s.nStacks a with
  | .stack _ => if s.inStacks a n then none else some 1
  | .scratch k off =>
    match scrOwner s a with
    | none => some 1
    | some o =>
      if off + n ≤ (s.core o).bookOff then none
      else if (s.core o).bookSize = 0 then some 1 else if k < 96 then some 2 else some 1
  | .unmapped => some 1
  | _ => some 3

/-- Where a data mover range that starts at `a` meets its first address fault (R234): beyond the fitted stacks, in a book
area, or at its first byte. -/
def moverLine (s : State) (a : Nat) : Nat :=
  match placeOf s.nStacks a with
  | .stack _ => max a (stackSize * s.nStacks)
  | .scratch _ off => match scrOwner s a with
    | some o => max a (a - off + (s.core o).bookOff)
    | none => a
  | _ => a

/-- Both ends lie in stacks (R219). -/
def bothStacks (s : State) (a b : Nat) : Bool :=
  match placeOf s.nStacks a, placeOf s.nStacks b with
  | .stack _, .stack _ => true
  | _, _ => false

/-- A speculative DMOV may write the core's own wings area or a peer's (R133). -/
def specDest (s : State) (a n : Nat) : Bool :=
  match scrOwner s a with
  | some o => inWingsArea s o a n
  | none => false

/-- A line of the source is pending for a source region of the core that owns it (R139). -/
def sourcePending (s : State) (a n : Nat) : Bool :=
  match scrOwner s a with
  | some o => pendingSource s o a n
  | none => false

/-- Start a copy of `n` bytes (R165): the count, the ranges, the wings and the interlock, then the transfer. -/
def startMove (x : Ctx) (src dst n : Nat) (s : State) : Option State :=
  if n % 64 ≠ 0 ∨ n < 64 ∨ 2 ^ 26 < n then some (operandRange x.c x.bundle x.u.slot (inWings x s) s)
  else
    match moverKind s src n with
    | some k => some (addressFault x.c k x.bundle x.u.slot (inWings x s) (moverLine s src) s)
    | none =>
      if inWings x s && !specDest s dst n then some (specEscape x.c x.bundle x.u.slot s)
      else
        match moverKind s dst n with
        | some k => some (addressFault x.c k x.bundle x.u.slot (inWings x s) (moverLine s dst) s)
        | none =>
          if bothStacks s src dst then some (addressFault x.c 3 x.bundle x.u.slot (inWings x s) src s)
          else if mustWait x [(src, n)] s then none
          else
            let t : DmXfer := ⟨src, dst, n, 0, false, if inWings x s then x.region else none, x.bundle, x.seq, max x.at_ s.cycle + 257, 0⟩
            some (s.updCore x.c fun k => { k with dm := k.dm ++ [t] })

/-- DMOV (R165): bits 31:0 of GL bytes from PS to PD. -/
def execDmov (c : CoreId) (ps pd : BitVec 4) (gl : BitVec 6) (s : State) : Out :=
  .next (runUnit c .d (.dmov c ps pd gl) s fun x s =>
    startMove x (x.regs.pr ps).toNat (x.regs.pr pd).toNat ((x.regs.gr gl).toNat % 2 ^ 32) s)

/-- DMOVI (R165): (LEN + 1) × 64 bytes from PS to PD. -/
def execDmovi (c : CoreId) (ps pd : BitVec 4) (len : BitVec 16) (s : State) : Out :=
  .next (runUnit c .d (.dmovi c ps pd len) s fun x s =>
    startMove x (x.regs.pr ps).toNat (x.regs.pr pd).toNat ((len.toNat + 1) * 64) s)

/-- Count correctable words of a line read from a stack (R232). -/
def stackCorr (stack n : Nat) (s : State) : State :=
  if n = 0 then s
  else raiseMany 15 { unit := 2, index := stack } n
    ((s.addSat (Fld.MEM_CORR_COUNT stack) n).setFld (Fld.MEM_STATUS_CORR stack) 1)

/-- What a core holds of one source region, made where it is not there (R138). -/
def touchSource (dev core region : Nat) (f : SrcRegion → SrcRegion) (k : Core) : Core :=
  if k.sources.any fun r => decide (r.dev = dev ∧ r.core = core ∧ r.region = region) then
    { k with sources := k.sources.map fun r =>
        if r.dev = dev ∧ r.core = core ∧ r.region = region then f r else r }
  else { k with sources := k.sources ++ [f ⟨dev, core, region, none, []⟩] }

/-- Remember a peer that received speculative data of the open region (R138). -/
def noteSent (n : SentRec) (r : Region) : Region :=
  if r.sent.any fun t => decide (t.dev = n.dev ∧ t.core = n.core ∧ t.local_ = n.local_ ∧ t.res = n.res) then
    { r with sent := r.sent.map fun t =>
        if t.dev = n.dev ∧ t.core = n.core ∧ t.local_ = n.local_ ∧ t.res = n.res then { t with count := t.count + n.count } else t }
  else { r with sent := r.sent ++ [n] }

/-- A speculative line lands: pending for the core's own region, or at a peer for this source region (R135, R139). -/
def markMoved (c : CoreId) (region : Option Nat) (dst : Nat) (s : State) : State :=
  match region, scrOwner s dst with
  | some ord, some o =>
    if o = c then s.updCore c fun k => { k with pend := SMap.set none k.pend (dst / 64) (some .own) }
    else
      let dev := s.fld Fld.FAB_NODE_ID
      let s := s.updCore o fun k => touchSource dev c.val ord id
        { k with pend := SMap.set none k.pend (dst / 64) (some (.src dev c.val ord)) }
      s.updCore c fun k => { k with region := k.region.map (noteSent ⟨dev, o.val, true, 0, 1, 0, 0, 1⟩) }
  | _, _ => s

/-- WINGS_EARLY of a data mover's read: at the reading core (R139). -/
def moverEarly (c : CoreId) (t : DmXfer) (s : State) : State :=
  wingsEarly ⟨c, .d, (s.core c).regs, t.bundle, t.region, t.seq, 0⟩ s

/-- Read one 64-byte line for a data mover (R139, R223, R232): a line pending for a source region reads as zero; the error met, if any, is
raised and the line is lost. -/
def moverRead (c : CoreId) (t : DmXfer) (a : Nat) (s : State) : Option (List Byte) × State :=
  let bundle := t.bundle
  let w := stillOpen s c t.region
  if sourcePending s a 64 then (some (List.replicate 64 0#8), moverEarly c t s)
  else match placeOf s.nStacks a with
  | .stack k =>
    if s.uncorr a 64 then (none, stackUncorr c bundle w a k (s.uncorrInjected a 64) s)
    else (some (s.bytes a 64), stackCorr k (s.corrCount a 64) s)
  | _ =>
    if s.uncorr a 64 then (none, sramUncorr c bundle 3 w a (s.uncorrInjected a 64) s)
    else (some (s.bytes a 64), match scrOwner s a with | some o => sramCorr o (s.corrCount a 64) s | none => s)

/-! ### The paths and their times (R229) -/

/-- The compute die of an address: of a core's scratchpad, or of a stack (R14, R17). -/
def dieAt (s : State) (a : Nat) : Nat :=
  match placeOf s.nStacks a with
  | .scratch n _ => n / 48
  | _ => a / stackSize % 2

/-- The address lies in a stack. -/
def inStack (s : State) (a : Nat) : Bool := match placeOf s.nStacks a with | .stack _ => true | _ => false

/-- Cycles of a crossing of the bridge between two places (R228). -/
def crossing (s : State) (a b : Nat) : Nat := if dieAt s a = dieAt s b then 0 else 60

/-- When a line moves: the stack channel whose position it takes, if any, with the turn; the cycle from the cue at which it is taken; and
the cycle at which it is written. -/
structure LineTime where
  slot : Option (Nat × Nat)
  at_ : Nat
  lands : Nat
  deriving DecidableEq, Repr

/-- The first turn from `t` on in which a core's position on a channel is unused (R226). -/
def Core.freeTurn (k : Core) (t chan : Nat) : Nat := max t (SMap.get 0 k.wheel chan)

/-- The stack channels of the other die, in stack order and then channel order (R229). -/
def bridgeChannels (s : State) (c : CoreId) : List Nat :=
  (List.range (128 * s.nStacks)).filter fun n => decide (n / 128 % 2 ≠ c.val / 48)

/-- The first of the core's positions on the stacks of the other die that is unused from turn `t` on: channel and turn (R229). -/
def bridgeSlot (s : State) (c : CoreId) (t : Nat) : Nat × Nat :=
  (bridgeChannels s c).foldl (fun b n =>
    let u := (s.core c).freeTurn t n
    if b.2 ≤ u then b else (n, u)) (0, t + 2 ^ 64)

/-- The first turn in which core `c` can take a position at least `n` cycles after its transfer's start. -/
def turnAfter (c : CoreId) (start n : Nat) : Nat := turnFrom (4 + c.val) (start + n)

/-- A line on a stack path: taken in the core's position on the stack's channel (R229). -/
def stackLine (s : State) (c : CoreId) (stack lead land start : Nat) : LineTime :=
  let chan := channelOf stack
  let t := (s.core c).freeTurn (turnAfter c start lead) chan
  ⟨some (chan, t), turnCycle t (4 + c.val), turnCycle t (4 + c.val) + land⟩

/-- Cycles by which a line waits for its bank's write port behind the lines of its turn, `n` to a turn, in address order (R222, R229). -/
def bankWait (m n : Nat) : Nat := m % n / 32

/-- When line `m` of a copy from `a` to `b` moves (R229). -/
def lineTime (s : State) (c : CoreId) (start m a b : Nat) : LineTime :=
  if inStack s a then stackLine s c a 0 (400 + crossing s a b + bankWait m 128) start
  else if inStack s b then stackLine s c b (48 + crossing s a b) 7 start
  else if dieAt s a = dieAt s b then
    ⟨none, start + m / 4, start + m / 4 + 8 + (if scrOwner s a = some c ∧ scrOwner s b = some c then 0 else 24)⟩
  else
    let near (x : Nat) := if dieAt s x = c.val / 48 then 60 else 0
    let p := bridgeSlot s c (turnAfter c start (48 + near a))
    ⟨some p, turnCycle p.2 (4 + c.val), turnCycle p.2 (4 + c.val) + 400 + near b + bankWait m (64 * s.nStacks)⟩

/-- When the next line of a transfer moves. -/
def DmXfer.time (s : State) (c : CoreId) (t : DmXfer) : LineTime :=
  lineTime s c t.start (t.moved / 64) (t.src + t.moved) (t.dst + t.moved)

/-- A transfer has lines left on a stack channel, or on the bridge where the channel is none: an earlier one goes first (R229). -/
def DmXfer.holds (s : State) (t : DmXfer) (chan : Option Nat) : Bool :=
  let a := t.src + t.moved
  let b := t.dst + t.moved
  decide (t.moved < t.len) &&
    (match chan with
    | some n => (inStack s a || inStack s b) &&
        (let f := channelOf (if inStack s a then a else b)
         decide (n / 128 = f / 128 ∧ (n % 128 + 128 - f % 128) % 128 < (t.len - t.moved) / 64))
    | none => !inStack s a && !inStack s b && decide (dieAt s a ≠ dieAt s b))

/-- The channel on which the next line of a transfer must keep issue order: a stack path's, or the bridge. -/
def DmXfer.lane (s : State) (t : DmXfer) : Option (Option Nat) :=
  let a := t.src + t.moved
  let b := t.dst + t.moved
  if inStack s a then some (some (channelOf a))
  else if inStack s b then some (some (channelOf b))
  else if dieAt s a = dieAt s b then none else some none

/-- The next line of the `k`-th transfer is next on its path (R229). -/
def lineReady (s : State) (c : CoreId) (k : Nat) (t : DmXfer) : Bool :=
  decide (t.moved < t.len) && (match t.lane s with
    | none => true
    | some l => !(((s.core c).dm.take k).any fun u => u.holds s l))

/-- Some other line of a data mover is taken earlier, or at the same cycle by a lower core (R231). -/
def earlierLine (s : State) (c : CoreId) (at_ : Nat) : Bool :=
  allCores.any fun o => (s.core o).dm.zipIdx.any fun (t, i) =>
    lineReady s o i t && (let u := (t.time s o).at_; decide (u < at_ ∨ (u = at_ ∧ o.val < c.val)))

/-- A line has been taken: its position is used. -/
def useSlot (c : CoreId) (l : LineTime) (s : State) : State :=
  match l.slot with
  | some (n, t) => s.updCore c fun k => { k with wheel := SMap.set 0 k.wheel n (t + 1) }
  | none => s

/-- A transfer whose last line has been taken leaves the mover; its destination is readable once that line is written (R129, R229). -/
def Core.lineMoved (k : Core) (i : Nat) (t : DmXfer) : Core :=
  if t.len ≤ t.moved ∧ t.bad = false then
    { k with dm := k.dm.eraseIdx i, landing := k.landing ++ [⟨t.dst, t.len, t.lands, t.seq⟩] }
  else { k with dm := k.dm.set i t }

/-- DATA_MOVER_LINE (R226, R229, R231): at its wheel position or path slot, the next line of the core's `k`-th transfer is read and written
to its destination; the transfer completes with its last line. A line that a fault leaves unwritten completes no transfer (R173). -/
def execDataMoverLine (c : CoreId) (k : Nat) (s : State) : Out :=
  .next (if s.live then
    match (s.core c).dm[k]? with
    | none => s
    | some t =>
      let time := t.time s c
      if !lineReady s c k t || earlierLine s c time.at_ then s
      else
        let s0 := useSlot c time (advanceTo (s.cueCycleAt time.at_) s)
        let (line, s1) := moverRead c t (t.src + t.moved) s0
        let s2 := match line with
          | some bs => markMoved c t.region (t.dst + t.moved) (s1.store (t.dst + t.moved) bs)
          | none => s1
        s2.updCore c fun k' => k'.lineMoved k
          { t with moved := t.moved + 64, bad := t.bad || line.isNone, lands := max t.lands time.lands }
  else s)

end Sys2Proof.Machine
end

