-- ==== Sys2Proof/Machine/Free.lean ====
section
/-! DEFINITION. Drawing free values: each draw applies a body-less constant of Config to the state's counter and
advances the counter (assumption 5). -/

namespace Sys2Proof.Machine

/-- Draw one free word. -/
def drawWord (s : State) : BitVec 64 × State := (Config.freeWord s.freeCtr, { s with freeCtr := s.freeCtr + 1 })

/-- Draw `n` free bytes. -/
def drawBytes (n : Nat) (s : State) : List Byte × State :=
  ((List.range n).map fun i => Config.freeByte (s.freeCtr + i), { s with freeCtr := s.freeCtr + n })

end Sys2Proof.Machine
end

