-- ==== Sys2Proof/Machine/ColdFrame.lean ====
section
/-! DEFINITION. The Cold Frame: STASH, UNSTASH and the frame overflow region (R165, R176 to R187). -/

namespace Sys2Proof.Machine

/-- A plan entry; an unlisted entry is EMPTY (R178). -/
def Core.cfEntry (k : Core) (p : Nat) : CfEntry := SMap.get {} k.cf p

/-- Put a plan entry. -/
def Core.setCf (k : Core) (p : Nat) (e : CfEntry) : Core := { k with cf := SMap.set {} k.cf p e }

/-- Bytes of one group (R177). -/
def groupBytes (enc : BitVec 2) (ff : Bool) : Nat :=
  match enc.toNat with
  | 0 => 8
  | 1 => 16
  | _ => if ff then 128 else 64

/-- Groups of one 2 KiB page (R177). -/
def perPage (enc : BitVec 2) (ff : Bool) : Nat := 2048 / groupBytes enc ff

/-- The frame page a location holds. -/
def CfLoc.framePage : CfLoc → Option Nat
  | .frame p => some p
  | .spilling p _ => some p
  | .readback _ p => some p
  | _ => none

/-- The region page a location holds. -/
def CfLoc.regionPage : CfLoc → Option Nat
  | .ovf r => some r
  | .spilling _ r => some r
  | .readback r _ => some r
  | _ => none

/-- The frame page in which a location holds groups: a page that is still read back holds none (R195). -/
def CfLoc.frameHeld : CfLoc → Option Nat
  | .readback _ _ => none
  | l => l.framePage

/-- The region page in which a location holds groups: a page that is still spilled is not there yet (R195). -/
def CfLoc.regionHeld : CfLoc → Option Nat
  | .spilling _ _ => none
  | l => l.regionPage

/-- CFR_USE: frame pages and region pages that hold groups (R195). -/
def Core.pagesHeld (k : Core) : Nat × Nat :=
  ((k.cf.flatMap fun e => e.2.pages.filterMap CfLoc.frameHeld).length, (k.cf.flatMap fun e => e.2.pages.filterMap CfLoc.regionHeld).length)

/-- Frame pages in use. -/
def Core.framePages (k : Core) : List Nat := k.cf.flatMap fun e => e.2.pages.filterMap CfLoc.framePage

/-- Region pages in use. -/
def Core.regionPages (k : Core) : List Nat := k.cf.flatMap fun e => e.2.pages.filterMap CfLoc.regionPage

/-- The lowest number below `n` that a list does not hold. -/
def lowestFree (used : List Nat) : Nat → Nat → Option Nat
  | 0, _ => none
  | n + 1, i => if used.contains i then lowestFree used n (i + 1) else some i

/-- Free frame pages (R176). -/
def Core.freeFrame (k : Core) : Nat := 4096 - k.framePages.length

/-- A free frame page, the lowest (assumption 9). -/
def Core.pickFrame (k : Core) : Option Nat := lowestFree k.framePages 4096 0

/-- A free page of the frame overflow region, the lowest (R180, assumption 9). -/
def pickRegion (c : CoreId) (s : State) : Option Nat :=
  lowestFree (s.core c).regionPages (s.fld (Fld.CFR_OVF_SIZE_PAGES c)) 0

/-- Address of a frame page in the Cold Frame window (R176). -/
def framePageAddr (c : CoreId) (p : Nat) : Nat := cfBase c + p * 2048

/-- Address of a region page (R180). -/
def regionPageAddr (s : State) (c : CoreId) (r : Nat) : Nat := s.fld (Fld.CFR_OVF_BASE_BASE c) + r * 2048

/-- Copy a page with the states of its code words (R182): an uncorrectable error is carried with the page, at the 16-byte word that has
it; only a group in that word is bad (DESIGN CHOICE, assumption 71). -/
def copyPage (src dst : Nat) (s : State) : State :=
  let s' := s.write dst (s.bytes src 2048)
  { s' with ecc := (List.range 128).foldl (fun m i =>
      match SMap.get .ok s.ecc (src / 16 + i) with
      | .uncorr => SMap.set .ok m (dst / 16 + i) .uncorr
      | .injected => SMap.set .ok m (dst / 16 + i) .injected
      | _ => m) s'.ecc }

/-- Groups of a FILLING entry that no open region holds pending (R186). -/
def settledGroups (k : Core) (p : Nat) (e : CfEntry) : Nat :=
  match k.region with
  | some r => min e.n (SMap.get {} r.cfShadow p).n
  | none => e.n

/-- The oldest spillable page of an entry: a full page in the frame with no pending group (R181). -/
def spillablePage (k : Core) (p : Nat) (e : CfEntry) : Option (Nat × Nat) :=
  if e.st = .filling then
    e.pages.zipIdx.findSome? fun (l, i) =>
      match l with
      | .frame f => if (i + 1) * perPage e.enc e.ff ≤ settledGroups k p e then some (i, f) else none
      | _ => none
  else none

/-- The page a spill takes: of the lowest-numbered FILLING entry that has one (R181): entry, page index, frame page. -/
def spillTarget (k : Core) : Option (Nat × Nat × Nat) :=
  k.cf.findSome? fun (p, e) => (spillablePage k p e).map fun (i, f) => (p, i, f)

/-- Set the location of one page of an entry. -/
def setPage (c : CoreId) (p i : Nat) (l : CfLoc) (s : State) : State :=
  s.updCore c fun k => let e := k.cfEntry p; k.setCf p { e with pages := e.pages.set i l }

/-- Pages whose spill is in progress: they lie in the frame buffer (R230). -/
def Core.spillsRunning (k : Core) : Nat :=
  (k.cf.flatMap fun e => e.2.pages.filter fun l => match l with | .spilling _ _ => true | _ => false).length

/-- The move of a page to the region starts, where a page is spillable, the region has room and the frame buffer of 16 pages has room
(R181, R230). -/
def startSpill (c : CoreId) (s : State) : Option State :=
  if 16 ≤ (s.core c).spillsRunning then none
  else match spillTarget (s.core c), pickRegion c s with
    | some (p, i, f), some r => some (setPage c p i (.spilling f r) s)
    | _, _ => none

/-- The layer tag of a plan entry (R176). -/
def layerTag (k : Core) (p : Nat) : Nat := match k.book with | some b => (b.layers.getD p (0, 0)).1 | none => 0

/-- Evict the highest-numbered FILLING entry (R183): its pages are freed, the status and the event record it. -/
def evict (x : Ctx) (s : State) : State :=
  match ((s.core x.c).cf.filter fun e => decide (e.2.st = .filling)).getLast? with
  | none => s
  | some (p, e) =>
    let tag := layerTag (s.core x.c) p
    let s := s.updCore x.c fun k => k.setCf p { e with st := .evicted, n := 0, rd := 0, pages := [] }
    let s := ((((s.setFld (Fld.CFR_STATUS_FULL x.c) 1).addSat (Fld.CFR_EVICT_COUNT x.c) 1).setFld
      (Fld.CFR_EVICT_PLAN x.c) p).setFld (Fld.CFR_EVICT_TAG x.c) tag).setFld (Fld.CFR_EVICT_SCENE_SCENE x.c)
      (s.fld Fld.SCN_COUNT_SCENE)
    logEvent 0x42 (coreOrigin x.c x.bundle 3 false false) (leBytes 2 p ++ leBytes 2 tag) s

/-- SRAM_UNCORR of a Cold Frame word at `a` (R223, R234, R331). -/
def frameUncorr (x : Ctx) (a : Nat) (o : Origin) (s : State) : State :=
  raise 12 o [] ((spdInfo x.c 4 3 x.bundle (lineAt a) s).setFld (Fld.SPD_STATUS_UNCORR x.c) 1)

/-- COLD_FRAME_FAULT (R187): recorded; outside the wings the core stops, in the wings the region cannot confirm. A fault of kind 1 is also
SRAM_UNCORR, of the word at `a` (R331). -/
def coldFault (x : Ctx) (kind plan a : Nat) (injected : Bool) (s : State) : State :=
  let s := if s.bit (Fld.CFR_STATUS_FAULT x.c) then s
    else ((s.setFld (Fld.CFR_FAULT_INFO_KIND x.c) kind).setFld (Fld.CFR_FAULT_INFO_PLAN x.c) plan).setFld
      (Fld.CFR_FAULT_INFO_BUNDLE x.c) x.bundle
  let w := inWings x s
  let o := coreOrigin x.c x.bundle 3 injected w
  let s := raise 8 o (leBytes 2 plan ++ leBytes 1 kind) (s.setFld (Fld.CFR_STATUS_FAULT x.c) 1)
  let s := if kind = 1 then frameUncorr x a o s else s
  if w then regionFault x.c s else stopCore x.c s

/-- Make room for a STASH outside any region (R179, R181, R183): where only the reserve is free it waits for a spill that runs, or one
starts; where none can, entries are evicted until a page is free or the entry itself is evicted. -/
def makeRoom (x : Ctx) (plan : Nat) : Nat → State → State
  | 0, s => s
  | fuel + 1, s =>
    if decide (8 < (s.core x.c).freeFrame) || decide (0 < (s.core x.c).spillsRunning) then s
    else
      match startSpill x.c s with
      | some s => s
      | none =>
        let s := evict x s
        if ((s.core x.c).cfEntry plan).st = .evicted then s else makeRoom x plan fuel s

/-- A STASH opens its entry: an EMPTY one becomes FILLING (R178). -/
def openEntry (plan : Nat) (enc : BitVec 2) (ff : Bool) (k : Core) : Core :=
  let e := k.cfEntry plan
  k.setCf plan (if e.st = .empty then { e with st := .filling, enc := enc, ff := ff } else e)

/-- A STASH to the entry needs a page (R177). -/
def needsPage (k : Core) (plan : Nat) : Bool :=
  let e := k.cfEntry plan
  decide (e.st = .filling ∧ e.n % perPage e.enc e.ff = 0)

/-- Code of a lane under CODE2 (R165): below LO 0, LO to HI 1, above HI 2, NaN 3; where LO and HI leave none or two of
these true the spec gives no code, and it is the free byte's low bits. -/
def code2 (lo hi v : Lane) (free : Byte) : Nat :=
  let x := laneVal v
  let l := laneVal lo
  let h := laneVal hi
  if x.isNan then 3
  else
    let below := x.lt l
    let above := h.lt x
    let mid := (l.lt x || l.eqv x) && (x.lt h || x.eqv h)
    match below, mid, above with
    | true, false, false => 0
    | false, true, false => 1
    | false, false, true => 2
    | _, _, _ => free.toNat % 4

/-- Encode 64 lanes as one group (R165, R177): bytes, and whether an E4M3 lane overflowed. -/
def encodeGroup (enc : BitVec 2) (ff : Bool) (g : Word) (v : Lanes) (free : List Byte) : List Byte × Bool :=
  match enc.toNat with
  | 0 => (packBits1 1 ((List.range 64).map fun i => b2n ((Val.num false 0 0).lt (laneVal (lane v i)))), false)
  | 1 => (packBits1 2 ((List.range 64).map fun i =>
      code2 (g.setWidth 32) ((g >>> 32).setWidth 32) (lane v i) (free.getD i 0)), false)
  | _ =>
    let el := if ff then Elem.bf16 else Elem.e4m3
    let cs := (List.range 64).map fun i => convert el 0 (laneVal (lane v i))
    (cs.flatMap fun c => leBytes (el.width / 8) c.bits, !ff && cs.any (·.ovf))
where
  /-- Pack equal-width codes from bit 0 upwards. -/
  packBits1 (w : Nat) (es : List Nat) : List Byte :=
    leBytes (64 * w / 8) (es.zipIdx.foldl (fun n e => n + e.1 * 2 ^ (w * e.2)) 0)

/-- Write one group of an entry at its next place; `page` is the new page where the group opens one. -/
def putGroup (x : Ctx) (plan : Nat) (page : Option Nat) (bs : List Byte) (s : State) : State :=
  let e := (s.core x.c).cfEntry plan
  let pages := match page with | some p => e.pages ++ [CfLoc.frame p] | none => e.pages
  let pp := perPage e.enc e.ff
  let s := match (pages.getD (e.n / pp) .gone).framePage with
    | some p =>
      let a := framePageAddr x.c p + (e.n % pp) * groupBytes e.enc e.ff
      injectWord (Reg.CFR_INJECT x.c) 0 a (s.write a bs)
    | none => s
  s.updCore x.c fun k => k.setCf plan { e with n := e.n + 1, pages := pages }

/-- The Cold Frame as an instruction issued before the open region leaves it belongs to the region's shadow too (R135, R186). -/
def Core.olderFrame (x : Ctx) (k : Core) : Core :=
  { k with region := k.region.map fun r => if x.region = some r.ord then r else { r with cfShadow := k.cf } }

/-- The group of a STASH is encoded and stored (R165, R177). A group that is discarded is not stored, and sets no DM_OVF (DESIGN CHOICE,
assumption 70). -/
def storeGroup (x : Ctx) (v : BitVec 5) (g : BitVec 6) (plan : Nat) (page : Option Nat) (s : State) : State :=
  let e := (s.core x.c).cfEntry plan
  let (free, s) := if e.enc = 1 then drawBytes 64 s else ([], s)
  let (bs, ovf) := encodeGroup e.enc e.ff (x.regs.gr g) (x.regs.vr v) free
  putGroup x plan page bs (if ovf then s.setFld (Fld.VEC_STATUS_DM_OVF x.c) 1 else s)

/-- The effect of a STASH in the data mover (R177, R178, R183, R186). -/
def runStash (x : Ctx) (v : BitVec 5) (enc : BitVec 2) (ff : Bool) (g : BitVec 6) (plan : Nat) (s : State) : State :=
  match ((s.core x.c).cfEntry plan).st with
  | .evicted => s
  | .reading => coldFault x 3 plan 0 false s
  | _ =>
    let s := s.updCore x.c (openEntry plan enc ff)
    if !needsPage (s.core x.c) plan then storeGroup x v g plan none s
    else if 8 < (s.core x.c).freeFrame then storeGroup x v g plan (s.core x.c).pickFrame s
    else
      coldFault x 4 plan 0 false
        (if ((s.core x.c).cfEntry plan).n = 0 then s.updCore x.c fun k => k.setCf plan {} else s)

/-- Before a STASH outside the wings runs, room is made for its page (R179, R183). -/
def stashRoom (x : Ctx) (enc : BitVec 2) (ff : Bool) (plan : Nat) (s : State) : State :=
  if inWings x s then s
  else
    let s1 := s.updCore x.c (openEntry plan enc ff)
    if needsPage (s1.core x.c) plan then makeRoom x plan 8200 s1 else s

/-- A STASH outside the wings waits for a page that is moving out (R179). -/
def stashWaits (x : Ctx) (plan : Nat) (s : State) : Bool :=
  !inWings x s && needsPage (s.core x.c) plan && decide ((s.core x.c).freeFrame ≤ 8)

/-- STASH (R165, R177, R179): stores its group once it has a page. -/
def execStash (c : CoreId) (v : BitVec 5) (enc : BitVec 2) (ff : Bool) (g : BitVec 6) (plan : BitVec 12) (s : State) : Out :=
  let i := Instr.stash c v enc ff g plan
  let s' := match nextCtx s c .d i with
    | some x => stashRoom x enc ff plan.toNat s
    | none => s
  guardWf i (runUnit c .d i s' fun x s =>
    if stashWaits x plan.toNat s then none else some ((runStash x v enc ff g plan.toNat s).updCore c (Core.olderFrame x)))

/-- The next group's page lies in the region and a frame page is free: its read-back starts (R182). -/
def startReadback (c : CoreId) (p i : Nat) (s : State) : State :=
  match ((s.core c).cfEntry p).pages[i]?, (s.core c).pickFrame with
  | some (.ovf r), some f => setPage c p i (.readback r f) s
  | _, _ => s

/-- Free the pages of an entry whose last group has been returned, and empty an entry returned whole (R178). -/
def CfEntry.sweep (e : CfEntry) : CfEntry :=
  if e.st = .reading then
    if e.n ≤ e.rd then {}
    else { e with pages := e.pages.zipIdx.map fun (l, i) => if (i + 1) * perPage e.enc e.ff ≤ e.rd then .gone else l }
  else e

/-- Decode one group into lanes (R165, R177). -/
def decodeGroup (enc : BitVec 2) (ff : Bool) (bs : List Byte) : Lanes :=
  let n := leNat bs
  match enc.toNat with
  | 0 => lanes fun i => if n.testBit i then 0x3F800000#32 else 0#32
  | 1 => lanes fun i => match n / 4 ^ i % 4 with
    | 0 => 0#32 | 1 => 0x3F800000#32 | 2 => 0x40000000#32 | _ => 0x40400000#32
  | _ =>
    let el := if ff then Elem.bf16 else Elem.e4m3
    lanes fun i => toLane 0 (decodeElem el (n / 2 ^ (el.width * i) % 2 ^ el.width) none).val

/-- 64 canonical NaN lanes (R184, R187). -/
def nanLanes : Lanes := lanes fun _ => 0x7FC00000#32

/-- The effect of an UNSTASH (R178, R182, R184, R186, R187); none while its page is not in the frame. -/
def runUnstash (x : Ctx) (vd : BitVec 5) (enc : BitVec 2) (ff : Bool) (plan : Nat) (s : State) : Option State :=
  let e := (s.core x.c).cfEntry plan
  let give := fun (v : Lanes) (s : State) => wr x (fun k => k.setV vd v) s
  if e.st = .evicted then some (give nanLanes s)
  else if e.st = .empty ∨ e.n ≤ e.rd then some (coldFault x 2 plan 0 false (give nanLanes s))
  else
    let pp := perPage e.enc e.ff
    match e.pages[e.rd / pp]? with
    | some (.frame p) =>
      let gb := groupBytes e.enc e.ff
      let a := framePageAddr x.c p + (e.rd % pp) * gb
      let e' := { e with st := .reading, rd := e.rd + 1 }
      let s1 := s.updCore x.c fun k => k.setCf plan (if inWings x s then e' else e'.sweep)
      let s1 := if e.rd % pp = 0 then startReadback x.c plan (e.rd / pp + 1) s1 else s1
      if s.uncorr a gb then some (coldFault x 1 plan a (s.uncorrInjected a gb) (give nanLanes s1))
      else
        let n := s.corrCount a gb
        some (give (decodeGroup enc ff (s.bytes a gb)) (raiseMany 13 { unit := 1, index := x.c.val } n s1))
    | _ => none

/-- UNSTASH (R165, R178): starts the read-back its group needs, and returns the group once its page is in the frame. -/
def execUnstash (c : CoreId) (vd : BitVec 5) (enc : BitVec 2) (ff : Bool) (plan : BitVec 12) (s : State) : Out :=
  let i := Instr.unstash c vd enc ff plan
  let e := (s.core c).cfEntry plan.toNat
  let s' := if (nextCtx s c .d i).isSome && decide ((e.st = .filling ∨ e.st = .reading) ∧ e.rd < e.n) then
      startReadback c plan.toNat (e.rd / perPage e.enc e.ff) (s.updCore c fun k => k.setCf plan.toNat { e with st := .reading })
    else s
  guardWf i (runUnit c .d i s' fun x s => (runUnstash x vd enc ff plan.toNat s).map fun s => s.updCore c (Core.olderFrame x))

/-- FRAME_SPILL (R181, R230): while fewer than 24 pages beyond the reserve are free, the region has room and the frame
buffer of 16 pages has room, the move of the oldest spillable page starts. -/
def execFrameSpill (c : CoreId) (s : State) : Out :=
  .next (if s.live && decide ((s.core c).freeFrame < 32) then (startSpill c s).getD s else s)

/-- The first page of a core in a given kind of move: entry, index, location. -/
def firstMove (k : Core) (f : CfLoc → Bool) : Option (Nat × Nat × CfLoc) :=
  k.cf.findSome? fun (p, e) => (e.pages.zipIdx.find? fun q => f q.1).map fun (l, i) => (p, i, l)

/-- A page moves between the frame and the stacks at `a`: in the first turn from now in which the core's data mover has used none of the
positions it needs, time runs to that position (R226, R230). -/
def frameTurn (c : CoreId) (a : Nat) (s : State) : State :=
  let t := ((List.range 32).map fun i => (s.core c).freeTurn (turnFrom (4 + c.val) s.sinceCue) (channelOf (a + 64 * i))).foldl max 0
  advanceTo (s.cueCycleAt (turnCycle t (4 + c.val))) s

/-- The last uncorrectable line of a region page that is read back (R232, R235). -/
def readbackBad (a : Nat) (s0 s : State) : State :=
  match ((List.range 32).map fun i => a + 64 * i).reverse.find? fun l => s0.uncorr l 64 with
  | some l => (s.setFld (Fld.MEM_STATUS_UNCORR (a / stackSize)) 1).setFld (Fld.MEM_ERR_ADDR_ADDR (a / stackSize)) l
  | none => s

/-- FRAME_SPILL_DONE (R181): the page is in the region and its frame page is free. An armed injection takes the stack write (R337). -/
def execFrameSpillDone (c : CoreId) (s : State) : Out :=
  .next (if s.live then
    match firstMove (s.core c) fun l => match l with | .spilling _ _ => true | _ => false with
    | some (p, i, .spilling f r) =>
      let a := regionPageAddr s c r
      let s := frameTurn c a s
      setPage c p i (.ovf r) (storeCorr c (s.corrCount (framePageAddr c f) 2048)
        (injectWord (Reg.MEM_INJECT (a / stackSize)) 0 a (copyPage (framePageAddr c f) a s)))
    | _ => s
  else s)

/-- FRAME_READBACK_DONE (R182): the page lands in its frame page and its region page is free. Errors of the stack code are counted or
recorded, and an uncorrectable one is carried (R232); an armed injection takes the frame write (R337). -/
def execFrameReadbackDone (c : CoreId) (s : State) : Out :=
  .next (if s.live then
    match firstMove (s.core c) fun l => match l with | .readback _ _ => true | _ => false with
    | some (p, i, .readback r f) =>
      let a := regionPageAddr s c r
      let s := frameTurn c a s
      setPage c p i (.frame f) (stackCorr (a / stackSize) (s.corrCount a 2048) (readbackBad a s
        (injectWord (Reg.CFR_INJECT c) 0 (framePageAddr c f) (copyPage a (framePageAddr c f) s))))
    | _ => s
  else s)

end Sys2Proof.Machine
end

