-- ==== Sys2Proof/Machine/Philox.lean ====
section
/-! DEFINITION. The Seed Tray: Philox4x32-10 (R191) and its counter layout (R192). -/

namespace Sys2Proof.Machine

/-- One Philox round on the counter words, under the round key (R191). -/
def philoxRound (k0 k1 c0 c1 c2 c3 : BitVec 32) : BitVec 32 × BitVec 32 × BitVec 32 × BitVec 32 :=
  let p0 : BitVec 64 := 0xD2511F53#64 * c0.setWidth 64
  let p1 : BitVec 64 := 0xCD9E8D57#64 * c2.setWidth 64
  ((p1 >>> 32).setWidth 32 ^^^ c1 ^^^ k0, p1.setWidth 32, (p0 >>> 32).setWidth 32 ^^^ c3 ^^^ k1, p0.setWidth 32)

/-- `n` rounds, the key stepping before every round after the first (R191). -/
def philoxRounds : Nat → BitVec 32 → BitVec 32 → BitVec 32 × BitVec 32 × BitVec 32 × BitVec 32 →
    BitVec 32 × BitVec 32 × BitVec 32 × BitVec 32
  | 0, _, _, c => c
  | n + 1, k0, k1, (c0, c1, c2, c3) =>
    philoxRounds n (k0 + 0x9E3779B9#32) (k1 + 0xBB67AE85#32) (philoxRound k0 k1 c0 c1 c2 c3)

/-- The four output words, word 0 first (R191). -/
def philoxWords (key : BitVec 64) (ctr : BitVec 128) : BitVec 32 × BitVec 32 × BitVec 32 × BitVec 32 :=
  philoxRounds 10 (key.setWidth 32) ((key >>> 32).setWidth 32)
    (ctr.setWidth 32, (ctr >>> 32).setWidth 32, (ctr >>> 64).setWidth 32, (ctr >>> 96).setWidth 32)

/-- The 128-bit output, word 0 least significant (R191). -/
def philox (key : BitVec 64) (ctr : BitVec 128) : BitVec 128 :=
  let (c0, c1, c2, c3) := philoxWords key ctr
  c3 ++ c2 ++ c1 ++ c0

/-- Word `w` (0 to 3) of the output (R164). -/
def philoxWord (key : BitVec 64) (ctr : BitVec 128) (w : Nat) : BitVec 32 :=
  (philox key ctr >>> (32 * w)).setWidth 32

/-- The Seed Tray counter (R192): element index 48, extension 28, purpose 4, layer tag 16, step 32. -/
def seedCounter (elem : BitVec 48) (ext : BitVec 28) (purpose : BitVec 4) (tag : BitVec 16) (step : BitVec 32) :
    BitVec 128 := step ++ tag ++ purpose ++ ext ++ elem

/-- The random-stream subkey of a sequence slot: words 0 and 1 of a draw keyed by the job seed (R144). -/
def slotSubkey (seed : BitVec 64) (seqId : BitVec 48) : BitVec 64 :=
  (philox seed (seedCounter seqId 0 0xD 0 0)).setWidth 64

end Sys2Proof.Machine
end

