-- ==== Sys2Proof/Machine/Trellis.lean ====
section
/-! DEFINITION. The Trellis: accumulators and their images (R80, R83, R84, R95), the exact add (R82), stochastic rounding
to the floor (R87), special state (R90, R91), the residue companion (R93, R94), the intake of partials and promotion
(R85, R89, R103). -/

namespace Sys2Proof.Machine

/-- The value and tag of one accumulator (R83, R84). `a` is the signed image; COUNT, flags, RESIDUE, NAN_BLOCK. -/
structure Accum where
  a : Int
  count : Nat
  pinf : Bool
  ninf : Bool
  nan : Bool
  allneg0 : Bool
  residue : Nat
  nanBlock : Nat
  deriving DecidableEq, Repr

/-- The start state of an accumulation (R90, R97). -/
def Accum.start : Accum := ⟨0, 0, false, false, false, true, 0, 2 ^ 48 - 1⟩

/-- Bits of an image: 640 for F640, 160 for C160 (R80, R84). -/
def accBits (c160 : Bool) : Nat := if c160 then 160 else 640

/-- Wrap an exact value into the two's complement of an image. -/
def wrapAcc (bits : Nat) (x : Int) : Int :=
  let y := x % 2 ^ bits
  if y < 2 ^ (bits - 1) then y else y - 2 ^ bits

/-- A signed value times 2^k; a negative k divides exactly the values R81 names. -/
def scaleInt (g : Int) (k : Int) : Int := if 0 ≤ k then g * 2 ^ k.toNat else g / 2 ^ (-k).toNat

/-- Value bytes of an element (R80, R84). -/
def valBytes (c160 : Bool) : Nat := if c160 then 20 else 80
/-- Tag bytes of an element (R83, R84). -/
def tagBytes (c160 : Bool) : Nat := if c160 then 12 else 16
/-- Elements of one granule (R95). -/
def perGranule (c160 : Bool) : Nat := if c160 then 256 else 64
/-- Granules of a tile (R95). -/
def granulesOf (c160 : Bool) (rows cols : Nat) : Nat := rows * cols / perGranule c160

/-- Address of element `idx`'s value in the Trellis window (R95, R99): elements in row-major order (assumption 7). -/
def valAddr (c : CoreId) (granule : Nat) (c160 : Bool) (idx : Nat) : Nat :=
  trlBase c + granule * 5120 + idx * valBytes c160

/-- Address of element `idx`'s tag in the Trellis window (R95, R99). -/
def tagAddr (c : CoreId) (granule : Nat) (c160 : Bool) (idx : Nat) : Nat :=
  trlBase c + tagOff + (granule + idx / perGranule c160) * 3072 + (idx % perGranule c160) * tagBytes c160

/-- The value bytes of an accumulator, little-endian two's complement (R80, R84). -/
def Accum.valList (x : Accum) (c160 : Bool) : List Byte := leBytes (valBytes c160) (x.a % 2 ^ accBits c160).toNat

/-- The tag of an accumulator as a number (R83, R84). `fmt` is 0 F640, 1 C160, 2 promoted. -/
def Accum.tagNat (x : Accum) (fmt : Nat) : Nat :=
  if fmt = 1 then
    x.count % 2 ^ 25 + b2n x.pinf * 2 ^ 25 + b2n x.ninf * 2 ^ 26 + b2n x.nan * 2 ^ 27 + b2n x.allneg0 * 2 ^ 28 +
      fmt * 2 ^ 29 + x.residue * 2 ^ 33 + x.nanBlock * 2 ^ 48
  else
    x.count + b2n x.pinf * 2 ^ 48 + b2n x.ninf * 2 ^ 49 + b2n x.nan * 2 ^ 50 + b2n x.allneg0 * 2 ^ 51 + fmt * 2 ^ 52 +
      x.residue * 2 ^ 64 + x.nanBlock * 2 ^ 80

/-- An accumulator from its value and tag numbers (R83, R84). -/
def Accum.ofImage (c160 : Bool) (v t : Nat) : Accum :=
  let a := wrapAcc (accBits c160) v
  if c160 then
    ⟨a, t % 2 ^ 25, t.testBit 25, t.testBit 26, t.testBit 27, t.testBit 28, t / 2 ^ 33 % 2 ^ 13, t / 2 ^ 48 % 2 ^ 48⟩
  else ⟨a, t % 2 ^ 48, t.testBit 48, t.testBit 49, t.testBit 50, t.testBit 51, t / 2 ^ 64 % 2 ^ 13, t / 2 ^ 80 % 2 ^ 48⟩

/-- Read element `idx` of a tile from the stores. -/
def readAcc (s : State) (c : CoreId) (granule : Nat) (c160 : Bool) (idx : Nat) : Accum :=
  Accum.ofImage c160 (s.le (valAddr c granule c160 idx) (valBytes c160)) (s.le (tagAddr c granule c160 idx) (tagBytes c160))

/-- Write to the Trellis stores; a word in error keeps its error where the write adds to what it holds. -/
def writeTrl (c : CoreId) (keepErr : Bool) (a : Nat) (bs : List Byte) (s : State) : State :=
  let s' := s.write a bs
  let s' := if keepErr then
      { s' with ecc := (wordsOf a bs.length).foldl (fun m w =>
          match SMap.get .ok s.ecc w with
          | .uncorr => SMap.set .ok m w .uncorr
          | .injected => SMap.set .ok m w .injected
          | _ => m) s'.ecc }
    else s'
  injectWord (Reg.TRL_INJECT c) 1 a s'

/-- Write element `idx` of a tile to the stores. -/
def writeAcc (c : CoreId) (granule : Nat) (c160 keepErr : Bool) (idx : Nat) (x : Accum) (s : State) : State :=
  writeTrl c keepErr (tagAddr c granule c160 idx) (leBytes (tagBytes c160) (x.tagNat (b2n c160)))
    (writeTrl c keepErr (valAddr c granule c160 idx) (x.valList c160) s)

/-- The address ranges of a tile's values and tags. -/
def tileRanges (c : CoreId) (granule : Nat) (c160 : Bool) (n : Nat) : List (Nat × Nat) :=
  [(valAddr c granule c160 0, n * valBytes c160)] ++
    (List.range (n / perGranule c160)).map fun g =>
      (tagAddr c granule c160 (g * perGranule c160), perGranule c160 * tagBytes c160)

/-! ### The residue companion -/

/-- Add residues modulo 8,191; 0x1FFF equals 0 (R93). -/
def resAdd (a b : Nat) : Nat := (a + b) % 8191

/-- Align a residue by a shift of s bits: a left rotation by s mod 13 (R93). -/
def resRot (r : Nat) (s : Int) : Nat := r * 2 ^ (s % 13).toNat % 8191

/-- Fold of an exact image: its 13-bit chunks, less 2^bits mod 8,191 where the sign bit is set (R94). -/
def foldChunks : Nat → Nat → Nat
  | 0, _ => 0
  | n + 1, x => (x % 2 ^ 13 + foldChunks n (x / 2 ^ 13)) % 8191

/-- The residue checker's fold (R94): 50 chunks for F640, 13 for C160. -/
def accFold (c160 : Bool) (a : Int) : Nat :=
  let x := (a % 2 ^ accBits c160).toNat
  let f := foldChunks (if c160 then 13 else 50) x
  if a < 0 then (f + 8191 - (if c160 then 16 else 8)) % 8191 else f

/-! ### Adding a partial -/

/-- Flags, NAN_BLOCK and the sign state after a partial (R90). -/
def Accum.flagsOf (x : Accum) (p : PPartial) : Accum :=
  { x with
    pinf := x.pinf || p.pinf, ninf := x.ninf || p.ninf, nan := x.nan || p.nan, allneg0 := x.allneg0 && p.allneg0
    nanBlock := if p.nan then min x.nanBlock p.j else x.nanBlock }

/-- Exact addition of a partial's addends to an F640 image (R82, R93). -/
def Accum.addExact (x : Accum) (p : PPartial) : Accum :=
  { x.flagsOf p with
    a := wrapAcc 640 (p.parts.foldl (fun a t => a + scaleInt t.g (t.e + 300)) x.a)
    count := min (2 ^ 48 - 1) (x.count + p.count)
    residue := p.parts.foldl (fun r t => resAdd r (resRot t.res (t.e + 300))) x.residue }

/-- The exact group sum of a partial, its windows combined, at weight 2^E (R87 step 1). -/
def groupSum (p : PPartial) : Int × Int :=
  match p.parts with
  | [] => (0, 0)
  | t :: ts => ts.foldl (fun (g, e) u => let m := min e u.e; (g * 2 ^ (e - m).toNat + u.g * 2 ^ (u.e - m).toNat, m)) (t.g, t.e)

/-- A group's contribution to a floor 2^f: the multiple added, and its residue (R87, R93). -/
def srRound (g e f : Int) (res : Nat) (key : BitVec 64) (ctr : BitVec 128) : Int × Nat :=
  if f ≤ e then (g * 2 ^ (e - f).toNat, resRot res (e - f))
  else
    let k := (f - e).toNat
    let q := g / 2 ^ k
    let r := (g % 2 ^ k).toNat
    let t := if k ≤ 128 then r * 2 ^ (128 - k) else r / 2 ^ (k - 128)
    let up := decide ((philox key ctr).toNat < t)
    let rr := resRot (resAdd res (8191 - r % 8191)) (13 - (k % 13 : Nat))
    (q + (if up then 1 else 0), resAdd rr (b2n up))

/-- The Seed Tray counter of a C160 group (R87): step, the tile's tag, purpose 0xE, logical coordinates, group index. -/
def srCounter (s : State) (t : Tile) (p : PPartial) : BitVec 128 :=
  seedCounter (BitVec.ofNat 48 ((t.row0 + p.row) * 2 ^ 24 + (t.col0 + p.col))) (BitVec.ofNat 28 p.j) 0xE t.tag
    (BitVec.ofNat 32 (s.fld Fld.SCN_STEP_STEP))

/-- Residue of a partial's combined group sum at the weight of its lowest addend. -/
def groupRes (p : PPartial) (e : Int) : Nat := p.parts.foldl (fun r t => resAdd r (resRot t.res (t.e - e))) 0

/-- Addition of a partial to a C160 image (R87). -/
def Accum.addFloor (x : Accum) (s : State) (t : Tile) (p : PPartial) : Accum :=
  let (g, e) := groupSum p
  let (q, r) := srRound g e t.f (groupRes p e) s.seed (srCounter s t p)
  { x.flagsOf p with
    a := wrapAcc 160 (x.a + q)
    count := min (2 ^ 24) (x.count + p.count)
    residue := resAdd x.residue r }

/-- Addition of a partial of a promoted tile in its F640 container: the same rounded group at the floor (R103). -/
def Accum.addPromoted (x : Accum) (s : State) (t : Tile) (p : PPartial) : Accum :=
  let (g, e) := groupSum p
  let (q, r) := srRound g e t.f (groupRes p e) s.seed (srCounter s t p)
  { x.flagsOf p with
    a := wrapAcc 640 (x.a + scaleInt q (t.f + 300))
    count := min (2 ^ 48 - 1) (x.count + p.count)
    residue := resAdd x.residue (resRot r (t.f + 300)) }

/-! ### The tile table -/

/-- The tile in progress at a base granule (R156). -/
def Core.tile (k : Core) (granule : Nat) : Option Tile := k.tiles.find? fun t => decide (t.granule = granule)

/-- Put or replace a tile of the table, in the order of base granules. -/
def putTile (t : Tile) : List Tile → List Tile
  | [] => [t]
  | u :: us => if t.granule = u.granule then t :: us else if t.granule < u.granule then t :: u :: us else u :: putTile t us

/-- Change the tile at a base granule. -/
def Core.updTile (k : Core) (granule : Nat) (f : Tile → Tile) : Core :=
  { k with tiles := k.tiles.map fun t => if t.granule = granule then f t else t }

/-- Free the tile at a base granule. -/
def Core.freeTile (k : Core) (granule : Nat) : Core :=
  { k with tiles := k.tiles.filter fun t => decide (t.granule ≠ granule) }

/-- A new tile fits the store beside the others (R95). -/
def Core.tileFits (k : Core) (granule : Nat) (c160 : Bool) (rows cols : Nat) : Bool :=
  let n := granulesOf c160 rows cols
  let others := k.tiles.filter fun t => decide (t.granule ≠ granule)
  decide (granule + n ≤ 512 ∧ others.length < 64) &&
    others.all fun t => !overlaps (granule, n) (t.granule, granulesOf t.c160 t.rows t.cols)

/-! ### Repot events -/

/-- Log a REPOT event and the counters that name it (R200, R201, R215). Of the tiles with the lowest TAG, and of a tile's DRAINs, the
first to trigger gives ACC and FMT (DESIGN CHOICE, assumption 63). -/
def repotEvent (c : CoreId) (region : Nat) (ts : List Trig) (bundle slot : Nat) (wings : Bool) (s : State) : State :=
  match ts with
  | [] => s
  | t0 :: rest =>
    let low := rest.foldl (fun a b => if b.tag < a.tag then b else a) t0
    let kinds := ts.foldl (fun k t => k ||| 2 ^ t.kind) 0
    let fmt := ((ts.filter fun t => decide (t.tile = low.tile ∧ t.kind ≠ 0)).head?.map (·.fmt)).getD 0xF
    let tiles := (ts.map (·.tile)).eraseDups.length
    let s := (s.setFld (Fld.TRL_REPOT_LAST_TAG c) low.tag).setFld (Fld.TRL_REPOT_LAST_KINDS c) kinds
    logEvent 0x41 (coreOrigin c bundle slot false wings)
      (leBytes 2 low.tag ++ leBytes 2 region ++ leBytes 1 kinds ++ leBytes 1 (b2n low.c160) ++ leBytes 1 fmt ++
        leBytes 2 (min tiles 65535)) s

/-- A Repot trigger: kept for the region's CONFIRM in the wings, an unguarded REPOT event otherwise (R105, R201). -/
def repotTrigger (c : CoreId) (region : Option Nat) (ts : List Trig) (bundle slot : Nat) (s : State) : State :=
  if ts = [] then s
  else
    match (s.core c).region with
    | some r =>
      if region = some r.ord then
        s.updCore c fun k => { k with region := k.region.map fun r => { r with trigs := r.trigs ++ ts } }
      else repotEvent c 0xFFFF ts bundle slot false (s.addSat (Fld.TRL_REPOT_UNGUARDED c) 1)
    | none => repotEvent c 0xFFFF ts bundle slot false (s.addSat (Fld.TRL_REPOT_UNGUARDED c) 1)

/-! ### The intake -/

/-- A window overflow of a partial of the tile (R85, R105): noted on the tile, and a Repot trigger. -/
def overflowMet (c : CoreId) (t : Tile) (p : PPartial) (s : State) : State :=
  repotTrigger c p.region [⟨t.id, t.tag.toNat, 0, t.c160, 0xF⟩] p.bundle 0
    (s.updCore c fun k => k.updTile t.granule fun t => { t with wovf := true })

/-- Promote a tile (R103 step 1): the mark, the status bits, the event, and the Repot trigger of an overflow. -/
def promote (c : CoreId) (t : Tile) (p : PPartial) (kind : Nat) (s : State) : State :=
  let s := s.updCore c fun k => k.updTile t.granule fun t => { t with promoted := true }
  let s := (s.setFld (Fld.TRL_STATUS_PROMOTE c) 1).addSat (Fld.TRL_PROMO_COUNT c) 1
  let s := if kind = 1 then s.setFld (Fld.TRL_STATUS_WOVF c) 1 else s
  let w := match (s.core c).region with
    | some r => decide (p.region = some r.ord)
    | none => false
  let s := logEvent 0x40 (coreOrigin c p.bundle 0 false w)
    (leBytes 2 t.tag.toNat ++ leBytes 1 p.treg ++ leBytes 1 kind ++ leBytes 2 t.granule) s
  if kind = 1 then overflowMet c t p s else s

/-- A finite nonzero product of the partial overflows the tile's window (R85). -/
def overflows (t : Tile) (p : PPartial) : Bool := match p.maxExp with | some m => decide (t.f + 134 ≤ m) | none => false

/-- The trigger a partial carries for a C160 accumulator (R85, R89): 1 overflow, 0 length. -/
def triggerOf (t : Tile) (x : Accum) (p : PPartial) : Option Nat :=
  if overflows t p then some 1 else if 2 ^ 24 < x.count + p.count then some 0 else none

/-- The partial whose trigger promotes the tile, and its kind (R103): an overflow that arises in the same cycle as a length
trigger goes before it. -/
def promoter (k : Core) (t : Tile) (p : PPartial) (kind : Nat) : PPartial × Nat :=
  if kind = 1 then (p, 1)
  else match k.inflight.find? fun q => decide (q.granule = t.granule ∧ q.at_ = p.at_) && overflows t q with
    | some q => (q, 1)
    | none => (p, 0)

/-- The triggers of a partial of a C160 tile (R85, R89, R103, R105): the first promotes the tile; an overflow after a length trigger is
still a Repot trigger. -/
def c160Triggers (c : CoreId) (t : Tile) (x : Accum) (p : PPartial) (s : State) : State :=
  if t.promoted then (if !t.wovf && overflows t p then overflowMet c t p s else s)
  else match triggerOf t x p with
    | some k => let y := promoter (s.core c) t p k; promote c t y.1 y.2 s
    | none => s

/-- Add one partial to its accumulator in the store (R82, R87, R103). -/
def absorb (c : CoreId) (t : Tile) (p : PPartial) (s : State) : State :=
  let idx := p.row * t.cols + p.col
  let x := readAcc s c t.granule t.c160 idx
  if t.c160 then
    c160Triggers c t x p (writeAcc c t.granule true true idx (x.addFloor s t p) s)
  else
    let s' := writeAcc c t.granule false true idx (x.addExact p) s
    if 2 ^ 48 - 1 < x.count + p.count then s'.setFld (Fld.TRL_STATUS_CNT_SAT c) 1 else s'

/-- PARTIAL_INTAKE (R82): the oldest partial of the core's pipeline reaches the store, in the cycle that R107 fixes for it; a partial
of a tile that has been released is discarded (R98, R137), and the in-flight count falls with an instruction's last partial (R107). -/
def execPartialIntake (c : CoreId) (s : State) : Out :=
  .next (if s.live then
    match (s.core c).inflight with
    | [] => s
    | p :: ps =>
      let s := (advanceTo (s.cycleAt p.at_) s).updCore c fun k => { k with inflight := ps }
      match (s.core c).tile p.granule with
      | none => s
      | some t =>
        let s := absorb c t p s
        if p.last then s.updCore c fun k => k.updTile t.granule fun t => { t with inflight := t.inflight - 1 } else s
  else s)

end Sys2Proof.Machine
end

