-- ==== Sys2Proof/Machine/Mesh.lean ====
section
/-! DEFINITION. The M slot: MMA and MMAT (R75 to R78, R154, R158, R174), and the exact reduction path VXSUM and VXACC of
the T slot (R161). -/

namespace Sys2Proof.Machine

/-- One operand element: its decoded form and its element exponent without the block exponent (R77). -/
structure OpElem where
  d : Dec
  e0 : Int
  deriving DecidableEq, Repr

/-- Read operand element (i, k) (R57, R155). -/
def operandElem (s : State) (d : Desc) (el : Elem) (across : Bool) (i k : Nat) : OpElem :=
  let (line, pos) := d.elemBit el across i k
  let bits := s.bitsAt line pos el.width
  let n := fmtBlock d.fmt
  if n = 0 then let x := decodeElem el bits none; ⟨x, x.e⟩
  else
    let bx := (s.byte (d.expAddr n across i k)).toNat
    ⟨decodeElem el bits (some bx), (decodeElem el bits none).e⟩

/-- Weight of a block exponent: 0 for a plain operand (R54). -/
def blockWeight (s : State) (d : Desc) (across : Bool) (i k : Nat) : Int :=
  let n := fmtBlock d.fmt
  if n = 0 then 0 else ((s.byte (d.expAddr n across i k)).toNat : Int) - 127

/-- What a group's terms add up to before alignment: counts, flags, products with their element and full exponents. -/
structure GroupAcc where
  count : Nat := 0
  pinf : Bool := false
  ninf : Bool := false
  nan : Bool := false
  allneg0 : Bool := true
  maxExp : Option Int := none
  prods : List (Int × Int × Int) := []
  deriving DecidableEq, Repr

/-- Add the product of two operand elements as one term (R78, R90). -/
def GroupAcc.term (g : GroupAcc) (a b : OpElem) : GroupAcc :=
  let sgn := a.d.s != b.d.s
  let g := { g with count := g.count + 1 }
  if decide (a.d.cls = .nan) || decide (b.d.cls = .nan) ||
      (decide (a.d.cls = .zero) && decide (b.d.cls = .inf)) || (decide (a.d.cls = .inf) && decide (b.d.cls = .zero)) then
    { g with nan := true, allneg0 := false }
  else if decide (a.d.cls = .inf) || decide (b.d.cls = .inf) then
    if sgn then { g with ninf := true, allneg0 := false } else { g with pinf := true, allneg0 := false }
  else if decide (a.d.cls = .zero) || decide (b.d.cls = .zero) then { g with allneg0 := g.allneg0 && sgn }
  else
    let v : Int := (a.d.m * b.d.m : Nat)
    let ex := a.d.e + b.d.e
    { g with
      allneg0 := false
      maxExp := some (match g.maxExp with | some m => max m ex | none => ex)
      prods := g.prods ++ [(if sgn then -v else v, a.e0 + b.e0, ex)] }

/-- One addend: an integer sum at weight 2^e with its residue modulo 8,191 (R78, R93). -/
def mkPart (g e : Int) : PPart := ⟨g, e, (g % 8191).toNat⟩

/-- Sum of products whose element exponents are ea + eb, in units of 2^l: each is m_a × m_b × 2^(ea + eb − 46). -/
def windowSum (l : Int) (ps : List (Int × Int × Int)) : Int := (ps.map fun p => scaleInt p.1 (p.2.1 - 46 - l)).foldl (· + ·) 0

/-- The pair is a split pair: FP8 E5M2 with FP8 E5M2 or FP8 E4M3 (R77). -/
def splitPair (a b : Elem) : Bool :=
  decide ((a = .e5m2 ∧ b = .e5m2) ∨ (a = .e5m2 ∧ b = .e4m3) ∨ (a = .e4m3 ∧ b = .e5m2))

/-- The element is BF16 or FP32 (R77, R86). -/
def wideElem (a : Elem) : Bool := decide (a = .fp32 ∨ a = .bf16)

/-- The addends of a group's partial (R77): a block partial or the two windows of a split partial, in units of the grid
2^L times the block exponents `w`. -/
def groupParts (ea eb : Elem) (w : Int) (g : GroupAcc) : List PPart :=
  let l := ea.minExp + eb.minExp
  if splitPair ea eb then
    let lo := g.prods.filter fun p => decide (p.2.1 < l + 32)
    let hi := g.prods.filter fun p => decide (l + 32 ≤ p.2.1)
    [mkPart (windowSum l lo) (l + w), mkPart (windowSum (l + 24) hi) (l + 24 + w)]
  else [mkPart (windowSum l g.prods) (l + w)]

/-- Group length g (R59, R75). -/
def groupLen (a b : Desc) : Nat := if fmtBlock a.fmt = 16 ∨ fmtBlock b.fmt = 16 then 16 else 32

/-- Descriptors and orientation of one MMA or MMAT. -/
structure MmaOp where
  acc : Desc
  a : Desc
  b : Desc
  ta : Bool
  tb : Bool
  treg : Nat
  bundle : Nat
  region : Option Nat
  deriving DecidableEq, Repr

/-! ### The mesh in time (R58, R107, R159) -/

/-- Products per cell in 16 cycles (R58). -/
def rate16 (fmt : BitVec 4) : Nat :=
  match fmt.toNat with
  | 0 => 1
  | 1 => 4
  | k => if 8 ≤ k then 32 else 16

/-- Sixteen-row blocks of an accumulator that hold a row which is not frozen (R159). -/
def activeBlocks (d : Desc) : Nat :=
  ((List.range (d.nRows / 16)).filter fun j => (List.range 16).any fun i => !d.frozen (16 * j + i)).length

/-- The fold φ of an MMA (R159). -/
def foldOf (acc : Desc) : Nat := ([8, 4, 2].find? fun k => decide (k * activeBlocks acc ≤ acc.nRows / 16)).getD 1

/-- x / y, rounded up. -/
def ceilDiv (x y : Nat) : Nat := (x + y - 1) / y

/-- Products per cell in 16 cycles for a pair of operands (R58). -/
def pairRate (a b : Desc) : Nat := min (rate16 a.fmt) (rate16 b.fmt)

/-- The cycles D for which an MMA or MMAT occupies the mesh (R159). -/
def meshCycles (acc a b : Desc) : Nat :=
  if activeBlocks acc = 0 then 1
  else if foldOf acc = 1 then ceilDiv (16 * a.kLen) (pairRate a b)
  else ceilDiv (ceilDiv a.kLen (groupLen a b)) (foldOf acc) * ceilDiv (16 * groupLen a b) (pairRate a b)

/-- The multiply is folded: the mesh rows of inactive blocks take whole groups (R159). -/
def folded (acc : Desc) : Bool := decide (activeBlocks acc ≠ 0 ∧ 1 < foldOf acc)

/-- The cycle after the last partial of an MMA issued at `c` is in the store (R107, R159). -/
def lastPartial (acc a b : Desc) (c : Nat) : Nat :=
  c + 3 + (if folded acc then 127 else acc.nRows - 1) + (acc.nCols - 1) + meshCycles acc a b + 14

/-- A run of reduction elements that a cell delivers together: its group, and its elements: a whole group, or one element of a group
where an operand is BF16 or FP32 (R75, R77). -/
structure Run where
  q : Nat
  ks : List Nat
  deriving DecidableEq, Repr

/-- The cycle, counted from the first product of its cell, in which a run closes (R107): its last product is formed. Under a fold
R159 says only that the mesh rows take whole groups; they are dealt in turn (DESIGN CHOICE, assumption 64). -/
def runCloses (acc a b : Desc) (r : Run) : Nat :=
  if folded acc then
    (r.q / foldOf acc) * ceilDiv (16 * groupLen a b) (pairRate a b) +
      ceilDiv (16 * (((r.ks.getLast?).getD 0) % groupLen a b + 1)) (pairRate a b) - 1
  else ceilDiv (16 * ((r.ks.getLast?).getD 0 + 1)) (pairRate a b) - 1

/-- A partial of element (i, j) with a group's state and addends. -/
def mkPartial (o : MmaOp) (i j blk at_ : Nat) (g : GroupAcc) (parts : List PPart) : PPartial :=
  { granule := o.acc.granule, row := i, col := j, j := blk, count := g.count, pinf := g.pinf, ninf := g.ninf,
    nan := g.nan, allneg0 := g.allneg0, maxExp := g.maxExp, parts := parts, last := false, treg := o.treg,
    bundle := o.bundle, region := o.region, at_ := at_ }

/-- The partial of output element (i, j) for one run (R75 to R78): a block or split partial, or a product partial where an operand is
BF16 or FP32. -/
def runPartial (s : State) (o : MmaOp) (ea eb : Elem) (i j at_ : Nat) (r : Run) : PPartial :=
  let g := groupLen o.a o.b
  let ga := r.ks.foldl (fun a k => a.term (operandElem s o.a ea o.ta i k) (operandElem s o.b eb o.tb j k)) ({} : GroupAcc)
  mkPartial o i j (o.a.k0.toNat / g + r.q) at_ ga
    (if wideElem ea || wideElem eb then ga.prods.map fun p => mkPart p.1 (p.2.2 - 46)
    else groupParts ea eb (blockWeight s o.a o.ta i (r.q * g) + blockWeight s o.b o.tb j (r.q * g)) ga)

/-- Groups of the instruction's reduction (R75). -/
def groupCount (o : MmaOp) : Nat := (o.a.kLen + groupLen o.a o.b - 1) / groupLen o.a o.b

/-- The runs of the instruction's reduction, in logical order (R75, R77). -/
def mmaRuns (o : MmaOp) (ea eb : Elem) : List Run :=
  let g := groupLen o.a o.b
  (List.range (groupCount o)).flatMap fun q =>
    let ks := (List.range g).filterMap fun d => if q * g + d < o.a.kLen then some (q * g + d) else none
    if wideElem ea || wideElem eb then ks.map fun k => ⟨q, [k]⟩ else [⟨q, ks⟩]

/-- The partials of one element, in logical order. -/
def elemPartials (s : State) (o : MmaOp) (i j : Nat) : List PPartial :=
  match fmtElem o.a.fmt, fmtElem o.b.fmt with
  | some ea, some eb => (mmaRuns o ea eb).map fun r => runPartial s o ea eb i j 0 r
  | _, _ => []

/-- Mark the last partial of an instruction (R107). -/
def markLast : List PPartial → List PPartial
  | [] => []
  | [p] => [{ p with last := true }]
  | p :: q :: ps => p :: markLast (q :: ps)

/-- The row of the mesh in which the products of row `i` are formed: under a fold R107 counts with 127 (R159). -/
def meshRow (acc : Desc) (i : Nat) : Nat := if folded acc then 127 else i

/-- A line in error gives a term of element (i, j) of the run nothing (R223): no partial is formed of it (DEDUCED, assumption 65). -/
def runLost (o : MmaOp) (ea eb : Elem) (lost : List Nat) (i j : Nat) (r : Run) : Bool :=
  !lost.isEmpty && r.ks.any fun k =>
    let gone (d : Desc) (el : Elem) (across : Bool) (i : Nat) :=
      let (line, pos) := d.elemBit el across i k
      lost.contains ((line + pos / 8) / 64) || lost.contains ((line + (pos + el.width - 1) / 8) / 64) ||
        (decide (fmtBlock d.fmt ≠ 0) && lost.contains (d.expAddr (fmtBlock d.fmt) across i k / 64))
    gone o.a ea o.ta i || gone o.b eb o.tb j

/-- Every partial of an MMA or MMAT whose issue counts as CYCLE `start`: the rows that are not frozen (R154, R189), in the order in
which they reach the store (R107); partials of one cycle by run and row (DESIGN CHOICE, assumption 63). -/
def mmaPartials (s : State) (o : MmaOp) (lost : List Nat) (start : Nat) : List PPartial :=
  match fmtElem o.a.fmt, fmtElem o.b.fmt with
  | some ea, some eb =>
    let runs := (mmaRuns o ea eb).map fun r => (r, runCloses o.acc o.a o.b r)
    let most := (runs.map (·.2)).foldl max 0 + (if folded o.acc then 127 else o.acc.nRows) + o.acc.nCols
    markLast ((List.range most).flatMap fun t => runs.flatMap fun (r, c) =>
      (List.range o.acc.nRows).filterMap fun i =>
        let j := t - c - meshRow o.acc i
        if o.acc.frozen i || decide (t < c + meshRow o.acc i ∨ o.acc.nCols ≤ j) || runLost o ea eb lost i j r then none
        else some (runPartial s o ea eb i j (start + 3 + t + 14) r))
  | _, _ => []

/-- The role, shape and format rules of R158 and R86, and the limits at issue of R158. -/
def mmaLegal (o : MmaOp) : Bool :=
  match fmtElem o.a.fmt, fmtElem o.b.fmt with
  | some ea, some eb =>
    o.acc.isAcc && o.a.isOperand && o.b.isOperand && decide (o.a.rows = o.acc.rows) && decide (o.b.rows = o.acc.cols) &&
      decide (o.a.klen = o.b.klen) && decide (o.a.bdim = o.ta) && decide (o.b.bdim = o.tb) &&
      decide (o.a.k0 = o.b.k0) &&
      (!o.acc.acc || (!wideElem ea && !wideElem eb &&
        decide ((o.a.k0.toNat + o.a.kLen - 1) / groupLen o.a o.b < 2 ^ 28)))
  | _, _ => false

/-- The tile rule of R97 for an overwrite or an add, with the store limits of R95. -/
def tileLegal (k : Core) (acc : Desc) (ovw : Bool) : Bool :=
  match k.tile acc.granule with
  | none => ovw && k.tileFits acc.granule acc.acc acc.nRows acc.nCols
  | some t =>
    if ovw then t.drained && k.tileFits acc.granule acc.acc acc.nRows acc.nCols
    else decide (t.c160 = acc.acc ∧ t.rows = acc.nRows ∧ t.cols = acc.nCols ∧ (acc.acc → t.f = acc.floor))

/-- In the wings an MMA or MMAT adds only to a tile that its region started (R98). -/
def tileOwned (x : Ctx) (acc : Desc) (ovw : Bool) (s : State) : Bool :=
  ovw || !inWings x s || (match (s.core x.c).tile acc.granule with | some t => decide (t.region = x.region) | none => true)

/-- The base granule of the tile that an M-slot, T-slot or XRED instruction works on. -/
def instrTile (r : Regs) : Instr → Option Nat
  | .mma _ acc .. | .mmat _ acc .. | .drain _ acc .. | .spill _ acc | .fill _ acc | .vxsum _ acc .. | .vxacc _ acc ..
  | .xred _ _ acc => (r.tr acc).map (·.granule)
  | _ => none

/-- An instruction earlier in issue order than `x` that works on the tile at `granule` waits in the queue of another unit: one core's
instructions on one tile act in issue order (DEDUCED, assumption 62). -/
def queuedOnTile (x : Ctx) (granule : Nat) (s : State) : Bool :=
  let k := s.core x.c
  (k.uM ++ k.uT ++ k.uF).any fun e => decide (e.seq < x.seq ∧ instrTile e.regs e.instr = some granule)

/-- Such an instruction waits in a queue or at the fence, or is an XRED that has not completed: a multiply waits for it
(assumption 62). -/
def earlierOnTile (x : Ctx) (granule : Nat) (s : State) : Bool :=
  let k := s.core x.c
  queuedOnTile x granule s ||
    k.tWait.any (fun w => decide (w.entry.seq < x.seq ∧ instrTile w.entry.regs w.entry.instr = some granule)) ||
    k.port.any fun w => decide (w.seq < x.seq ∧ instrTile w.regs w.instr = some granule)

/-- The tile an overwrite starts (R97, R102, R156). -/
def newTile (acc : Desc) (id : Nat) (region : Option Nat) : Tile :=
  { id := id, granule := acc.granule, rows := acc.nRows, cols := acc.nCols, c160 := acc.acc, f := acc.floor, tag := acc.tag,
    row0 := acc.row0.toNat, col0 := acc.col0.toNat, inflight := 0, settled := 0, promoted := false, wovf := false, drained := false,
    fill := .overwrite, fillAddr := 0, recs := [], region := region }

/-- Give every accumulator of a tile the start state (R90, R97). -/
def startTile (c : CoreId) (t : Tile) (s : State) : State :=
  (List.range (t.rows * t.cols)).foldl (fun s i => writeAcc c t.granule t.c160 false i Accum.start s) s

/-- Open the accumulation an instruction names: an overwrite starts the tile (R97). -/
def openTile (x : Ctx) (acc : Desc) (ovw : Bool) (s : State) : State :=
  if ovw then
    let t := newTile acc (s.core x.c).tileOrd (if inWings x s then x.region else none)
    (startTile x.c t s).updCore x.c fun k => { k with tiles := putTile t k.tiles, tileOrd := k.tileOrd + 1 }
  else s

/-- Send partials into the pipeline: the tile's in-flight count rises while there are any; from CYCLE `after` they are all in the
store (R107). -/
def sendPartials (c : CoreId) (granule : Nat) (ps : List PPartial) (after : Nat) (s : State) : State :=
  if ps = [] then s
  else s.updCore c fun k =>
    { k.updTile granule fun t => { t with inflight := t.inflight + 1, settled := max t.settled after } with
      inflight := k.inflight ++ ps }

/-- The CYCLE from which an M-slot instruction's timing counts: its issue, or the cycle at which the mesh is free (R118, R159). -/
def meshStart (x : Ctx) (k : Core) : Nat := max x.at_ k.mFree

/-- The effect of an MMA or MMAT once its registers are known (R97, R98, R102, R158, R159). -/
def runMma (x : Ctx) (o : MmaOp) (ovw : Bool) (ts : Option Bool) (s : State) : Option State :=
  if earlierOnTile x o.acc.granule s then none
  else if mmaLegal o && tileLegal (s.core x.c) o.acc ovw && tileOwned x o.acc ovw s then
    (readScr x (o.a.operandRanges o.ta ++ o.b.operandRanges o.tb) s).bind fun view lost s =>
      let start := meshStart x (s.core x.c)
      let s := (openTile x o.acc ovw s).updCore x.c fun k =>
        { k.updTile o.acc.granule fun t =>
            { t with drained := false, recs := t.recs ++ [⟨o.a, o.b, o.acc, ts, o.treg, o.bundle⟩] } with
          mFree := start + meshCycles o.acc o.a o.b }
      some (sendPartials x.c o.acc.granule (mmaPartials view o lost start) (lastPartial o.acc o.a o.b start) s)
  else some (operandRange x.c x.bundle x.u.slot (inWings x s) s)

/-- MMA or MMAT from its registers: a t register that holds no descriptor breaks R158. -/
def startMma (c : CoreId) (i : Instr) (acc a b : BitVec 4) (ovw : Bool) (ts : Option Bool) (s : State) : State :=
  runUnit c .m i s fun x s =>
    match x.regs.tr acc, x.regs.tr a, x.regs.tr b with
    | some da, some d1, some d2 =>
      runMma x ⟨da, d1, d2, decide (ts = some false), decide (ts = some true), acc.toNat, x.bundle, x.region⟩ ovw ts s
    | _, _, _ => some (operandRange c x.bundle x.u.slot (inWings x s) s)

/-- MMA (R158): both operands are read along lines. -/
def execMma (c : CoreId) (acc a b : BitVec 4) (ovw : Bool) (s : State) : Out :=
  .next (startMma c (.mma c acc a b ovw) acc a b ovw none s)

/-- MMAT (R158, R174): the operand that TS names (0 A, 1 B) is read across lines. -/
def execMmat (c : CoreId) (acc a b : BitVec 4) (ovw ts : Bool) (s : State) : Out :=
  .next (startMma c (.mmat c acc a b ovw ts) acc a b ovw (some ts) s)

/-! ### VXSUM and VXACC (R161) -/

/-- A lane as one term of the exact reduction path: a product partial of its own exact value (R161, R90). -/
def lanePartial (acc : Desc) (row col blk treg bundle at_ : Nat) (region : Option Nat) (v : Lane) : PPartial :=
  let d := decodeElem .fp32 v.toNat none
  { granule := acc.granule, row := row, col := col, j := blk, count := 1
    pinf := decide (d.cls = .inf) && !d.s, ninf := decide (d.cls = .inf) && d.s, nan := decide (d.cls = .nan)
    allneg0 := decide (d.cls = .zero) && d.s
    maxExp := if d.cls = .finite then some d.e else none
    parts := if d.cls = .finite then [mkPart (if d.s then -(d.m : Int) else d.m) (d.e - 23)] else []
    last := false, treg := treg, bundle := bundle, region := region, at_ := at_ }

/-- The common part of VXSUM and VXACC: `place i` is the element lane i goes to, if any. -/
def runVx (x : Ctx) (acc : BitVec 4) (v : BitVec 5) (q : BitVec 3) (ovw : Bool) (g : BitVec 6) (row : Nat)
    (ok : Desc → Bool) (place : Desc → Nat → Option Nat) (s : State) : Option State :=
  match x.regs.tr acc with
  | none => some (operandRange x.c x.bundle x.u.slot (inWings x s) s)
  | some d =>
    if earlierOnTile x d.granule s then none
    else if d.isAcc && !d.acc && decide (row < d.nRows) && ok d && tileLegal (s.core x.c) d ovw then
      let start := max x.at_ (s.core x.c).tNext
      let s := openTile x d ovw s
      let s := s.updCore x.c fun k => k.updTile d.granule fun t => { t with drained := false }
      let blk := (x.regs.gr g).toNat % 2 ^ 48
      let ps := (List.range 64).filterMap fun i =>
        if (x.regs.qr q).getLsbD i then
          (place d i).map fun col => lanePartial d row col blk acc.toNat x.bundle (start + 16) x.region (lane (x.regs.vr v) i)
        else none
      some (sendPartials x.c d.granule (markLast ps) (start + 17) s)
    else some (operandRange x.c x.bundle x.u.slot (inWings x s) s)

/-- The T unit is held by a DRAIN or SPILL that waits at the fence (R107). -/
def fenceHeld (k : Core) : Bool :=
  k.tWait.any fun w => match w.entry.instr with
    | .xred .. => false
    | _ => true

/-- VXSUM (R161): adds the selected lanes of V to element (ROW, COL). -/
def execVxsum (c : CoreId) (acc : BitVec 4) (v : BitVec 5) (q : BitVec 3) (ovw : Bool) (row col : BitVec 7) (g : BitVec 6)
    (s : State) : Out :=
  .next (runUnit c .t (.vxsum c acc v q ovw row col g) s fun x s =>
    if fenceHeld (s.core c) then none
    else runVx x acc v q ovw g row.toNat (fun d => decide (col.toNat < d.nCols)) (fun _ _ => some col.toNat) s)

/-- VXACC (R161): adds lane i of V to element (ROW, 64H + i); a lane whose column is not below the columns is ignored. -/
def execVxacc (c : CoreId) (acc : BitVec 4) (v : BitVec 5) (q : BitVec 3) (ovw : Bool) (row : BitVec 7) (h : Bool)
    (g : BitVec 6) (s : State) : Out :=
  .next (runUnit c .t (.vxacc c acc v q ovw row h g) s fun x s =>
    if fenceHeld (s.core c) then none
    else runVx x acc v q ovw g row.toNat (fun d => decide (64 * b2n h < d.nCols))
      (fun d i => if 64 * b2n h + i < d.nCols then some (64 * b2n h + i) else none) s)

end Sys2Proof.Machine
end

