-- ==== Sys2Proof/Machine/Drain.lean ====
section
/-! DEFINITION. DRAIN, SPILL, FILL and the residue comparison (R91, R92, R94, R100 to R109, R160, R189), with the
promotion replay (R103, R104; assumption 8). -/

namespace Sys2Proof.Machine

/-! ### Images and the replay -/

/-- Read the record of element `idx` of a spill area (R100, R101, R103): C160 records lie at offset 64 × n. -/
def readRecord (s : State) (addr n idx : Nat) (c160 : Bool) : Accum :=
  if c160 then let a := addr + 64 * n + 32 * idx; Accum.ofImage true (s.le a 20) (s.le (a + 20) 12)
  else let a := addr + 96 * idx; Accum.ofImage false (s.le a 80) (s.le (a + 80) 16)

/-- A C160 image in its F640 container: the value moved to bit f + 300, its residue rotated alike (R103). -/
def Accum.widen (x : Accum) (f : Int) : Accum := { x with a := scaleInt x.a (f + 300), residue := resRot x.residue (f + 300) }

/-- The image of an element at the fill point of a promoted tile (R103). -/
def fillImage (s : State) (t : Tile) (idx : Nat) : Accum :=
  match t.fill with
  | .overwrite => Accum.start
  | .c160 => (readRecord s t.fillAddr (t.rows * t.cols) idx true).widen t.f
  | .f640 => readRecord s t.fillAddr (t.rows * t.cols) idx false

/-- The operation a record of a pass replays. -/
def RecMma.op (r : RecMma) (region : Option Nat) : MmaOp :=
  ⟨r.acc, r.a, r.b, decide (r.ts = some false), decide (r.ts = some true), r.treg, r.bundle, region⟩

/-- One element of a promoted tile after the replay of its pass: floor f and R87 still apply (R103). -/
def replayElem (s : State) (t : Tile) (i j : Nat) : Accum :=
  t.recs.foldl (fun x r =>
    if r.acc.frozen i then x else (elemPartials s (r.op t.region) i j).foldl (fun x p => x.addPromoted s t p) x)
    (fillImage s t (i * t.cols + j))

/-- Element `idx` of a tile as a DRAIN, SPILL or XRED reads it. -/
def tileAccum (s : State) (c : CoreId) (t : Tile) (idx : Nat) : Accum :=
  if t.promoted then replayElem s t (idx / t.cols) (idx % t.cols) else readAcc s c t.granule t.c160 idx

/-- The container of a tile as it is drained: C160 unless promoted. -/
def Tile.c160Now (t : Tile) : Bool := t.c160 && !t.promoted

/-! ### The sum and its output -/

/-- The exact sum S of an accumulator (R91). `e0` is the weight of bit 0. -/
def Accum.sum (x : Accum) (e0 : Int) : Val :=
  if x.nan || (x.pinf && x.ninf) then .nan
  else if x.pinf then .inf false
  else if x.ninf then .inf true
  else if x.a ≠ 0 then .num (decide (x.a < 0)) x.a.natAbs e0
  else .num (decide (1 ≤ x.count) && x.allneg0) 0 0

/-- Weight of bit 0 of a tile's image (R80, R84). -/
def Tile.e0 (t : Tile) : Int := if t.c160Now then t.f else -300

/-- What a DRAIN makes of one element: S, the value to be rounded, and whether a frozen row without a term writes +0. -/
structure DrainElem where
  acc : Accum
  sum : Val
  out : Val
  bare : Bool
  deriving DecidableEq, Repr

/-- The value of one element to be rounded (R67, R69, R91, R189). -/
def drainElem (t : Tile) (acc : Desc) (scale : Option (Val × Val)) (i : Nat) (x : Accum) : DrainElem :=
  let sum := x.sum t.e0
  let bare := acc.frozen i && decide (x.count = 0)
  let out := if bare then .num false 0 0
    else match scale with
      | some (a, b) => (sum.mul a).mul b
      | none => sum
  ⟨x, sum, out, bare⟩

/-- One written range of a DRAIN with its bytes. -/
abbrev Chunk := Nat × List Byte

/-- Pack element bits from the first byte of a line (R53). -/
def packBits (w : Nat) (es : List Nat) : List Byte :=
  leBytes ((es.length * w + 7) / 8) ((es.zipIdx.foldl (fun n e => n + e.1 * 2 ^ (w * e.2)) 0))

/-- The output of a DRAIN: chunks to write, format overflow seen, drained element bits in row-major order. -/
structure DrainOut where
  chunks : List Chunk
  ovf : Bool
  zero : List Bool
  deriving DecidableEq, Repr

/-- The magnitude bits of a drained element are zero. -/
def zeroBits (el : Elem) (b : Nat) : Bool :=
  match el with
  | .int8 => decide (b % 256 = 0)
  | el => decide (b % 2 ^ (el.width - 1) = 0)

/-- Drain into a plain format: one line of elements per row (R65, R155). -/
def drainPlain (d : Desc) (el : Elem) (mode : Nat) (rows cols : Nat) (v : Nat → Nat → Val) : DrainOut :=
  let cs := (List.range rows).map fun i => (List.range cols).map fun j => convert el mode (v i j)
  { chunks := cs.zipIdx.map fun (r, i) => (d.addr.toNat + i * d.stride.toNat, packBits el.width (r.map (·.bits)))
    ovf := cs.any fun r => r.any (·.ovf)
    zero := cs.flatMap fun r => r.map fun c => zeroBits el c.bits }

/-- Split a list into runs of n. -/
def runsOf (n : Nat) : Nat → List α → List (List α)
  | 0, _ => []
  | k + 1, l => if l.isEmpty then [] else l.take n :: runsOf n k (l.drop n)

/-- Drain into a block-scaled format along the destination's block direction (R55, R66, R155). -/
def drainBlocks (d : Desc) (el : Elem) (n mode rows cols : Nat) (v : Nat → Nat → Val) : DrainOut :=
  let outer := if d.bdim then cols else rows
  let inner := if d.bdim then rows else cols
  let at_ := fun o k => if d.bdim then v k o else v o k
  let bs := (List.range outer).map fun o => (runsOf n inner ((List.range inner).map (at_ o))).map (formBlock el mode)
  let bits := fun i j =>
    let (o, k) := if d.bdim then (j, i) else (i, j)
    match (bs.getD o []).getD (k / n) ⟨0, [], false⟩ with
    | ⟨x, es, _⟩ => (x, es.getD (k % n) 0)
  let elems := (List.range rows).map fun i =>
    (d.addr.toNat + i * d.stride.toNat, packBits el.width ((List.range cols).map fun j => (bits i j).2))
  let exps :=
    if d.bdim then (List.range ((rows + n - 1) / n)).map fun b =>
      (d.xaddr.toNat + b * d.xstride.toNat, (List.range cols).map fun j => BitVec.ofNat 8 (bits (b * n) j).1)
    else (List.range rows).map fun i =>
      (d.xaddr.toNat + i * d.xstride.toNat, (List.range ((cols + n - 1) / n)).map fun b => BitVec.ofNat 8 (bits i (b * n)).1)
  { chunks := elems ++ exps
    ovf := bs.any fun r => r.any (·.ovf)
    zero := (List.range rows).flatMap fun i => (List.range cols).map fun j =>
      let (x, b) := bits i j
      decide (x ≠ 0xFF) && zeroBits el b }

/-- The output of a DRAIN in format FMT (R106). -/
def drainOut (d : Desc) (fmt : BitVec 4) (mode rows cols : Nat) (v : Nat → Nat → Val) : DrainOut :=
  match fmtElem fmt with
  | none => ⟨[], false, []⟩
  | some el => if fmtBlock fmt = 0 then drainPlain d el mode rows cols v else drainBlocks d el (fmtBlock fmt) mode rows cols v

/-! ### Errors in the stores -/

/-- An uncorrectable Trellis store word met at a DRAIN, SPILL or XRED: SRAM_UNCORR, no residue failure; outside the wings
the core stops, in the wings the region cannot confirm (R109, R331). -/
def trellisUncorr (x : Ctx) (a : Nat) (injected : Bool) (s : State) : State :=
  let w := inWings x s
  let s := (spdInfo x.c 4 x.u.slot x.bundle a s).setFld (Fld.SPD_STATUS_UNCORR x.c) 1
  let s := raise 12 (coreOrigin x.c x.bundle x.u.slot injected w) [] s
  if w then regionFault x.c s else stopCore x.c s

/-- An injection that waits for a Trellis store write: the replay of a promoted tile writes the store, and reads the word back at
its drain (R103, R337). -/
def replayHit (x : Ctx) (t : Tile) (s : State) : Bool := t.promoted && armed s (Reg.TRL_INJECT x.c) 1

/-- Check the store words and, for a promoted tile, the operands and the image that the replay reads, and the words it writes
(R103, R223, R337). -/
def checkTile (x : Ctx) (t : Tile) (s : State) : Check :=
  let n := t.rows * t.cols
  if replayHit x t s then
    let a := valAddr x.c t.granule false 0
    .stop (trellisUncorr x a true (injectWord (Reg.TRL_INJECT x.c) 1 a s))
  else if t.promoted then
    let img := match t.fill with
      | .overwrite => []
      | .c160 => [(t.fillAddr + 64 * n, 32 * n)]
      | .f640 => [(t.fillAddr, 96 * n)]
    checkReads x (img ++ t.recs.flatMap fun r =>
      r.a.operandRanges (decide (r.ts = some false)) ++ r.b.operandRanges (decide (r.ts = some true))) s
  else
    let rs := tileRanges x.c t.granule t.c160 n
    match firstUncorr s rs with
    | some (a, inj) => .stop (trellisUncorr x a inj s)
    | none =>
      .ok (raiseMany 13 { unit := 1, index := x.c.val } ((rs.map fun r => s.corrCount r.1 r.2).foldl (· + ·) 0) s)

/-! ### The fence and the drain port in time (R107, R160) -/

/-- The CYCLE at which the T unit and the drain port can take an instruction (R118, R160). -/
def portStart (x : Ctx) (k : Core) : Nat := max (max x.at_ k.tNext) k.tFree

/-- The release of a DRAIN or SPILL: the CYCLE at which the fence of its tile is open for it (R107). -/
def releaseAt (x : Ctx) (k : Core) (t : Tile) : Nat := max (portStart x k) t.settled

/-- A DRAIN or SPILL passes the open fence: what it waited there is fence slip, and time runs to its release (R107, R111). -/
def passFence (x : Ctx) (t : Tile) (s : State) : State :=
  let n := t.settled - portStart x (s.core x.c)
  let s' := if n = 0 then s
    else (s.setFld (Fld.TRL_STATUS_FENCE_SLIP x.c) 1).updCore x.c fun k => { k with fenceSlip := k.fenceSlip + n }
  advanceTo (s.cycleAt (releaseAt x (s.core x.c) t)) s'

/-- The drain port is occupied for `n` cycles from CYCLE `at_`, and the T unit takes its next instruction in the cycle after it
(R118, R160). -/
def holdPort (c : CoreId) (at_ n : Nat) (s : State) : State := s.updCore c fun k => { k with tNext := at_ + 1, tFree := at_ + n }

/-- Cycles in which the elements of a tile are rounded (R107, R160). -/
def drainCycles (t : Tile) : Nat := ceilDiv (t.rows * t.cols) (if t.c160Now then 256 else 128)

/-- Cycles in which the image of `n` elements passes the drain port (R107, R160). -/
def imageTime (c160 : Bool) (n : Nat) : Nat := ceilDiv (n * if c160 then 32 else 96) 512

/-- The COUNT of element `idx` of a promoted tile saturates in the replay (R83, R103): every recorded multiply adds its K terms. -/
def replaySat (s : State) (t : Tile) (idx : Nat) : Bool :=
  decide (2 ^ 48 - 1 < (fillImage s t idx).count +
    ((t.recs.filter fun r => !r.acc.frozen (idx / t.cols)).map fun r => r.a.kLen).sum)

/-- A replay has ended: TRL_PROMO reports its cycles, a COUNT that has saturated is reported, and the last row-quarter's images lie in the
tile's granules (R83, R103, R111). -/
def endReplay (x : Ctx) (t : Tile) (cycles : Nat) (s : State) : State :=
  let n := t.rows * t.cols
  if t.promoted then
    let s1 := if (List.range n).any (replaySat s t) then s.setFld (Fld.TRL_STATUS_CNT_SAT x.c) 1 else s
    ((List.range (n / 4)).foldl (fun s' i =>
      writeAcc x.c t.granule false false i (replayElem s t ((3 * n / 4 + i) / t.cols) ((3 * n / 4 + i) % t.cols)) s') s1).setFld
      (Fld.TRL_PROMO_CYCLES x.c) cycles
  else s

/-! ### DRAIN -/

/-- NAN_TRAP (R92): raised once for the tile, at the lowest element whose NAN flag is set, else at the tile's lowest
coordinate where only the scale product gives NaN. -/
def nanTrap (x : Ctx) (t : Tile) (treg : Nat) (es : List DrainElem) (s : State) : State :=
  let hit := (es.zipIdx.find? fun e => e.1.acc.nan).map fun e =>
    (t.row0 + e.2 / t.cols, t.col0 + e.2 % t.cols, e.1.acc.nanBlock)
  let scaled := es.any fun e => e.out.isNan && !e.sum.isNan
  match hit, scaled with
  | none, false => s
  | hit, _ =>
    let (r, cl, b) := hit.getD (t.row0, t.col0, 2 ^ 48 - 1)
    let s := if s.bit (Fld.TRL_STATUS_NAN_TRAP x.c) then s
      else (((((s.setFld (Fld.TRL_NAN_WHERE_TILE x.c) treg).setFld (Fld.TRL_NAN_WHERE_BUNDLE x.c) x.bundle).setFld
        (Fld.TRL_NAN_SCENE_SCENE x.c) (s.fld Fld.SCN_COUNT_SCENE)).setFld (Fld.TRL_NAN_COORD_ROW x.c) r).setFld
        (Fld.TRL_NAN_COORD_COL x.c) cl).setFld (Fld.TRL_NAN_BLOCK_BLOCK x.c) b
    raise 5 (coreOrigin x.c x.bundle 1 false (inWings x s))
      (leBytes 1 treg ++ leBytes 4 r ++ leBytes 4 cl ++ leBytes 6 b) (s.setFld (Fld.TRL_STATUS_NAN_TRAP x.c) 1)

/-- The lowest element whose fold differs from its tracked residue (R94): coordinates, tracked, folded. An armed
TRL_INJECT.RES has inverted the tracked residues (R337). -/
def residueFail (t : Tile) (invert : Bool) (es : List DrainElem) : Option (Nat × Nat × Nat × Nat) :=
  (es.zipIdx.find? fun e =>
    let r := if invert then (8191 - e.1.acc.residue % 8191) % 8191 else e.1.acc.residue % 8191
    !e.1.bare && decide (r ≠ accFold t.c160Now e.1.acc.a)).map fun e =>
      let r := if invert then 8191 - e.1.acc.residue else e.1.acc.residue
      (t.row0 + e.2 / t.cols, t.col0 + e.2 % t.cols, r, accFold t.c160Now e.1.acc.a)

/-- Wilt Watch counts of one DRAIN for the watched entries of its tag (R207); kept pending in the wings. -/
def wiltCount (x : Ctx) (t : Tile) (acc : Desc) (es : List DrainElem) (zero : List Bool) (s : State) : State :=
  let live := (es.zip zero).zipIdx.filter fun e => !acc.frozen (e.2 / t.cols)
  let cnt : WiltCnt :=
    { e := live.length
      z := (live.filter fun e => match e.1.1.sum with | .num _ n _ => decide (n = 0) | _ => false).length
      u := (live.filter fun e => (match e.1.1.sum with | .num _ n _ => decide (n ≠ 0) | _ => false) && e.1.2).length }
  let hits := (List.range 256).filter fun i =>
    decide (s.fld (Fld.WLT_TAG_VALID i) = 1 ∧ s.fld (Fld.WLT_TAG_TAG i) = t.tag.toNat)
  if inWings x s then
    s.updCore x.c fun k => { k with region := k.region.map fun r => { r with wilt := r.wilt ++ hits.map fun i => (i, cnt) } }
  else hits.foldl (fun s i =>
    let o := SMap.get {} s.wlt i
    { s with wlt := SMap.set {} s.wlt i { e := o.e + cnt.e, z := o.z + cnt.z, u := o.u + cnt.u } }) s

/-- Write the chunks of a destination. -/
def writeChunks (x : Ctx) (cs : List Chunk) (s : State) : State := cs.foldl (fun s p => writeScr x p.1 p.2 s) s

/-- The Repot triggers of a DRAIN (R106, R196): kind 1 FOVF, kind 2 NONFIN. -/
def drainTrigs (t : Tile) (fmt : BitVec 4) (ovf nonfin : Bool) : List Trig :=
  (if ovf then [⟨t.id, t.tag.toNat, 1, t.c160, fmt.toNat⟩] else []) ++
    (if nonfin && decide (fmt ≠ 0) then [⟨t.id, t.tag.toNat, 2, t.c160, fmt.toNat⟩] else [])

/-- The whole effect of a DRAIN released at CYCLE `rel`, after a replay of `cycles` where the tile is promoted (R106 to R108). -/
def doDrain (x : Ctx) (t : Tile) (acc dst : Desc) (treg : Nat) (scale : Option (Val × Val)) (fmt : BitVec 4)
    (mode : Nat) (keep : Bool) (rel cycles : Nat) (s : State) : Option State :=
  (checkTile x t s).bind fun s =>
    (checkWrites x dst.dstRanges s).bind fun s =>
      let n := t.rows * t.cols
      let es := (List.range n).map fun i => drainElem t acc scale (i / t.cols) (tileAccum s x.c t i)
      let o := drainOut dst fmt mode t.rows t.cols fun i j => ((es[i * t.cols + j]?).map (·.out)).getD .nan
      let inv := armed s (Reg.TRL_INJECT x.c) 0
      let fail := residueFail t inv es
      let s := if inv then useInj (Reg.TRL_INJECT x.c) 0 s else s
      let s := nanTrap x t treg es (writeChunks x o.chunks s)
      let s := repotTrigger x.c x.region (drainTrigs t fmt o.ovf (es.any fun e => e.out.nonFinite)) x.bundle 1 s
      let s := if keep then s else wiltCount x t acc es o.zero s
      let s := holdPort x.c rel (drainCycles t + 2) (endReplay x t cycles s)
      let reg := if inWings x s then x.region else none
      some (s.updCore x.c fun k =>
        let m : Cmp := ⟨dst.dstRanges, fail, false, inv, treg, x.bundle, reg, x.seq, rel + 2 + drainCycles t,
          rel + 7 + drainCycles t⟩
        let k : Core := { k with cmps := k.cmps ++ [m] }
        if keep then k.updTile t.granule fun t => { t with drained := true }
        else { k.freeTile t.granule with spilled := k.spilled.filter fun p => decide (p.1 ≠ acc.addr.toNat) })

/-- A DRAIN, SPILL or XRED of a tile in progress that matches its descriptor (R97, R160). -/
def tileFor (k : Core) (acc : Desc) : Option Tile :=
  match k.tile acc.granule with
  | some t =>
    if acc.isAcc ∧ t.c160 = acc.acc ∧ t.rows = acc.nRows ∧ t.cols = acc.nCols ∧ (acc.acc → t.f = acc.floor) then some t
    else none
  | none => none

/-- The level of the accumulator's layer allows a format (R73, R160): a layer that the loaded book lists. -/
def levelAllows (k : Core) (acc : Desc) (fmt : BitVec 4) : Bool :=
  match k.book.bind fun b => b.layers.find? fun l => decide (l.1 = acc.tag.toNat) with
  | some l => decide (fmtLevel fmt ≤ l.2)
  | none => true

/-- DRAIN's registers: accumulator, destination and scales, with the rules of R160. -/
def drainArgs (k : Core) (r : Regs) (acc dst sa sb : BitVec 4) (fmt : BitVec 4) (scl : Bool) :
    Option (Tile × Desc × Desc × Option (Val × Val)) :=
  match r.tr acc, r.tr dst with
  | some da, some dd =>
    match tileFor k da with
    | none => none
    | some t =>
      if dd.isDst ∧ dd.rows = da.rows ∧ dd.cols = da.cols ∧ dd.fmt = fmt ∧ levelAllows k da fmt = true then
        if scl then
          match r.tr sa, r.tr sb with
          | some a, some b => some (t, da, dd, some (laneVal a.scale, laneVal b.scale))
          | _, _ => none
        else some (t, da, dd, none)
      else none
  | _, _ => none

/-- Wait at the drain fence (R107), or for the end of a replay (R104). -/
def fenceWait (x : Ctx) (i : Instr) (replay : Option (Nat × Nat)) (s : State) : State :=
  s.updCore x.c fun k => { k with tWait := k.tWait ++ [⟨⟨i, x.regs, x.bundle, x.region, x.seq, x.at_⟩, replay⟩] }

/-- The replay of a promoted tile begins at CYCLE `rel` (R103, R104). The mesh, the Trellis unit and the drain port are its own until
it ends. R104 says about how many cycles it costs and fixes no number: the count is a free value (assumption 8). -/
def beginReplay (x : Ctx) (i : Instr) (rel : Nat) (s : State) : State :=
  let (v, s) := drawWord s
  let n := v.toNat % 2 ^ 32
  fenceWait x i (some (n, rel + n)) (s.updCore x.c fun k =>
    { k with mFree := max k.mFree (rel + n), tNext := max k.tNext (rel + n), tFree := max k.tFree (rel + n) })

/-- DRAIN of a tile whose fence is open: at its release it rounds the tile, or begins the replay of a promoted one. -/
def drainRelease (x : Ctx) (i : Instr) (t : Tile) (da dd : Desc) (treg : Nat) (scale : Option (Val × Val)) (fmt : BitVec 4) (mode : Nat)
    (keep : Bool) (s : State) : Option State :=
  let rel := releaseAt x (s.core x.c) t
  if t.promoted then some (beginReplay x i rel (passFence x t s))
  else doDrain x t da dd treg scale fmt mode keep rel 0 (passFence x t s)

/-- An instruction on the tile that t register `acc` names waits in a queue before `x` (assumption 62). -/
def behindOther (x : Ctx) (acc : BitVec 4) (s : State) : Bool :=
  match x.regs.tr acc with
  | some d => queuedOnTile x d.granule s
  | none => false

/-- DRAIN once its unit starts it, or once the fence opens; `replayed`: its replay has ended, with its cycles and the CYCLE. -/
def drainStart (x : Ctx) (i : Instr) (acc dst sa sb fmt : BitVec 4) (mode : BitVec 2) (scl keep : Bool)
    (replayed : Option (Nat × Nat)) (s : State) : Option State :=
  if behindOther x acc s then none
  else match drainArgs (s.core x.c) x.regs acc dst sa sb fmt scl with
  | none => some (operandRange x.c x.bundle x.u.slot (inWings x s) s)
  | some (t, da, dd, scale) =>
    match replayed with
    | some (n, e) => doDrain x t da dd acc.toNat scale fmt mode.toNat keep e n s
    | none =>
      if (s.core x.c).fenceShut t x.seq then some (fenceWait x i none s)
      else drainRelease x i t da dd acc.toNat scale fmt mode.toNat keep s

/-- DRAIN (R160): rounds each accumulator of a tile once into the output format. -/
def execDrain (c : CoreId) (acc dst sa sb fmt : BitVec 4) (mode : BitVec 2) (scl keep : Bool) (s : State) : Out :=
  let i := Instr.drain c acc dst sa sb fmt mode scl keep
  guardWf i (runUnit c .t i s fun x s =>
    if fenceHeld (s.core c) then none else drainStart x i acc dst sa sb fmt mode scl keep none s)

/-! ### SPILL and FILL -/

/-- The record bytes of an element's image (R100): `fmt` 0 F640, 1 C160, 2 promoted. -/
def Accum.recordBytes (x : Accum) (fmt : Nat) : List Byte :=
  let c := decide (fmt = 1)
  x.valList c ++ leBytes (tagBytes c) (x.tagNat fmt)

/-- The whole effect of a SPILL released at CYCLE `rel`, after a replay of `cycles` where the tile is promoted (R100, R101, R103). -/
def doSpill (x : Ctx) (t : Tile) (acc : Desc) (rel cycles : Nat) (s : State) : Option State :=
  let n := t.rows * t.cols
  let a := acc.addr.toNat
  (checkWrites x [(a, 96 * n)] s).bind fun s =>
    (checkTile x t s).bind fun s =>
      let fmt := if t.promoted then 2 else b2n t.c160
      let bs := (List.range n).flatMap fun i => (tileAccum s x.c t i).recordBytes fmt
      let s := writeScr x (if fmt = 1 then a + 64 * n else a) bs s
      let s := holdPort x.c rel (imageTime t.c160Now n) (endReplay x t cycles s)
      some (s.updCore x.c fun k =>
        { k.freeTile t.granule with
          spilled := (if t.promoted then [(a, t.wovf)] else []) ++ k.spilled.filter fun p => decide (p.1 ≠ a) })

/-- After an uncorrectable error met by a SPILL the contents of the spill area are undefined (R101): free bytes. -/
def spillUndefined (x : Ctx) (a n : Nat) (s : State) : State :=
  let (bs, s) := drawBytes n s
  writeScr x a bs s

/-- A SPILL meets an uncorrectable Trellis store word (R101). -/
def spillBad (x : Ctx) (t : Tile) (s : State) : Bool :=
  replayHit x t s || (!t.promoted && (firstUncorr s (tileRanges x.c t.granule t.c160 (t.rows * t.cols))).isSome)

/-- The image of a tile moves to its spill area, or meets an uncorrectable word. -/
def spillMove (x : Ctx) (t : Tile) (d : Desc) (rel cycles : Nat) (s : State) : Option State :=
  if spillBad x t s then
    (checkWrites x [(d.addr.toNat, d.spillBytes)] s).bind fun s =>
      (checkTile x t (spillUndefined x d.addr.toNat d.spillBytes s)).bind some
  else doSpill x t d rel cycles s

/-- SPILL of a tile whose fence is open: at its release the image moves, or the replay of a promoted tile begins. -/
def spillRelease (x : Ctx) (i : Instr) (t : Tile) (d : Desc) (s : State) : Option State :=
  let rel := releaseAt x (s.core x.c) t
  if t.promoted then some (beginReplay x i rel (passFence x t s)) else spillMove x t d rel 0 (passFence x t s)

/-- SPILL once its unit starts it, or once the fence opens; `replayed` as for a DRAIN. -/
def spillStart (x : Ctx) (i : Instr) (acc : BitVec 4) (replayed : Option (Nat × Nat)) (s : State) : Option State :=
  if behindOther x acc s then none
  else match (x.regs.tr acc).bind fun d => (tileFor (s.core x.c) d).map fun t => (t, d) with
  | none => some (operandRange x.c x.bundle x.u.slot (inWings x s) s)
  | some (t, d) =>
    match replayed with
    | some (n, e) => spillMove x t d e n s
    | none => if (s.core x.c).fenceShut t x.seq then some (fenceWait x i none s) else spillRelease x i t d s

/-- SPILL (R100, R160). -/
def execSpill (c : CoreId) (acc : BitVec 4) (s : State) : Out :=
  .next (runUnit c .t (.spill c acc) s fun x s =>
    if fenceHeld (s.core c) then none else spillStart x (.spill c acc) acc none s)

/-- RESIDUE_FAIL (R109): status, the lowest failing coordinate, which is the event's payload too (R334), the fault; outside the wings the core stops, in the wings
the region cannot confirm. -/
def residueFailure (x : Ctx) (row col : Nat) (res : Option (Nat × Nat)) (treg : Nat) (injected : Bool) (s : State) : State :=
  let s := if s.bit (Fld.TRL_STATUS_RES_FAIL x.c) then s
    else
      let s := match res with
        | some (tracked, folded) =>
          (s.setFld (Fld.TRL_RES_INFO_TRACKED x.c) tracked).setFld (Fld.TRL_RES_INFO_FOLDED x.c) folded
        | none => s
      ((s.setFld (Fld.TRL_RES_INFO_TILE x.c) treg).setFld (Fld.TRL_RES_COORD_ROW x.c) row).setFld
        (Fld.TRL_RES_COORD_COL x.c) col
  let w := inWings x s
  let s := raise 3 (coreOrigin x.c x.bundle 1 injected w) (leBytes 4 row ++ leBytes 4 col) (s.setFld (Fld.TRL_STATUS_RES_FAIL x.c) 1)
  if w then regionFault x.c s else stopCore x.c s

/-- The tile a FILL puts back (R100, R102, R103, R156). -/
def filledTile (x : Ctx) (d : Desc) (mark : Option Bool) (s : State) : Tile :=
  { newTile d (s.core x.c).tileOrd (if inWings x s then x.region else none) with
    promoted := mark.isSome, wovf := mark.getD false
    fill := if mark.isSome then .f640 else if d.acc then .c160 else .f640
    fillAddr := d.addr.toNat }

/-- Put the tile of a FILL into the tile table. -/
def putFilled (x : Ctx) (t : Tile) (s : State) : State :=
  s.updCore x.c fun k => { k with tiles := putTile t k.tiles, tileOrd := k.tileOrd + 1 }

/-- Read the image of a FILL, as `view` shows it, and load the granules: an uncorrectable word is a residue failure of its element
(R109). -/
def loadImage (x : Ctx) (d : Desc) (treg : Nat) (img : Nat × Nat) (t : Tile) (view s : State) : State :=
  match firstUncorr s [img] with
  | some (w, inj) =>
    let i := (w - img.1) / (if d.acc then 32 else 96)
    residueFailure x (t.row0 + i / t.cols) (t.col0 + i % t.cols) none treg inj s
  | none =>
    let n := d.nRows * d.nCols
    let s := sramCorr x.c (s.corrCount img.1 img.2) s
    putFilled x t ((List.range n).foldl (fun s' i => writeAcc x.c d.granule d.acc false i (readRecord view d.addr.toNat n i d.acc) s') s)

/-- A FILL of the image range `img` whose access check answers `kind`: a promoted tile's FILL loads nothing (R103); lines that are
pending for a source region read as zero (R139). -/
def fillFrom (x : Ctx) (d : Desc) (treg : Nat) (promoted : Bool) (img : Nat × Nat) (t : Tile) (kind : Option Nat) (s : State) :
    Option State :=
  match kind with
  | some k => some (addressFault x.c k x.bundle x.u.slot (inWings x s) (scratchLine s x.c img.1) s)
  | none =>
    if mustWait x [img] s then none
    else
      let start := portStart x (s.core x.c)
      let s := holdPort x.c start (imageTime (d.acc && !promoted) (d.nRows * d.nCols)) (advanceTo (s.cycleAt start) s)
      let early := !promoted && pendingSource s x.c img.1 img.2
      let view := if early then earlyView x.c [img] s else s
      let s := if early then wingsEarly x s else s
      some (if promoted then putFilled x t s else loadImage x d treg img t view s)

/-- The whole effect of a FILL: an image read back into the granules. -/
def doFill (x : Ctx) (d : Desc) (treg : Nat) (s : State) : Option State :=
  let n := d.nRows * d.nCols
  let a := d.addr.toNat
  let mark := ((s.core x.c).spilled.find? fun p => decide (p.1 = a)).map (·.2)
  let img := if mark.isSome then (a, 96 * n) else if d.acc then (a + 64 * n, 32 * n) else (a, 96 * n)
  fillFrom x d treg mark.isSome img (filledTile x d mark s) (ownScratchKind s x.c img.1 img.2) s

/-- FILL (R100, R160): reads an image back from the spill area and resumes the accumulation. -/
def execFill (c : CoreId) (acc : BitVec 4) (s : State) : Out :=
  .next (runUnit c .t (.fill c acc) s fun x s =>
    if fenceHeld (s.core c) then none
    else
      match x.regs.tr acc with
      | none => some (operandRange c x.bundle x.u.slot (inWings x s) s)
      | some d =>
        if queuedOnTile x d.granule s then none
        else if d.isAcc && tileLegal (s.core c) d true then doFill x d acc.toNat s
        else some (operandRange c x.bundle x.u.slot (inWings x s) s))

/-! ### RESIDUE_COMPARISON -/

/-- RESIDUE_COMPARISON (R108): the oldest comparison is made, 6 cycles after the last element (R107); a destination becomes readable, or
R109 applies and the destination stays unread until the cue. -/
def execResidueComparison (c : CoreId) (s : State) : Out :=
  .next (if s.live then
    match (s.core c).cmps.find? fun m => !m.done with
    | none => s
    | some m =>
      let s := advanceTo (s.cycleAt m.at_) s
      let x : Ctx := ⟨c, .t, (s.core c).regs, m.bundle, m.region, m.seq, m.at_⟩
      match m.fail with
      | none => s.updCore c fun k => { k with cmps := k.cmps.erase m }
      | some (row, col, tr, fo) =>
        let s := s.updCore c fun k => { k with cmps := k.cmps.map fun n => if n = m then { n with done := true } else n }
        residueFailure x row col (some (tr, fo)) m.treg m.injected s
  else s)

end Sys2Proof.Machine
end

