-- ==== Sys2Proof/Machine/Flit.lean ====
section
/-! DEFINITION. Flits of the K-links: the CRC, packets as bytes, and the flits that a link sends with their replay buffer (R237, R238,
R245, R246, R248; assumption 74). -/

namespace Sys2Proof

/-- A data packet's header and payload as they cross a link (R246). -/
def DataPkt.bytes (p : DataPkt) : List Byte :=
  let len : BitVec 6 := BitVec.ofNat 6 (p.payload.length / 64 - 1)
  let w0 : BitVec 64 := len ++ p.src ++ p.stype ++ p.dest ++ p.dtype ++ p.next ++ p.hops ++ p.kind ++ BitVec.ofBool p.spec ++
    BitVec.ofBool p.epoch ++ BitVec.ofBool p.sub ++ p.vl
  let w1 : BitVec 48 := 0#2 ++ p.status ++ BitVec.ofBool p.last ++ p.seq ++ p.lscene ++ p.res ++ p.dcore ++ p.score
  Machine.leBytes 32 (p.route ++ (w1 ++ w0)).toNat ++ p.payload

/-- A control packet's header and payload as they cross a link (R248). -/
def CtrlPkt.bytes (p : CtrlPkt) : List Byte :=
  let w0 : BitVec 56 := p.src ++ p.stype ++ p.dest ++ p.dtype ++ p.next ++ p.hops ++ p.ckind ++ BitVec.ofBool p.epoch ++
    BitVec.ofBool p.sub ++ 0#2
  Machine.leBytes 16 (p.route ++ w0).toNat ++ p.payload

/-- A packet's bytes. -/
def Pkt.bytes : Pkt → List Byte
  | .data p => p.bytes
  | .ctrl p => p.bytes

end Sys2Proof

namespace Sys2Proof.Machine

/-! ### Links -/

/-- The link's own state. -/
def State.link (s : State) (k : Nat) : LinkSt := SMap.get {} s.links k

/-- Put a link's own state. -/
def State.setLink (s : State) (k : Nat) (l : LinkSt) : State := { s with links := SMap.set {} s.links k l }

/-- Say something to the peer in a link-control flit or in LCTL. -/
def linkSay (k what value : Nat) (s : State) : State := { s with out := s.out ++ [.linkWord k what value] }

/-! ### The CRC (R237) -/

/-- One byte through the CRC register. PRESUMED (assumption 74): bits enter from the lowest, as the standard's CRC-32 takes them. -/
def crcByte (c : BitVec 32) (b : Byte) : BitVec 32 :=
  (List.range 8).foldl (fun c _ => if c.getLsbD 0 then (c >>> 1) ^^^ 0xEDB88320#32 else c >>> 1) (c ^^^ b.setWidth 32)

/-- CRC-32 with the polynomial 0x04C11DB7 (R237). PRESUMED (assumption 74): the register starts at all ones and is inverted at the end. -/
def crc32 (bs : List Byte) : BitVec 32 := ~~~(bs.foldl crcByte 0xFFFFFFFF#32)

/-- A flit passes the CRC: its CRC field is that of its bytes 0 to 231, BODY and LCTL, as the FEC leaves them (R237). -/
def flitOk (crc : BitVec 32) (bs : List Byte) : Bool := decide (bs.length = 232 ∧ crc = crc32 bs)

/-! ### Packets in flit bodies (R237, R245, R246, R248) -/

/-- A data packet from its bytes. -/
def dataOfBytes (bs : List Byte) : DataPkt :=
  let h := BitVec.ofNat 256 (leNat (bs.take 32))
  { vl := h.extractLsb' 0 2, sub := h.getLsbD 2, epoch := h.getLsbD 3, spec := h.getLsbD 4, kind := h.extractLsb' 5 3
    hops := h.extractLsb' 8 5, next := h.extractLsb' 13 5, dtype := h.extractLsb' 18 4, dest := h.extractLsb' 22 16
    stype := h.extractLsb' 38 4, src := h.extractLsb' 42 16, score := h.extractLsb' 64 7, dcore := h.extractLsb' 71 7
    res := h.extractLsb' 78 10, lscene := h.extractLsb' 88 4, seq := h.extractLsb' 92 14, last := h.getLsbD 106
    status := h.extractLsb' 107 3, route := h.extractLsb' 112 144, payload := bs.drop 32 }

/-- A control packet from its 64 bytes. -/
def ctrlOfBytes (bs : List Byte) : CtrlPkt :=
  let h := BitVec.ofNat 128 (leNat (bs.take 16))
  { sub := h.getLsbD 2, epoch := h.getLsbD 3, ckind := h.extractLsb' 4 4, hops := h.extractLsb' 8 4
    next := h.extractLsb' 12 4, dtype := h.extractLsb' 16 4, dest := h.extractLsb' 20 16, stype := h.extractLsb' 36 4
    src := h.extractLsb' 40 16, route := h.extractLsb' 56 72, payload := bs.drop 16 }

/-- Length of the packet that begins with these bytes, once its length can be read. -/
def pktLen (bs : List Byte) : Option Nat :=
  match bs.head? with
  | none => none
  | some b =>
    if b.toNat % 4 = 0 then some 64
    else if bs.length < 8 then none else some (32 + 64 * ((bs.getD 7 0).toNat / 4 + 1))

/-- Split whole packets off a body. -/
def splitBody : Nat → List Byte → List Pkt × List Byte
  | 0, bs => ([], bs)
  | fuel + 1, bs =>
    match pktLen bs with
    | none => ([], bs)
    | some n =>
      if bs.length < n then ([], bs)
      else
        let (ps, rest) := splitBody fuel (bs.drop n)
        ((if (bs.getD 0 0).toNat % 4 = 0 then Pkt.ctrl (ctrlOfBytes (bs.take n)) else Pkt.data (dataOfBytes (bs.take n))) :: ps, rest)

/-! ### Flits that leave (R237, R238, R337) -/

/-- LCTL of a flit with packet bytes: SEQ, and ACK, the last SEQ received in order. -/
def lctlOf (seq rxSeq : Nat) : Nat := seq + 2 ^ 12 * ((rxSeq + 4095) % 4096)

/-- A flit leaves: BODY, LCTL, CRC and FEC. Which check bytes the FEC has, no rule states: they are free. `flip` inverts the CRC. -/
def putFlit (k : Nat) (flip : Bool) (seq : Nat) (body : List Byte) (s : State) : State :=
  let h := body ++ leBytes 4 (lctlOf seq (s.link k).rxSeq)
  let crc := if flip then ~~~(crc32 h) else crc32 h
  let (fec, s) := drawBytes 20 s
  { s with out := s.out ++ [.flit k (h ++ leBytes 4 crc.toNat ++ fec)] }

/-- The next flit of a link's packet bytes goes out and into the replay buffer. The first one after an injection was armed goes out with
its CRC or its FEC check bytes inverted (R337). -/
def sendFlit (k : Nat) (s : State) : State :=
  let l := s.link k
  let crc := armed s (Reg.KL_INJECT k) 0
  let fec := armed s (Reg.KL_INJECT k) 1
  let s := if crc then useInj (Reg.KL_INJECT k) 0 s else s
  let s := if fec then linkSay k 5 1 (useInj (Reg.KL_INJECT k) 1 s) else s
  putFlit k crc l.txSeq (l.txBody.take 228) (s.setLink k { l with
    txSeq := (l.txSeq + 1) % 4096, txBody := l.txBody.drop 228, replay := l.replay ++ [(l.txSeq, l.txBody.take 228)]
    inj := if crc || fec then some l.txSeq else l.inj })

/-- Packet bytes that fill a flit go out while the replay buffer of 512 flits has room; the bytes of a flit that is not full wait
(assumption 74). -/
def formFlits (k : Nat) : Nat → State → State
  | 0, s => s
  | n + 1, s => if 228 ≤ (s.link k).txBody.length ∧ (s.link k).replay.length < 512 then formFlits k n (sendFlit k s) else s

/-- Packet bytes join what the link has to send, packed back to back. -/
def sendBytes (k : Nat) (bs : List Byte) (s : State) : State :=
  let l := s.link k
  formFlits k 512 (s.setLink k { l with txBody := l.txBody ++ bs })

/-- The flits that an ACK leaves unacknowledged: those after it, where the buffer holds it. -/
def unacked (ack : Nat) (l : List (Nat × List Byte)) : List (Nat × List Byte) :=
  match l.findIdx? fun f => decide (f.1 = ack) with
  | some i => l.drop (i + 1)
  | none => l

/-- The peer has received the flits up to `ack` in order (R238): they leave the replay buffer. -/
def acknowledge (k ack : Nat) (s : State) : State :=
  let l := s.link k
  formFlits k 512 (s.setLink k { l with replay := unacked ack l.replay })

/-- A NAK after `ack` (R238): the link replays from the next flit on, and the replay is counted. One that an injection caused is raised
as injected (R338). -/
def replayFlits (k ack : Nat) (s : State) : State :=
  let injected := decide ((s.link k).inj = some ((ack + 1) % 4096))
  let s := raise 18 { unit := 3, index := k, injected := injected } []
    ((if injected then s.setLink k { s.link k with inj := none } else s).addSat (Fld.KL_ERR_REPLAY k) 1)
  (s.link k).replay.foldl (fun s f => putFlit k false f.1 f.2 s) s

end Sys2Proof.Machine
end

