-- ==== Sys2Proof/Machine/Fabric.lean ====
section
/-! DEFINITION. Packets, routes, hop-maps, lanes and buffers (R245 to R263). -/

namespace Sys2Proof

/-! ### Header fields common to both classes (R246, R248) -/

/-- Lane. -/
def Pkt.vl : Pkt → Nat
  | .data p => p.vl.toNat
  | .ctrl _ => 0
/-- Sub-lane. -/
def Pkt.sub : Pkt → Bool
  | .data p => p.sub
  | .ctrl p => p.sub
/-- Hop-map bank. -/
def Pkt.epoch : Pkt → Bool
  | .data p => p.epoch
  | .ctrl p => p.epoch
/-- Route length. -/
def Pkt.hops : Pkt → Nat
  | .data p => p.hops.toNat
  | .ctrl p => p.hops.toNat
/-- Index of the hop code to use. -/
def Pkt.next : Pkt → Nat
  | .data p => p.next.toNat
  | .ctrl p => p.next.toNat
/-- Destination node type. -/
def Pkt.dtype : Pkt → Nat
  | .data p => p.dtype.toNat
  | .ctrl p => p.dtype.toNat
/-- Destination node. -/
def Pkt.dest : Pkt → Nat
  | .data p => p.dest.toNat
  | .ctrl p => p.dest.toNat
/-- Source node. -/
def Pkt.src : Pkt → Nat
  | .data p => p.src.toNat
  | .ctrl p => p.src.toNat
/-- Reservation; 0 for control packets. -/
def Pkt.res : Pkt → Nat
  | .data p => p.res.toNat
  | .ctrl _ => 0
/-- Hop code `i` of a 24-code route. -/
def routeCode (r : BitVec 144) (i : Nat) : BitVec 6 := (r >>> (6 * i)).setWidth 6
/-- Hop code i of a packet's route. -/
def Pkt.code (p : Pkt) (i : Nat) : BitVec 6 :=
  match p with
  | .data p => routeCode p.route i
  | .ctrl p => (p.route >>> (6 * i)).setWidth 6
/-- LSCENE of a data packet. -/
def Pkt.lscene : Pkt → Nat
  | .data p => p.lscene.toNat
  | .ctrl _ => 0
/-- A packet as it leaves a device: bank, sub-lane and NEXT. -/
def Pkt.leave (p : Pkt) (bank sub : Bool) (next : Nat) : Pkt :=
  match p with
  | .data p => .data { p with epoch := bank, sub := sub, next := BitVec.ofNat 5 next }
  | .ctrl p => .ctrl { p with epoch := bank, sub := sub, next := BitVec.ofNat 4 next }

end Sys2Proof

namespace Sys2Proof.Machine

/-- Direction, class and dateline of a hop code (R250). -/
def codeDir (c : BitVec 6) : Bool := c.getLsbD 2
/-- Class of a hop code. -/
def codeClass (c : BitVec 6) : Nat := (c.extractLsb' 3 2).toNat
/-- Dateline bit of a hop code. -/
def codeDl (c : BitVec 6) : Bool := c.getLsbD 5

/-! ### Discards (R254) -/

/-- The counter of a drop reason. -/
def dropFld : Nat → Fld
  | 1 => Fld.FAB_DROP_COUNT_STALE
  | 2 => Fld.FAB_DROP_COUNT_ROUTE_BAD
  | 3 => Fld.FAB_DROP_COUNT2_LINK
  | 4 => Fld.FAB_DROP_COUNT2_MISDELIVER
  | 5 => Fld.FAB_DROP_COUNT_NO_RES
  | 6 => Fld.FAB_DROP_COUNT_LEFTOVER
  | 7 => Fld.FAB_DROP_COUNT2_CTRL
  | _ => Fld.FAB_DROP_COUNT2_FLUSH

/-- Discard a packet: count, first record, and FAB_DROP (R254). -/
def dropPkt (reason link : Nat) (p : Pkt) (s : State) : State :=
  let s := if s.bit Fld.FAB_STATUS_DROP then s
    else ((((s.setFld Fld.FAB_DROP_INFO_REASON reason).setFld Fld.FAB_DROP_INFO_LINK link).setFld Fld.FAB_DROP_INFO_RES
      p.res).setFld Fld.FAB_DROP_INFO_SRC p.src).setFld Fld.FAB_DROP_INFO_DEST p.dest
  let s := (s.addSat (dropFld reason) 1).setFld Fld.FAB_STATUS_DROP 1
  raise 20 (if link < 48 then { unit := 3, index := link } else {})
    (leBytes 1 reason ++ leBytes 1 link ++ leBytes 2 p.res ++ leBytes 2 p.src ++ leBytes 2 p.dest) s

/-! ### Credits and queues (R260, R261) -/

/-- The credit pool a packet draws on: its reservation, or its sub-lane of the egress link. -/
def creditKey (link : Nat) (p : Pkt) : Nat := if p.vl = 3 then p.res else 4096 + 8 * link + 2 * p.vl + b2n p.sub

/-- Credits of a pool: the entry's CREDITS, or the buffers of a sub-lane (R260). -/
def creditTotal (s : State) (link : Nat) (p : Pkt) : Nat :=
  match p.vl with
  | 3 => s.fld (Fld.FAB_RES_CREDITS p.res)
  | 0 => if link < 48 then 64 else 0
  | _ => 16

/-- A credit is free for the packet. -/
def hasCredit (s : State) (link : Nat) (p : Pkt) : Bool :=
  decide (SMap.get 0 s.fab.used (creditKey link p) < creditTotal s link p)

/-- Use or give back one credit of a pool. -/
def takeCredit (key : Nat) (s : State) : State :=
  { s with fab := { s.fab with used := SMap.set 0 s.fab.used key (SMap.get 0 s.fab.used key + 1) } }

/-- Give back one credit. -/
def giveCredit (key : Nat) (s : State) : State :=
  { s with fab := { s.fab with used := SMap.set 0 s.fab.used key (SMap.get 0 s.fab.used key - 1) } }

/-- The link carries packets and this device may use it (R244, R252). -/
def linkUsable (s : State) (k : Nat) : Bool :=
  s.bit (Fld.KL_STATUS_UP k) && !s.bit (Fld.KL_STATUS_PEER_REST k) && decide (s.fld Fld.PWR_STATE_PS ≤ 2)

/-- Free the receive buffer a packet holds and return its credit in a link-control flit (R261). -/
def freeBuffer (i : RxItem) (s : State) : State :=
  { s with
    fab := { s.fab with rx := s.fab.rx.erase i }
    out := s.out ++ [.linkWord i.link 1 (creditKey i.link i.p + 2 ^ 16 * i.p.lscene)] }

/-- Local time in units of 2^-16 ns (R34). -/
def State.frac (s : State) : Nat := s.tim.now / 18

/-- Add to the CORRECTION of a timing packet, modulo 2^64 (R34). -/
def addCorrection (p : CtrlPkt) (d : Int) : CtrlPkt :=
  { p with payload := p.payload.take 8 ++ leBytes 8 ((((leNat ((p.payload.drop 8).take 8) : Int) + d) % 2 ^ 64).toNat) ++
    p.payload.drop 16 }

/-- A packet as it departs on link `k`: a KL-1 link carries no EPOCH (R236, R246, R248). A timing packet on its way down carries, while it
waits, its CORRECTION less the instant of its arrival; what it waits is added as it departs (R34). -/
def depart (s : State) (k : Nat) (p : Pkt) : Pkt :=
  let old := decide (s.fld (Fld.KL_STATUS_REV k) = 1)
  match p with
  | .ctrl p =>
    let p := if old then { p with epoch := false } else p
    .ctrl (if p.ckind = 1 ∧ p.src.toNat ≠ s.fld Fld.FAB_NODE_ID then addCorrection p s.frac else p)
  | .data p => .data (if old then { p with epoch := false } else p)

/-- A packet leaves on its egress link, its bytes in flits (R237). -/
def sendNow (t : TxItem) (s : State) : State :=
  let s := takeCredit (creditKey t.link t.p) s
  let p := depart s t.link t.p
  let s := sendBytes t.link p.bytes { s with out := s.out ++ [.packet t.link p] }
  match t.held with
  | some i => freeBuffer i s
  | none => s

/-- Send what has credit, in the queue's order, on links that carry packets (R244). -/
def pumpList : List TxItem → State → State
  | [], s => s
  | t :: ts, s =>
    if hasCredit s t.link t.p && linkUsable s t.link then pumpList ts (sendNow t { s with fab := { s.fab with tx := s.fab.tx.erase t } })
    else pumpList ts s

/-- Every egress takes ready packets in the order VL0, VL3, VL2, VL1 (R260). -/
def pump (s : State) : State :=
  [0, 3, 2, 1].foldl (fun s l => pumpList (s.fab.tx.filter fun t => decide (t.p.vl = l)) s) s

/-- Put a packet into its egress link's queue, behind what waits there. -/
def enqueue (t : TxItem) (s : State) : State := pump { s with fab := { s.fab with tx := s.fab.tx ++ [t] } }

/-! ### Forwarding (R252) -/

/-- The hop-map entry for a code in a bank: port, dateline; none where it reads VALID = 0. -/
def hopEntry (s : State) (bank : Bool) (c : BitVec 6) : Option (Nat × Bool) :=
  let i := 64 * b2n bank + c.toNat
  let port := s.fld (Fld.FAB_HOPMAP_PORT i)
  if s.bit (Fld.FAB_HOPMAP_VALID i) && decide (port < 12 * s.linkDies ∧ port < 48) then
    some (port, s.bit (Fld.FAB_HOPMAP_DATELINE i))
  else none

/-- The bank in which a packet that arrives on a link is looked up (R255): a KL-1 link carries no epoch. -/
def arrivalBank (s : State) (k : Nat) (p : Pkt) : Bool :=
  if s.fld (Fld.KL_STATUS_REV k) = 1 then s.bit Fld.FAB_EPOCH_KL1 else p.epoch

/-- STALE (R252): launched two or more scenes ago. -/
def stale (s : State) (p : Pkt) : Bool :=
  decide (p.vl ≠ 0 ∧ 2 ≤ (s.fld Fld.SCN_COUNT_SCENE + 16 - p.lscene % 16) % 16)

/-- The sub-lane on which a packet leaves. -/
def nextSub (p : Pkt) : Bool :=
  let c := p.code p.next
  if codeDl c then true
  else if p.next = 0 ∨ codeClass c ≠ codeClass (p.code (p.next - 1)) then false
  else p.sub

/-- Drop a held packet: its buffer is freed as if it had been delivered. -/
def dropHeld (reason : Nat) (i : RxItem) (s : State) : State := freeBuffer i (dropPkt reason i.link i.p s)

/-- Look a transit packet up and send it on, or discard it (R252). -/
def transit (i : RxItem) (s : State) : State :=
  let p := i.p
  let bank := arrivalBank s i.link p
  let c := p.code p.next
  match hopEntry s bank c with
  | none => dropHeld 2 i s
  | some (port, dl) =>
    if dl ≠ codeDl c then dropHeld 2 i s
    else if !linkUsable s port then dropHeld 3 i s
    else enqueue ⟨port, some i, p.leave bank (nextSub p) (p.next + 1)⟩ s

/-- Buffer `b` of link `k`'s VL3 pool holds a packet. -/
def bufferHeld (s : State) (k b : Nat) : Bool := s.fab.rx.any fun i => decide (i.link = k ∧ i.p.vl = 3 ∧ i.buf = b)

/-- The buffer that a packet arriving on link `k` takes (R261, R262): a VL3 packet the first free one of its reservation's, if the
reservation is VALID and of this link. -/
def bufferFor (s : State) (k : Nat) (p : Pkt) : Option Nat :=
  if p.vl ≠ 3 then some 0
  else if s.bit (Fld.FAB_RES_VALID p.res) && decide (s.fld (Fld.FAB_RES_LINK p.res) = k) then
    ((List.range (s.fld (Fld.FAB_RES_COUNT p.res))).map fun i => s.fld (Fld.FAB_RES_FIRST p.res) + i).find? fun b => !bufferHeld s k b
  else none

/-- The packet lies in a receive buffer of link `k`. -/
def heldItem (s : State) (k : Nat) (p : Pkt) : Option RxItem := s.fab.rx.find? fun i => decide (i.link = k ∧ i.p = p)

/-- A packet arrives on link `k` into a receive buffer, or is discarded for want of one (R262). -/
def arrive (k : Nat) (p : Pkt) (s : State) : State :=
  match bufferFor s k p with
  | some b => { s with fab := { s.fab with rx := s.fab.rx ++ [⟨k, p, b⟩] } }
  | none =>
    let s := dropPkt 5 k p s
    { s with out := s.out ++ [.linkWord k 1 (creditKey k p + 2 ^ 16 * p.lscene)] }

/-- A VL0 packet for a service unit also takes a place in the inbound control lane, which requester 7 of the service bus drains (R249,
R324; assumption 73): the lane drains faster than VL0 fills it, so of more than 16 the oldest have left. -/
def intoLane (p : Pkt) (s : State) : State :=
  match p with
  | .ctrl q => { s with fab := { s.fab with lane := (s.fab.lane ++ [q]).drop (s.fab.lane.length + 1 - 16) } }
  | .data _ => s

/-- A packet at the head of its buffer: stale, delivered by `deliver` (none: it waits where it is), or sent on (R252). -/
def routeHeld (i : RxItem) (deliver : State → Option State) (s : State) : State :=
  if s.fab.tx.any fun t => decide (t.held = some i) then pump s
  else if stale s i.p then dropHeld 1 i s
  else if i.p.next = i.p.hops then
    if i.p.dtype ≠ 1 ∨ i.p.dest ≠ s.fld Fld.FAB_NODE_ID then dropHeld 4 i s
    else match deliver s with
      | some s => freeBuffer i (intoLane i.p s)
      | none => s
  else transit i s

/-- Packet `p` of link `k` is handled: it lies in a receive buffer, or it arrives now (assumption 10). -/
def handle (k : LinkId) (p : Pkt) (deliver : State → Option State) (s : State) : State :=
  if linkUsable s k.val then
    match heldItem s k.val p with
    | some i => routeHeld i deliver s
    | none =>
      let s' := arrive k.val p s
      match heldItem s' k.val p with
      | some i => routeHeld i deliver s'
      | none => s'
  else s

/-! ### Launching (R251, R253) -/

/-- R251 rule 1 for a route of 24 codes. -/
def routeRule1 (r : BitVec 144) (hops most : Nat) : Bool := decide (1 ≤ hops ∧ hops ≤ most) && decide (r >>> (6 * hops) = 0)

/-- The first hop that breaks rules 2 to 5 of R251. -/
def routeRules (r : BitVec 144) (hops : Nat) : Option Nat :=
  (List.range hops).find? fun i =>
    let c := routeCode r i
    let cl := codeClass c
    let prev := routeCode r (i - 1)
    let run := (List.range i).filter fun j => decide (cl ≠ 0) &&
      ((List.range (i - j)).all fun d => decide (codeClass (routeCode r (j + d)) = cl))
    (decide (0 < i ∧ cl < codeClass prev) && !(decide (cl = 0 ∧ i + 1 = hops))) ||
      decide (cl = 0 ∧ i ≠ 0 ∧ i + 1 ≠ hops) ||
      (run.any fun j => codeDir (routeCode r j) != codeDir c) ||
      (codeDl c && run.any fun j => codeDl (routeCode r j))

/-- What a launch test finds: the egress port, or the cause of R253 and the hop. -/
inductive Launch where
  | ok (port : Nat)
  | bad (cause hop : Nat)
  deriving DecidableEq, Repr

/-- The source test of R253; `die` is the entry's LINKDIE where there is one, `most` the route limit. -/
def launchTest (s : State) (r : BitVec 144) (hops most : Nat) (die : Option Nat) : Launch :=
  if !routeRule1 r hops most then .bad 1 0
  else match routeRules r hops with
    | some h => .bad 2 h
    | none =>
      match hopEntry s (s.bit Fld.FAB_EPOCH_SRC) (routeCode r 0) with
      | none => .bad 3 0
      | some (port, dl) =>
        if dl ≠ codeDl (routeCode r 0) then .bad 4 0
        else if !linkUsable s port then .bad 5 0
        else match die with
          | some d => if port / 12 = d then .ok port else .bad 6 0
          | none => .ok port

/-- ROUTE_ILLEGAL (R253): the status, the first record, and the fault. `core` is 0x7F for a device engine; `w` marks a SEND in the
wings. -/
def routeIllegal (core cause hop bundle : Nat) (w : Bool) (s : State) : State :=
  let s := if s.bit Fld.FAB_STATUS_ROUTE_ILLEGAL then s
    else (((s.setFld Fld.FAB_ILLEGAL_INFO_CORE core).setFld Fld.FAB_ILLEGAL_INFO_CAUSE cause).setFld
      Fld.FAB_ILLEGAL_INFO_HOP hop).setFld Fld.FAB_ILLEGAL_INFO_BUNDLE bundle
  raise 19 (if core < 96 then { unit := 1, index := core, bundle := bundle, slot := 4, wings := w } else {})
    (leBytes 1 cause ++ leBytes 1 hop) (s.setFld Fld.FAB_STATUS_ROUTE_ILLEGAL 1)

/-- Put packets made here into the egress link's queue, as the source's own first hop leaves them (R252, R255). -/
def launch (port : Nat) (ps : List Pkt) (s : State) : State :=
  ps.foldl (fun s p => enqueue ⟨port, none, p.leave (s.bit Fld.FAB_EPOCH_SRC) (codeDl (p.code 0)) 1⟩ s) s

/-- A data packet made by this device (R246). -/
def mkData (s : State) (vl kind : Nat) (hops : Nat) (route : BitVec 144) (dtype dest score dcore res seq : Nat) (last spec : Bool)
    (status : Nat) (payload : List Byte) : Pkt :=
  .data
    { vl := BitVec.ofNat 2 vl, sub := false, epoch := false, spec := spec, kind := BitVec.ofNat 3 kind
      hops := BitVec.ofNat 5 hops, next := 0, dtype := BitVec.ofNat 4 dtype, dest := BitVec.ofNat 16 dest, stype := 1
      src := BitVec.ofNat 16 (s.fld Fld.FAB_NODE_ID), score := BitVec.ofNat 7 score, dcore := BitVec.ofNat 7 dcore
      res := BitVec.ofNat 10 res, lscene := BitVec.ofNat 4 (s.fld Fld.SCN_COUNT_SCENE), seq := BitVec.ofNat 14 seq
      last := last, status := BitVec.ofNat 3 status, route := route, payload := payload }

/-- The leftovers of a cue (R263): every VL3 packet held is discarded, and every reservation has its CREDITS again. -/
def leftovers (s : State) : State :=
  let held := s.fab.rx.filter fun i => decide (i.p.vl = 3)
  let own := s.fab.tx.filter fun t => decide (t.p.vl = 3 ∧ t.held = none)
  let s := held.foldl (fun s i => dropPkt 6 i.link i.p s) s
  let s := own.foldl (fun s t => dropPkt 6 0x3F t.p s) s
  { s with fab := { s.fab with
      rx := s.fab.rx.filter fun i => decide (i.p.vl ≠ 3)
      tx := s.fab.tx.filter fun t => decide (t.p.vl ≠ 3)
      spans := []
      used := s.fab.used.filter fun e => decide (1024 ≤ e.1) } }

/-- FAB_STATUS.IDLE (R259): no VL1 to VL3 packet in any buffer, and no request of the device's own outstanding. -/
def fabIdle (s : State) (own : Nat) : Bool :=
  decide (own = 0) && (s.fab.rx.all fun i => decide (i.p.vl = 0)) && (s.fab.tx.all fun t => decide (t.p.vl = 0)) &&
    s.fab.reqs.isEmpty && s.fab.shards.isEmpty

/-- A tree packet of link `k` is taken: the buffer that holds it, if one does, is free, and its credit returns. -/
def takeTree (k : Nat) (p : Pkt) (s : State) : State := freeBuffer ((heldItem s k p).getD ⟨k, p, 0⟩) s

/-- Discard a control packet of a reserved kind, or of a tree kind on a link that is not its tree link (R249, R254). -/
def discardCtrl (k : LinkId) (p : Pkt) (s : State) : State :=
  if linkUsable s k.val then dropHeld 7 ((heldItem s k.val p).getD ⟨k.val, p, 0⟩) s else s

/-- PACKET_FORWARD (R252): a packet that link `k` delivers and whose route goes on. A packet whose route ends here is
checked for MISDELIVER and then waits for the row of its kind. -/
def execPacketForward (k : LinkId) (p : Pkt) (s : State) : Out :=
  .next (match p with
    | .data _ => handle k p (fun _ => none) s
    | .ctrl q =>
      if q.ckind = 3 then handle k p (fun _ => none) s
      else if q.ckind = 1 ∨ q.ckind = 2 then s
      else discardCtrl k p s)

/-- CREDIT_RETURN (R261, R263): a credit of a sub-lane, or of a reservation if it carries the current scene's LSCENE. -/
def execCreditReturn (k : LinkId) (vl : BitVec 2) (sub : Bool) (res : BitVec 10) (lscene : BitVec 4) (s : State) : Out :=
  .next (if vl = 3 then
      if lscene.toNat = s.fld Fld.SCN_COUNT_SCENE % 16 then pump (giveCredit res.toNat s) else s
    else pump (giveCredit (4096 + 8 * k.val + 2 * vl.toNat + b2n sub) s))

end Sys2Proof.Machine
end

