-- ==== Sys2Proof/Machine/Xp.lean ====
section
/-! DEFINITION. XP elements: the encoding of an exact accumulator image, its canonical form, and packets of a stream
(R270 to R273). -/

namespace Sys2Proof.Machine

/-- What an XP element carries (R270, R271). -/
structure XpElem where
  empty : Bool
  pinf : Bool
  ninf : Bool
  nan : Bool
  allneg0 : Bool
  nanBlock : Nat
  a : Int
  deriving DecidableEq, Repr

/-- Limb `i` of a 640-bit two's complement value. -/
def limb (a : Int) (i : Nat) : Nat := ((a % 2 ^ 640).toNat / 2 ^ (64 * i)) % 2 ^ 64

/-- The lowest nonzero limb; 10 for the value 0. -/
def firstLimb (a : Int) : Nat := ((List.range 10).find? fun i => decide (limb a i ≠ 0)).getD 10

/-- The fewest limbs from `first` whose sign extension gives the value (R272). -/
def limbCount (a : Int) (first : Nat) : Nat :=
  ((List.range (10 - first)).find? fun n =>
    decide (-(2 : Int) ^ (64 * (first + n + 1) - 1) ≤ a ∧ a < 2 ^ (64 * (first + n + 1) - 1))).getD (9 - first) + 1

/-- The canonical value element (R272). -/
def encodeValue (a : Int) : List Byte :=
  if a = 0 then [0#8]
  else
    let f := firstLimb a
    let n := limbCount a f
    BitVec.ofNat 8 (f + 16 * n) :: (List.range n).flatMap fun i => leBytes 8 (limb a (f + i))

/-- The canonical form of an element (R272). -/
def XpElem.encode (x : XpElem) : List Byte :=
  if x.empty then [0xE0#8]
  else
    let fl := b2n x.pinf + 2 * b2n x.ninf + 4 * b2n x.nan + 8 * b2n x.allneg0
    (if fl = 0 then [] else BitVec.ofNat 8 (15 + 16 * fl) :: (if x.nan then leBytes 6 x.nanBlock else [])) ++ encodeValue x.a

/-- Read a value element under R270: the value and the rest of the bytes. -/
def readValue : List Byte → Option (Int × List Byte)
  | [] => none
  | h :: bs =>
    let f := h.toNat % 16
    let n := h.toNat / 16
    if 9 < f ∨ 10 < f + n ∨ (n = 0 ∧ f ≠ 0) ∨ bs.length < 8 * n then none
    else if n = 0 then some (0, bs)
    else
      let v := leNat (bs.take (8 * n))
      let v : Int := if 2 ^ (64 * n - 1) ≤ v then (v : Int) - 2 ^ (64 * n) else v
      some (v * 2 ^ (64 * f), bs.drop (8 * n))

/-- Read an element under R270 and R271; none where it is malformed. -/
def readElem : List Byte → Option (XpElem × List Byte)
  | [] => none
  | h :: bs =>
    if h = 0xE0 then some (⟨true, false, false, false, false, 2 ^ 48 - 1, 0⟩, bs)
    else if h.toNat % 16 = 15 then
      if h.toNat / 16 = 0 then none
      else
        let nan := h.getLsbD 6
        if nan && decide (bs.length < 6) then none
        else
          (readValue (if nan then bs.drop 6 else bs)).map fun (v, r) =>
            (⟨false, h.getLsbD 4, h.getLsbD 5, nan, h.getLsbD 7, if nan then leNat (bs.take 6) else 2 ^ 48 - 1, v⟩, r)
    else (readValue (h :: bs)).map fun (v, r) => (⟨false, false, false, false, false, 2 ^ 48 - 1, v⟩, r)

/-- Read the `n` elements of a packet, each with whether it is well-formed; reading ends at a malformed one (R273). -/
def readElems : Nat → List Byte → List (Option XpElem)
  | 0, _ => []
  | n + 1, bs =>
    match readElem bs with
    | some (x, r) => some x :: readElems n r
    | none => [none]

/-- FIRST_ELEM, and the elements, of an XP payload (R273). -/
def readXp (payload : List Byte) : Nat × List (Option XpElem) :=
  (leNat (payload.take 2), readElems (leNat ((payload.drop 2).take 2)) (payload.drop 8))

/-- Pad a payload with zeros to a multiple of 64 bytes. -/
def pad64 (bs : List Byte) : List Byte := bs ++ List.replicate ((64 - bs.length % 64) % 64) 0#8

/-- The payload of an XP packet (R273). -/
def xpPayload (first n : Nat) (bs : List Byte) : List Byte := pad64 (leBytes 2 first ++ leBytes 2 n ++ leBytes 4 0 ++ bs)

/-- Pack the elements of a whole stream into payloads of as many whole elements as fit in 4,088 bytes (R273). -/
def packStream : List (List Byte) → Nat → Nat → List Byte → List (List Byte)
  | [], first, n, cur => if n = 0 then [] else [xpPayload first n cur]
  | e :: es, first, n, cur =>
    if n ≠ 0 ∧ 4088 < cur.length + e.length then xpPayload first n cur :: packStream es (first + n) 1 e
    else packStream es first (n + 1) (cur ++ e)

/-- A stream is known by the node and core that send it and its reservation. -/
def streamKey (p : DataPkt) : List Nat := [p.stype.toNat, p.src.toNat, p.score.toNat, p.res.toNat]

/-- The next index a stream expects. -/
def streamNext (ss : List (List Nat × Nat)) (k : List Nat) : Nat := ((ss.find? fun s => decide (s.1 = k)).map (·.2)).getD 0

/-- Set the next index of a stream. -/
def streamSet (ss : List (List Nat × Nat)) (k : List Nat) (n : Nat) : List (List Nat × Nat) :=
  if ss.any fun s => decide (s.1 = k) then ss.map fun s => if s.1 = k then (k, n) else s else ss ++ [(k, n)]

/-- The image of an accumulator as an element (R272, R278). -/
def Accum.toXp (x : Accum) : XpElem := ⟨decide (x.count = 0), x.pinf, x.ninf, x.nan, x.allneg0, x.nanBlock, x.a⟩

/-- Add a contribution to an F640 accumulator (R275, R278). -/
def Accum.combine (x : Accum) (e : XpElem) : Accum :=
  { a := wrapAcc 640 (x.a + e.a)
    count := min (2 ^ 48 - 1) (x.count + b2n (!e.empty))
    pinf := x.pinf || e.pinf, ninf := x.ninf || e.ninf, nan := x.nan || e.nan
    allneg0 := if e.empty then x.allneg0 else x.allneg0 && e.allneg0
    residue := resAdd x.residue (accFold false e.a)
    nanBlock := min x.nanBlock e.nanBlock }

end Sys2Proof.Machine
end

