-- ==== Sys2Proof/Machine/FabricPort.lean ====
section
/-! DEFINITION. The fabric port of a core: SEND, RECV, GATHER and XRED, their anchors and late launches (R127, R130, R166,
R265, R277 to R284), and the packets that reach a core. -/

namespace Sys2Proof.Machine

/-! ### Transfer table entries -/

/-- A field of an entry's XDATA (R277, R281), by its byte within bytes 42 to 63. -/
def XferEntry.xd (e : XferEntry) (at_ n : Nat) : Nat := leNat ((e.xdata.drop at_).take n)

/-- First tile element sent. -/
def XferEntry.outFirst (e : XferEntry) : Nat := e.xd 0 2
/-- Elements sent. -/
def XferEntry.outCount (e : XferEntry) : Nat := e.xd 2 2
/-- First tile element received. -/
def XferEntry.inFirst (e : XferEntry) : Nat := e.xd 4 2
/-- Elements received per inbound stream. -/
def XferEntry.inCount (e : XferEntry) : Nat := e.xd 6 2
/-- Inbound streams. -/
def XferEntry.inStreams (e : XferEntry) : Nat := e.xd 8 1
/-- Reservation of the inbound streams. -/
def XferEntry.resIn (e : XferEntry) : Nat := e.xd 10 2 % 1024
/-- Inbound payload bytes. -/
def XferEntry.inBytes (e : XferEntry) : Nat := e.xd 12 4
/-- Inbound anchor. -/
def XferEntry.inAnchor (e : XferEntry) : Nat := e.xd 16 4
/-- Shard index of a GATHER. -/
def XferEntry.shardIx (e : XferEntry) : Nat := e.xd 0 2 % 1024
/-- Reservation of a GATHER's reply. -/
def XferEntry.replyRes (e : XferEntry) : Nat := e.xd 2 2 % 1024
/-- Route length of a GATHER's reply. -/
def XferEntry.replyHops (e : XferEntry) : Nat := e.xd 2 2 / 1024 % 32
/-- Route of a GATHER's reply. -/
def XferEntry.replyRoute (e : XferEntry) : BitVec 144 := BitVec.ofNat 144 (e.xd 4 18)

/-- The transfer table entry X if its kind is the instruction's (R166). -/
def Core.xferOf (k : Core) (x : BitVec 12) (kind : Nat) : Option XferEntry :=
  (k.xfer x.toNat).bind fun e => if e.kind = kind then some e else none

/-- An X beyond the table, or of another kind, is a failure that the loader rejects (R166): no run-time effect. -/
def guardXfer (c : CoreId) (x : BitVec 12) (kind : Nat) (s : State) (r : State) : Out :=
  if s.live && ((s.core c).xferOf x kind).isNone then .fault .illegalEncoding else .next r

/-! ### Bed switch windows (R127, R130) -/

/-- Payload bytes with packet headers. -/
def wireBytes (b : Nat) : Nat := b + 32 * ((b + 4095) / 4096)

/-- Cycles on a core port. -/
def coreCycles (b : Nat) : Nat := (9 * b + 639) / 640
/-- Cycles on a link-die port. -/
def dieCycles (b : Nat) : Nat := (9 * b + 999) / 1000

/-- Ports, starts and lengths of an outbound transfer launched at cycle `a`. -/
def outSpans (c : CoreId) (die b a : Nat) : List (BedPort × Nat × Nat) :=
  [(.core c.val true, a, coreCycles b), (.die (c.val / 8) die true, a + 32 + coreCycles b - dieCycles b, dieCycles b)]

/-- Ports, starts and lengths of an inbound transfer that starts at cycle `a`. -/
def inSpans (c : CoreId) (die b a : Nat) : List (BedPort × Nat × Nat) :=
  [(.die (c.val / 8) die false, a, dieCycles b), (.core c.val false, a + 32, coreCycles b)]

/-- The spans that a table entry claims at its anchors (R127, R277, R281). -/
def entrySpans (c : CoreId) (e : XferEntry) : List (BedPort × Nat × Nat) :=
  match e.kind with
  | 1 => outSpans c e.linkDie (wireBytes e.bytes) e.anchor
  | 2 => inSpans c e.linkDie (wireBytes e.bytes) e.anchor
  | 3 => outSpans c e.linkDie (wireBytes 64) e.anchor
  | 4 => outSpans c e.linkDie (wireBytes e.bytes) e.anchor ++
      (if e.inCount = 0 then [] else inSpans c e.linkDie (wireBytes e.inBytes) e.inAnchor)
  | _ => []

/-- The entries that the programs of a core's book name. -/
def Core.usedXfers (k : Core) : List XferEntry :=
  match k.book with
  | none => []
  | some b => (b.progs.flatMap (·.uses)).eraseDups.filterMap fun i => b.xfers[i]?

/-- Every span that the loaded set claims: the complement of the free map of R127 (assumption 11). -/
def takenSpans (s : State) : List (BedPort × Nat × Nat) :=
  s.cores.flatMap fun (n, k) => if h : n < 96 then k.usedXfers.flatMap (entrySpans ⟨n, h⟩) else []

/-- Two spans of one port share a 32-cycle window. -/
def spansMeet (a b : BedPort × Nat × Nat) : Bool :=
  decide (a.1 = b.1 ∧ 0 < a.2.2 ∧ 0 < b.2.2 ∧
    a.2.1 / 32 ≤ (b.2.1 + b.2.2 - 1) / 32 ∧ b.2.1 / 32 ≤ (a.2.1 + a.2.2 - 1) / 32)

/-- The first cycle from `a` at which the spans of a launch meet no taken span. -/
def firstFree (taken : List (BedPort × Nat × Nat)) (spans : Nat → List (BedPort × Nat × Nat)) : Nat → Nat → Option Nat
  | 0, _ => none
  | fuel + 1, a =>
    if (spans a).any fun p => taken.any (spansMeet p) then
      firstFree taken spans fuel ((spans a).foldl (fun m p => min m (a + (32 - p.2.1 % 32))) (a + 32))
    else some a

/-! ### The four instructions -/

/-- A transfer begins: its occupancies of the bed switch ports (R127). -/
def claim (ps : List (BedPort × Nat × Nat)) (s : State) : State := { s with fab := { s.fab with spans := s.fab.spans ++ ps } }

/-- A transfer of the entry that its core still has to begin at the anchor. -/
def stillDue (w : PortXfer) (e : XferEntry) : Bool :=
  match e.kind with
  | 2 => !w.inOn
  | 3 => !w.sent
  | 4 => !w.sent || (decide (0 < e.inCount) && !w.inOn)
  | _ => true

/-- Two transfers meet on a bed switch port (R19): the spans meet one that has begun, or the anchored spans of a transfer of a core
in a lower position of the bed, which is served first. -/
def portMeets (c : CoreId) (ps : List (BedPort × Nat × Nat)) (s : State) : Bool :=
  (ps.any fun p => s.fab.spans.any (spansMeet p)) ||
    allCores.any fun o => decide (o.val / 8 = c.val / 8 ∧ o.val < c.val) &&
      (s.core o).port.any fun w => match (s.core o).xfer w.x with
        | some e => stillDue w e && (entrySpans o e).any fun q => ps.any (spansMeet q)
        | none => false

/-- Put a transfer at the fabric port. -/
def addPort (x : Ctx) (i : Instr) (xi addr : Nat) (acc : Option Desc) (treg : Nat) (fence : Bool) (s : State) : State :=
  s.updCore x.c fun k => { k with port := k.port ++
    [⟨i, xi, addr, acc, treg, if inWings x s then x.region else none, x.bundle, x.regs, fence, false, false, [], none, 0, [],
      false, x.seq, x.at_, (0, [])⟩] }

/-- The transfer of instruction kind `kind` and index `x` at the port. -/
def Core.portOf (k : Core) (x : BitVec 12) (kind : Nat) : Option PortXfer :=
  k.port.find? fun w => decide (w.x = x.toNat) && (match w.instr with
    | .send .. => decide (kind = 1) | .recv .. => decide (kind = 2) | .gather .. => decide (kind = 3)
    | .xred .. => decide (kind = 4) | _ => false)

/-- Replace a transfer at the port. -/
def setPort (c : CoreId) (w w' : PortXfer) (s : State) : State :=
  s.updCore c fun k => { k with port := k.port.map fun v => if v = w then w' else v }

/-- Take a transfer from the port. -/
def dropPort (c : CoreId) (w : PortXfer) (s : State) : State :=
  s.updCore c fun k => { k with port := k.port.erase w }

/-- The context of a transfer's instruction. -/
def PortXfer.ctx (w : PortXfer) (c : CoreId) : Ctx := ⟨c, .f, w.regs, w.bundle, w.region, w.seq, w.at_⟩

/-- SEND (R166): the transfer waits at the port for its anchor. In the wings it may go only to a core of a device (R133,
R134). -/
def execSend (c : CoreId) (x : BitVec 12) (ps : BitVec 4) (s : State) : Out :=
  guardXfer c x 1 s (runUnit c .f (.send c x ps) s fun t s =>
    match (s.core c).xferOf x 1 with
    | none => some s
    | some e =>
      let a := (t.regs.pr ps).toNat
      match ownScratchKind s c a e.bytes with
      | some k => some (addressFault c k t.bundle 4 (inWings t s) (scratchLine s c a) s)
      | none =>
        if inWings t s && decide (e.dtype ≠ 1 ∨ 95 < e.dcore) then some (specEscape c t.bundle 4 s)
        else some (addPort t (.send c x ps) x.toNat a none 0 true s))

/-- Check the destination of a RECV or GATHER (R133, R134, R219) and put it at the port. -/
def startInbound (t : Ctx) (i : Instr) (xi a n : Nat) (s : State) : Option State :=
  (checkWrites t [(a, n)] s).bind fun s => some (addPort t i xi a none 0 true s)

/-- RECV (R166, R265): names the destination of an incoming transfer. -/
def execRecv (c : CoreId) (x : BitVec 12) (pd : BitVec 4) (s : State) : Out :=
  guardXfer c x 2 s (runUnit c .f (.recv c x pd) s fun t s =>
    match (s.core c).xferOf x 2 with
    | none => some s
    | some e => startInbound t (.recv c x pd) x.toNat (t.regs.pr pd).toNat e.bytes s)

/-- GATHER (R166, R281): the request waits for the entry's anchor. Inside a region it would leave the wings (R133). -/
def execGather (c : CoreId) (x : BitVec 12) (pd : BitVec 4) (s : State) : Out :=
  guardXfer c x 3 s (runUnit c .f (.gather c x pd) s fun t s =>
    match (s.core c).xferOf x 3 with
    | none => some s
    | some e =>
      if inWings t s then some (specEscape c t.bundle 4 s)
      else startInbound t (.gather c x pd) x.toNat (t.regs.pr pd).toNat e.bytes s)

/-- The ranges of an XRED lie within its F640 tile and do not overlap (R279). -/
def xredLegal (e : XferEntry) (t : Tile) : Bool :=
  !t.c160 && decide (e.outFirst + e.outCount ≤ t.rows * t.cols ∧ e.inFirst + e.inCount ≤ t.rows * t.cols) &&
    !overlaps (e.outFirst, e.outCount) (e.inFirst, e.inCount)

/-- XRED (R166, R278): waits at the drain fence for the tile's multiplies, then for its anchor. -/
def execXred (c : CoreId) (x : BitVec 12) (acc : BitVec 4) (s : State) : Out :=
  guardXfer c x 4 s (runUnit c .f (.xred c x acc) s fun t s =>
    match (s.core c).xferOf x 4, (t.regs.tr acc).bind fun d => (tileFor (s.core c) d).map fun l => (d, l) with
    | some e, some (d, l) =>
      if behindOther t acc s then none
      else if inWings t s then some (specEscape c t.bundle 4 s)
      else if xredLegal e l then
        let shut := decide (0 < l.inflight)
        let s := addPort t (.xred c x acc) x.toNat 0 (some d) acc.toNat (!shut) s
        some (if shut then fenceWait t (.xred c x acc) none s else s)
      else some (operandRange c t.bundle 4 (inWings t s) s)
    | _, _ => if behindOther t acc s then none else some (operandRange c t.bundle 4 (inWings t s) s))

/-! ### Launching -/

/-- Cut bytes into payloads of 4,096 bytes with their SEQ and LAST (R247). -/
def payloads (bs : List Byte) : List (Nat × Bool × List Byte) :=
  let ps := runsOf 4096 bs.length bs
  ps.zipIdx.map fun (p, i) => (i, decide (i + 1 = ps.length), p)

/-- A launch that the source test refuses (R253): no effect, and the core stops. -/
def refuseLaunch (c : CoreId) (w : PortXfer) (cause hop : Nat) (s : State) : State :=
  stopCore c (routeIllegal c.val cause hop w.bundle (inWings (w.ctx c) s) (dropPort c w s))

/-- Launch a SEND at cycle `a` where its data is readable; none while it is not (R127, R130, R129). A packet that would carry a line in
error does not leave (R223; DEDUCED, assumption 65). -/
def launchSend (c : CoreId) (w : PortXfer) (e : XferEntry) (a : Nat) (s : State) : Option State :=
  (readScr (w.ctx c) [(w.addr, e.bytes)] s).bind fun view lost s1 =>
    match launchTest s1 e.route e.hops 24 (some e.linkDie) with
    | .bad cause hop => some (refuseLaunch c w cause hop s1)
    | .ok port =>
      let clean := (payloads (view.bytes w.addr e.bytes)).filter fun (i, _, p) =>
        (linesOf (w.addr + i * 4096) p.length).all fun l => !lost.contains l
      let ps := clean.map fun (i, last, p) =>
        mkData s1 3 0 e.hops e.route e.dtype e.dest c.val e.dcore e.res i last w.region.isSome 0 p
      let s2 := launch port ps (claim (outSpans c e.linkDie (wireBytes e.bytes) a) (dropPort c w s1))
      some (match w.region with
        | some _ =>
          let n : SentRec := ⟨e.dest, e.dcore, false, e.res, ps.length, e.hops, e.route, BitVec.ofNat 4 e.dtype⟩
          s2.updCore c fun k => { k with region := k.region.map (noteSent n) }
        | none => s2)

/-- The 64-byte request of a GATHER (R281). -/
def gatherRequest (c : CoreId) (e : XferEntry) : List Byte :=
  leBytes 2 e.shardIx ++ leBytes 2 e.replyRes ++ leBytes 1 e.replyHops ++ leBytes 1 c.val ++ leBytes 2 0 ++
    leBytes 4 e.bytes ++ leBytes 18 e.replyRoute.toNat ++ List.replicate 34 0#8

/-- Launch the request of a GATHER at cycle `a` (R281). -/
def launchGather (c : CoreId) (w : PortXfer) (e : XferEntry) (a : Nat) (s : State) : State :=
  match launchTest s e.route e.hops 24 (some e.linkDie) with
  | .bad cause hop => refuseLaunch c w cause hop s
  | .ok port =>
    launch port [mkData s 3 1 e.hops e.route e.dtype e.dest c.val 0x7D e.res 0 true false 0 (gatherRequest c e)]
      (claim (outSpans c e.linkDie (wireBytes 64) a) (setPort c w { w with sent := true, inOn := true } s))

/-- The address ranges of elements `first` to `first + n - 1` of an F640 tile. -/
def elemRanges (c : CoreId) (granule first n : Nat) : List (Nat × Nat) :=
  (List.range n).flatMap fun i => [(valAddr c granule false (first + i), 80), (tagAddr c granule false (first + i), 16)]

/-- How many payloads of a stream fit in `n` bytes (R279). -/
def fitIn : Nat → List (List Byte) → Nat
  | _, [] => 0
  | n, p :: ps => if p.length ≤ n then 1 + fitIn (n - p.length) ps else 0

/-- Send payloads of an XRED's stream from SEQ `first` at cycle `a`; `rest` still follow (R278, R279). -/
def sendStream (c : CoreId) (w : PortXfer) (e : XferEntry) (port first : Nat) (now rest : List (List Byte)) (a : Nat) (s : State) : State :=
  let ps := now.zipIdx.map fun (p, i) =>
    mkData s 3 2 e.hops e.route e.dtype e.dest c.val e.dcore e.res (first + i) (rest.isEmpty && decide (i + 1 = now.length)) false 0 p
  launch port ps (claim (outSpans c e.linkDie (wireBytes (now.map (·.length)).sum) a)
    (setPort c w { w with sent := true, rest := (first + now.length, rest) } s))

/-- Launch the outbound stream of an XRED at cycle `a` (R278 step 2): canonical elements, each taking the start state as it is read. What
BYTES does not cover launches late (R279). Correctable words met are counted (R223). -/
def launchXred (c : CoreId) (w : PortXfer) (d : Desc) (e : XferEntry) (a : Nat) (s : State) : State :=
  let rs := elemRanges c d.granule e.outFirst e.outCount
  match firstUncorr s rs with
  | some (at_, inj) => trellisUncorr (w.ctx c) at_ inj (setPort c w { w with bad := true, sent := true } s)
  | none =>
    match launchTest s e.route e.hops 24 (some e.linkDie) with
    | .bad cause hop => refuseLaunch c w cause hop s
    | .ok port =>
      let idx := (List.range e.outCount).map (e.outFirst + ·)
      let pays := packStream (idx.map fun i => (readAcc s c d.granule false i).toXp.encode) 0 0 []
      let s := raiseMany 13 { unit := 1, index := c.val } ((rs.map fun r => s.corrCount r.1 r.2).foldl (· + ·) 0) s
      let s := idx.foldl (fun s i => writeAcc c d.granule false false i Accum.start s) s
      sendStream c w e port 0 (pays.take (fitIn e.bytes pays)) (pays.drop (fitIn e.bytes pays)) a s

/-- Launch what an XRED's BYTES did not cover, at cycle `a` (R130, R279). -/
def launchRest (c : CoreId) (w : PortXfer) (e : XferEntry) (a : Nat) (s : State) : State :=
  match launchTest s e.route e.hops 24 (some e.linkDie) with
  | .bad cause hop => refuseLaunch c w cause hop s
  | .ok port => sendStream c w e port w.rest.1 w.rest.2 [] a s

/-- A packet of reservation `res` for core `c` waits in a receive buffer (R265). -/
def inboundHere (s : State) (c : CoreId) (res : Nat) : Bool :=
  s.fab.rx.any fun i => match i.p with
    | .data p => decide (p.res.toNat = res ∧ p.dcore.toNat = c.val ∧ p.next.toNat = p.hops.toNat ∧ p.vl = 3)
    | .ctrl _ => false

/-- The transfer that an anchor or a late launch of entry X concerns, with its entry. -/
def portWith (c : CoreId) (x : BitVec 12) (s : State) : Option (PortXfer × XferEntry) :=
  match (s.core c).xfer x.toNat with
  | none => none
  | some e => ((s.core c).portOf x e.kind).map fun w => (w, e)

/-- The anchors of an entry that are still to come at cycle `n`; the first of them is the one that falls due. -/
def nextAnchor (e : XferEntry) (n : Nat) : Option Nat :=
  let as := (e.anchor :: if e.kind = 4 ∧ e.inCount ≠ 0 then [e.inAnchor] else []).filter fun a => decide (n ≤ a)
  as.foldl (fun m a => match m with | none => some a | some b => some (min a b)) none

/-- Inbound data of `b` payload bytes begins to move to the core at cycle `a` (R127, R265). -/
def beginIn (c : CoreId) (w : PortXfer) (e : XferEntry) (b a : Nat) (s : State) : State :=
  claim (inSpans c e.linkDie (wireBytes b) a) (setPort c w { w with inOn := true } s)

/-- The inbound side of an XRED begins at its anchor where a packet is there and the ports are free (R19, R278). -/
def xredInAt (c : CoreId) (w : PortXfer) (e : XferEntry) (a : Nat) (s : State) : Bool :=
  decide (a = e.inAnchor ∧ 0 < e.inCount) && !w.inOn && inboundHere s c e.resIn &&
    !portMeets c (inSpans c e.linkDie (wireBytes e.inBytes) a) s

/-- What begins at cycle `a` for a transfer; one that meets another on a bed switch port slips (R19). -/
def anchorAt (c : CoreId) (x : BitVec 12) (a : Nat) (s : State) : State :=
  match portWith c x s with
  | none => s
  | some (w, e) =>
    match e.kind with
    | 1 => if portMeets c (entrySpans c e) s then s else (launchSend c w e a s).getD s
    | 2 => if !w.inOn && inboundHere s c e.res && !portMeets c (entrySpans c e) s then beginIn c w e e.bytes a s else s
    | 3 => if w.sent || portMeets c (entrySpans c e) s then s else launchGather c w e a s
    | _ =>
      let on := xredInAt c w e a s
      let s := if on then beginIn c w e e.inBytes a s else s
      let w' := { w with inOn := w.inOn || on }
      match w'.acc with
      | some d =>
        if decide (a = e.anchor) && w'.fence && !w'.sent && !portMeets c (outSpans c e.linkDie (wireBytes e.bytes) a) s then
          launchXred c w' d e a s
        else s
      | none => s

/-- TRANSFER_ANCHOR (R127): at the entry's anchor the occupancy of the bed switch ports begins; a transfer that is not
ready is late (R130, R265). -/
def execTransferAnchor (c : CoreId) (x : BitVec 12) (s : State) : Out :=
  .next (if s.live then
    match (s.core c).xfer x.toNat with
    | none => s
    | some e => match nextAnchor e s.cycle with
      | none => s
      | some a => anchorAt c x a (advanceTo (s.cycleAt a) s)
  else s)

/-- What a late transfer still has to start, and whether it could: its spans, and the launch. -/
def lateLaunch (c : CoreId) (w : PortXfer) (e : XferEntry) (s : State) :
    Option ((Nat → List (BedPort × Nat × Nat)) × Nat × (Nat → State → Option State)) :=
  match e.kind with
  | 1 => some (outSpans c e.linkDie (wireBytes e.bytes), e.anchor, launchSend c w e)
  | 2 => if !w.inOn && inboundHere s c e.res then
      some (inSpans c e.linkDie (wireBytes e.bytes), e.anchor, fun a s => some (beginIn c w e e.bytes a s)) else none
  | 3 => if w.sent then none
    else some (outSpans c e.linkDie (wireBytes 64), e.anchor, fun a s => some (launchGather c w e a s))
  | _ =>
    if w.rest.2 ≠ [] then
      some (outSpans c e.linkDie (wireBytes (w.rest.2.map (·.length)).sum), e.anchor, fun a s => some (launchRest c w e a s))
    else if w.fence && !w.sent && decide (e.anchor < s.cycle) then
      some (outSpans c e.linkDie (wireBytes e.bytes), e.anchor,
        fun a s => match w.acc with | some d => some (launchXred c w d e a s) | none => none)
    else if !w.inOn && decide (0 < e.inCount) && inboundHere s c e.resIn then
      some (inSpans c e.linkDie (wireBytes e.inBytes), e.inAnchor, fun a s => some (beginIn c w e e.inBytes a s))
    else none

/-- LATE_TRANSFER_LAUNCH (R130, R265): past its anchor, a transfer launches at the first run of windows that the set leaves free, and
that no transfer has claimed meanwhile, once its data is readable. -/
def execLateTransferLaunch (c : CoreId) (x : BitVec 12) (s : State) : Out :=
  .next (if s.live then
    match portWith c x s with
    | none => s
    | some (w, e) =>
      match lateLaunch c w e s with
      | none => s
      | some (spans, anchor, go) =>
        match firstFree (takenSpans s ++ s.fab.spans) spans 900000 (max s.cycle (anchor + 1)) with
        | none => s
        | some a => (go a (advanceTo (s.cycleAt a) s)).getD s
  else s)

/-! ### Packets that reach a core -/

/-- The ADMIT entry that names a reservation in the program that runs (R284). -/
def admitEntry (k : Core) (p : DataPkt) : Option XferEntry :=
  match k.book with
  | none => none
  | some b =>
    let uses := match k.prog.bind fun i => b.progs[i]? with | some q => q.uses | none => []
    (uses.filterMap fun i => b.xfers[i]?).find? fun e => decide (e.kind = 5 ∧ e.res = p.res.toNat)

/-- Place a packet's payload at PD + SEQ × 4,096 (R247). -/
def place (c : CoreId) (w : PortXfer) (p : DataPkt) (s : State) : State :=
  let a := w.addr + p.seq.toNat * 4096
  match ownScratchKind s c a p.payload.length with
  | some k => addressFault c k w.bundle 4 (inWings (w.ctx c) s) (scratchLine s c a) s
  | none =>
    setPort c w { w with
      seqs := if p.seq.toNat ∈ w.seqs then w.seqs else p.seq.toNat :: w.seqs
      lastSeq := if p.last then some p.seq.toNat else w.lastSeq }
      (writeScr (w.ctx c) a p.payload s)

/-- A speculative packet written for the source region that the ADMIT entry names (R284): its lines become pending and
its reservation's count grows; outside the wings area it is discarded with SPEC_ESCAPE. -/
def placeSpec (c : CoreId) (w : PortXfer) (p : DataPkt) (s : State) : State :=
  let a := w.addr + p.seq.toNat * 4096
  let n := p.payload.length
  if !inWingsArea s c a n then
    let first := s.fld Fld.SCN_SPEC_STATUS_ABANDON + s.fld Fld.SCN_SPEC_STATUS_ESCAPE + s.fld Fld.SCN_SPEC_STATUS_EARLY = 0
    let s := if first then s.setFld Fld.SCN_SPEC_STATUS_CORE c.val else s
    raise 6 (coreOrigin c w.bundle 4 false false) [] (s.setFld Fld.SCN_SPEC_STATUS_ESCAPE 1)
  else
    let (dev, core, reg) := match admitEntry (s.core c) p with
      | some e => (e.peer, e.peerCore, e.region)
      | none => (p.src.toNat, p.score.toNat, 0xFFFF)
    let s := place c w p s
    s.updCore c fun k =>
      touchSource dev core reg
        (fun r => { r with written := match r.written.find? fun t => decide (t.1 = p.res.toNat) with
          | some _ => r.written.map fun t => if t.1 = p.res.toNat then (t.1, t.2 + 1) else t
          | none => r.written ++ [(p.res.toNat, 1)] })
        { k with pend :=
            (linesOf a n).foldl (fun m l => SMap.set none m l (some (.src dev core reg))) k.pend }

/-- The core that DCORE names. -/
def pktCore (p : DataPkt) : Option CoreId := if h : p.dcore.toNat < 96 then some ⟨p.dcore.toNat, h⟩ else none

/-- A WRITE that its RECV takes (R247, R265, R284); none while the RECV has not issued or inbound data does not move. -/
def deliverWrite (c : CoreId) (p : DataPkt) (s : State) : Option State :=
  let k := s.core c
  match k.port.find? fun w => w.inOn && (match w.instr, k.xfer w.x with
    | .recv .., some e => decide (e.res = p.res.toNat) | _, _ => false) with
  | none => none
  | some w => some (if p.spec then placeSpec c w p s else place c w p s)

/-- A SHARD reply that its GATHER takes (R282). -/
def deliverShard (c : CoreId) (p : DataPkt) (s : State) : Option State :=
  let k := s.core c
  match k.port.find? fun w => w.inOn && (match w.instr, k.xfer w.x with
    | .gather .., some e => decide (e.replyRes = p.res.toNat) | _, _ => false) with
  | none => none
  | some w => some (place c w p s)

/-- XP_MALFORMED (R276, R278): the status, the first record, and the fault. -/
def xpBad (die ctx elem : Nat) (o : Origin) (s : State) : State :=
  let first := s.fld Fld.XCL_STATUS_RED_FAIL + s.fld Fld.XCL_STATUS_XP_BAD = 0
  let s := if first then ((s.setFld Fld.XCL_INFO_LINKDIE die).setFld Fld.XCL_INFO_CTX ctx).setFld Fld.XCL_INFO_ELEM elem else s
  raise 21 o [] (s.setFld Fld.XCL_STATUS_XP_BAD 1)

/-- A stream that a bad element has ended takes no further element. -/
def deadStream : Nat := 2 ^ 20

/-- Add the elements of one packet to an XRED's IN range (R278 step 3). -/
def addElems (c : CoreId) (w : PortXfer) (d : Desc) (e : XferEntry) (die : Nat) (key : List Nat) :
    Nat → List (Option XpElem) → PortXfer → State → PortXfer × State
  | _, [], w', s => (w', s)
  | i, el :: es, w', s =>
    match el with
    | some v =>
      if i < e.inCount then
        let idx := e.inFirst + i
        let full := decide (2 ^ 48 - 1 < (readAcc s c d.granule false idx).count + b2n (!v.empty))
        let s := if full then s.setFld (Fld.TRL_STATUS_CNT_SAT c) 1 else s
        let s := writeAcc c d.granule false true idx ((readAcc s c d.granule false idx).combine v) s
        addElems c w d e die key (i + 1) es
          { w' with added := w'.added + 1, streams := streamSet w'.streams key (i + 1) } s
      else ({ w' with bad := true, streams := streamSet w'.streams key deadStream },
        xpBad die 0 i (coreOrigin c w.bundle 4 false false) s)
    | none => ({ w' with bad := true, streams := streamSet w'.streams key deadStream },
        xpBad die 0 i (coreOrigin c w.bundle 4 false false) s)

/-- An XP packet that a core's XRED takes (R278). -/
def deliverXp (k : LinkId) (c : CoreId) (p : DataPkt) (s : State) : Option State :=
  let kc := s.core c
  match kc.port.find? fun w => w.inOn && w.fence && (match w.instr, kc.xfer w.x with
    | .xred .., some e => decide (e.resIn = p.res.toNat) | _, _ => false) with
  | none => none
  | some w =>
    match kc.xfer w.x, w.acc with
    | some e, some d =>
      let key := streamKey p
      if streamNext w.streams key = deadStream then some s
      else
        let (first, es) := readXp p.payload
        let (w', s) := addElems c w d e (k.val / 12) key first es w s
        some (setPort c w w' s)
    | _, _ => none

/-- The packet's route ends at a core of this device with this kind. -/
def forCore (p : DataPkt) (kind : Nat) : Bool := decide (p.kind.toNat = kind ∧ p.vl = 3 ∧ p.dcore.toNat < 96)

/-- WRITE (R247): a WRITE packet reaches its destination. -/
def execWrite (k : LinkId) (p : DataPkt) (s : State) : Out :=
  .next (match pktCore p with
    | some c => if forCore p 0 then handle k (.data p) (deliverWrite c p) s else s
    | none => s)

/-- SHARD (R282): a SHARD reply reaches the requesting device. -/
def execShard (k : LinkId) (p : DataPkt) (s : State) : Out :=
  .next (match pktCore p with
    | some c => if forCore p 1 then handle k (.data p) (deliverShard c p) s else s
    | none => s)

/-- XP (R278): an XP packet addressed to a core. -/
def execXp (k : LinkId) (p : DataPkt) (s : State) : Out :=
  .next (match pktCore p with
    | some c => if forCore p 2 then handle k (.data p) (deliverXp k c p) s else s
    | none => s)

/-- Packets SEQ 0 to LAST are all written (R265, R282). -/
def PortXfer.allWritten (w : PortXfer) : Bool :=
  match w.lastSeq with
  | some l => (List.range (l + 1)).all fun i => w.seqs.contains i
  | none => false

/-- RECV_COMPLETE (R265). -/
def execRecvComplete (c : CoreId) (x : BitVec 12) (s : State) : Out :=
  .next (match (s.core c).portOf x 2 with
    | some w => if w.allWritten then dropPort c w s else s
    | none => s)

/-- GATHER_COMPLETE (R282). -/
def execGatherComplete (c : CoreId) (x : BitVec 12) (s : State) : Out :=
  .next (match (s.core c).portOf x 3 with
    | some w => if w.allWritten then dropPort c w s else s
    | none => s)

/-- The fence of an XRED's tile opens in the cycle after the XRED has completed (R107, R278). -/
def settleXred (c : CoreId) (w : PortXfer) (s : State) : State :=
  match w.acc with
  | some d => s.updCore c fun k => k.updTile d.granule fun t => { t with settled := max t.settled (s.cycle + 1) }
  | none => s

/-- An XRED has completed (R278): its stream has left and every inbound contribution has been added. -/
def PortXfer.complete (w : PortXfer) (e : XferEntry) : Bool :=
  w.sent && w.rest.2.isEmpty && !w.bad && decide (w.added = e.inStreams * e.inCount)

/-- XRED_COMPLETE (R278): the stream has left and every inbound contribution has been added. -/
def execXredComplete (c : CoreId) (x : BitVec 12) (s : State) : Out :=
  .next (match (s.core c).portOf x 4, (s.core c).xferOf x 4 with
    | some w, some e =>
      if w.complete e then dropPort c w (settleXred c w s) else s
    | _, _ => s)

/-! ### The fence -/

/-- An instruction leaves the fence, or its replay has ended. -/
def leaveFence (c : CoreId) (f : FenceOp) (s : State) : State := s.updCore c fun k => { k with tWait := k.tWait.erase f }

/-- The fence lets an XRED through in the cycle after the tile's last partial is in the store; its wait is slip (R107, R278). -/
def passXred (c : CoreId) (f : FenceOp) (t : Tile) (s : State) : State :=
  advanceTo (s.cycleAt t.settled) (s.updCore c fun k => { k with fenceSlip := k.fenceSlip + (t.settled - f.entry.at_) })

/-- The tile that an instruction at the fence waits for. -/
def FenceOp.granule (f : FenceOp) : Option Nat := instrTile f.entry.regs f.entry.instr

/-- Proceed with one instruction that waited at the fence or whose replay has run; one that must still wait for a write (R129)
stays there. -/
def releaseOne (c : CoreId) (f : FenceOp) (s : State) : State :=
  let s0 := match f.replay with | some (_, e) => advanceTo (s.cycleAt e) s | none => s
  let s1 := leaveFence c f s0
  let x := f.entry.ctx c .t
  match f.entry.instr with
  | .drain _ acc dst sa sb fmt mode scl keep => (drainStart x f.entry.instr acc dst sa sb fmt mode scl keep f.replay s1).getD s
  | .spill _ acc => (spillStart x f.entry.instr acc f.replay s1).getD s
  | .xred _ xi _ =>
    let s2 := match f.granule.bind (s1.core c).tile with | some t => passXred c f t s1 | none => s1
    match (s2.core c).portOf xi 4 with
    | some w => setPort c w { w with fence := true } s2
    | none => s2
  | _ => s1

/-- The fence is open for an instruction that waits at it. -/
def fenceOpen (k : Core) (f : FenceOp) : Bool :=
  match f.granule.bind k.tile, f.entry.instr with
  | some t, .xred .. => decide (t.inflight = 0)
  | some t, _ => !k.fenceShut t f.entry.seq
  | none, _ => true

/-- FENCE_RELEASE (R107): the first waiting DRAIN, SPILL or XRED whose tile has nothing in flight, or whose replay runs, proceeds at
its cycle. -/
def execFenceRelease (c : CoreId) (s : State) : Out :=
  .next (if s.live then
    match (s.core c).tWait.find? (fenceOpen (s.core c)) with
    | some f => releaseOne c f s
    | none => s
  else s)

end Sys2Proof.Machine
end

