-- ==== Sys2Proof/Machine/Twin.lean ====
section
/-! DEFINITION. Twin mode: comparing the partner's records with the device's own witness runs (R371 to R375). -/

namespace Sys2Proof.Machine

/-- The device marks itself overrunning at the next cue, naming a core (R348, R374). -/
def markOverrun (core : Nat) (s : State) : State :=
  { s with tim := { s.tim with overrunDue := some (match s.tim.overrunDue with | some c => min c core | none => core) } }

/-- A differing digest (R374). -/
def twinMismatch (r : TwinRec) (own : Word) (s : State) : State :=
  let s := raise 25 {} (leBytes 1 r.entry ++ leBytes 2 r.tag ++ leBytes 4 r.step ++ leBytes 8 own.toNat ++ leBytes 8 r.digest.toNat) s
  let s := postNotice 4 (r.entry % 32 + r.step % 2 ^ 48 * 2 ^ 16) s
  let s := if s.bit Fld.XCL_TWIN_STATUS_MISMATCH then s
    else
      ((((s.setFld Fld.XCL_TWIN_MM_ENTRY r.entry).setFld Fld.XCL_TWIN_MM_TAG r.tag).setFld Fld.XCL_TWIN_MM_STEP (r.step % 2 ^ 32)).setFld
        Fld.XCL_TWIN_MM_OWN_DIGEST own.toNat).setFld Fld.XCL_TWIN_MM_PEER_DIGEST r.digest.toNat
  let s := s.setFld Fld.XCL_TWIN_STATUS_MISMATCH 1
  if s.bit Fld.XCL_TWIN_CTRL_HALT_ON then markOverrun 0 s else s

/-- Compare one record with the last 8 runs of its own entry (R373). -/
def twinCompare (r : TwinRec) (s : State) : State :=
  let past := (SMap.get ({} : WitRun) s.wit r.entry).past
  match past.find? fun p => decide (p.1 = r.tag ∧ p.2.1 = r.step) with
  | some p => if p.2.2 = r.digest then s.addSat Fld.XCL_TWIN_COUNT_MATCHED 1 else twinMismatch r p.2.2 s
  | none =>
    let newer := match past.head? with | some p => decide (p.2.1 < r.step) | none => true
    if newer && decide ((s.twin.held.filter fun h => decide (h.entry = r.entry)).length < 8) then
      { s with twin := { s.twin with held := s.twin.held ++ [r] } }
    else s.addSat Fld.XCL_TWIN_COUNT_UNMATCHED 1

/-- Compare again the records held for an entry, now that a run of it has completed (R373). -/
def twinHeld (entry : Nat) (s : State) : State :=
  let mine := s.twin.held.filter fun r => decide (r.entry = entry)
  mine.foldl (fun s r => twinCompare r s) { s with twin := { s.twin with held := s.twin.held.filter fun r => decide (r.entry ≠ entry) } }

/-- A completed witness run waits for the next exchange (R372). -/
def twinDone (r : TwinRec) (s : State) : State :=
  twinHeld r.entry { s with twin := { s.twin with done := (s.twin.done ++ [r]).drop (s.twin.done.length + 1 - 64) } }

/-- SEQ and record in inbox slot `i` (R371, R372). -/
def inboxSlot (s : State) (i : Nat) : Nat × TwinRec :=
  let a := s.fld Fld.XCL_TWIN_INBOX_BASE + 64 * i
  (s.le a 4, ⟨s.le (a + 6) 1 % 32, s.le (a + 8) 2, s.le (a + 16) 8, BitVec.ofNat 64 (s.le (a + 24) 8), s.le (a + 32) 8⟩)

/-- The lowest record number in the inbox that is not below the next expected one. -/
def inboxNext (s : State) : Option (Nat × TwinRec) :=
  ((List.range 64).map (inboxSlot s)).foldl (fun b r =>
    if r.1 < s.twin.expect then b
    else match b with
      | some x => if r.1 < x.1 then some r else some x
      | none => some r) none

/-- Read the new records of the inbox in SEQ order; a gap counts as a record not compared (R373, R375). -/
def twinRead : Nat → State → State
  | 0, s => s
  | fuel + 1, s =>
    match inboxNext s with
    | none => s
    | some (n, r) =>
      let s := if n = s.twin.expect then s else s.addSat Fld.XCL_TWIN_COUNT_UNMATCHED 1
      let s := { s with twin := { s.twin with expect := n + 1, since := s.fld Fld.SCN_COUNT_SCENE } }.setFld Fld.XCL_TWIN_STATUS_SILENT 0
      twinRead fuel (twinCompare r s)

/-- What the health pair does with the inbox at a cue or idle tick (R373). -/
def twinTick (s : State) : State := if s.bit Fld.XCL_TWIN_CTRL_EN && !s.healthHalted then twinRead 64 s else s

/-- EN has changed from 0 to 1: SEQ starts at 1 and the silence count starts (R372, R375, R404). -/
def twinEdge (s : State) : State :=
  let en := s.bit Fld.XCL_TWIN_CTRL_EN
  if en && !s.twin.on then
    { s with twin := { s.twin with on := true, seq := 1, expect := 1, done := [], since := s.fld Fld.SCN_COUNT_SCENE } }
  else { s with twin := { s.twin with on := en } }

/-- SILENT (R375): no new record for 4 × K scenes while EN is 1. -/
def execSilent (s : State) : Out :=
  .next (if s.bit Fld.XCL_TWIN_CTRL_EN &&
      decide (s.twin.since + 4 * s.fld Fld.XCL_TWIN_CTRL_K ≤ s.fld Fld.SCN_COUNT_SCENE) then
    s.setFld Fld.XCL_TWIN_STATUS_SILENT 1
  else s)

end Sys2Proof.Machine
end

