-- ==== Sys2Proof/Machine/Collectives.lean ====
section
/-! DEFINITION. The device's fabric servers: the link-die reducers (R274 to R276), the shard server (R282), the request
server (R247, R259), and the witness reader (R285 to R288). -/

namespace Sys2Proof.Machine

/-! ### Reducers -/

/-- A reducer context; an unlisted one has its slots as every cue leaves them (R275). -/
def State.redCtx (s : State) (i : Nat) : RedCtx := SMap.get {} s.red i

/-- Put a reducer context. -/
def State.setRed (s : State) (i : Nat) (x : RedCtx) : State := { s with red := SMap.set {} s.red i x }

/-- Combine an arriving element into its slot (R275, R276). -/
def RedSlot.combine (r : RedSlot) (e : XpElem) (now : Nat) : RedSlot :=
  { a := wrapAcc 640 (r.a + e.a)
    pinf := r.pinf || e.pinf, ninf := r.ninf || e.ninf, nan := r.nan || e.nan
    allneg0 := if e.empty then r.allneg0 else if r.empty then e.allneg0 else r.allneg0 && e.allneg0
    nanBlock := min r.nanBlock e.nanBlock
    empty := r.empty && e.empty
    residue := resAdd r.residue (accFold false e.a)
    count := r.count + 1
    at_ := now }

/-- The element that a slot emits (R275). -/
def RedSlot.toXp (r : RedSlot) : XpElem := ⟨r.empty, r.pinf, r.ninf, r.nan, r.allneg0, r.nanBlock, r.a⟩

/-- Stop a context on a malformed or misplaced element (R276). -/
def stopRed (i elem : Nat) (s : State) : State :=
  xpBad (i / 64) (i % 64) elem { unit := 4, index := i / 64 } (s.setRed i { s.redCtx i with stopped := true })

/-- Absorb the elements of one packet into context `i` (R275, R276). -/
def absorbXp (i : Nat) (key : List Nat) : Nat → List (Option XpElem) → State → State
  | _, [], s => s
  | e, el :: es, s =>
    let x := s.redCtx i
    let slot : RedSlot := SMap.get {} x.slots e
    match el with
    | none => stopRed i e s
    | some v =>
      if s.fld (Fld.XCL_RCTX_CFG_ELEMS i) < e ∨ e < streamNext x.streams key ∨ s.fld (Fld.XCL_RCTX_CFG_NIN i) ≤ slot.count then
        stopRed i e s
      else
        absorbXp i key (e + 1) es (s.setRed i { x with
          slots := SMap.set {} x.slots e (slot.combine v s.tim.now), streams := streamSet x.streams key (e + 1) })

/-- XP_ABSORB (R274, R275): a packet for a reducer context is absorbed, and its buffer is freed. -/
def execXpAbsorb (k : LinkId) (p : DataPkt) (s : State) : Out :=
  .next (if p.kind = 2 ∧ p.vl = 3 ∧ p.dcore = 0x7F then
    handle k (.data p) (fun s =>
      let r := p.res.toNat
      let i := 64 * (k.val / 12) + s.fld (Fld.XCL_RMAP_CTX r)
      let (first, es) := readXp p.payload
      if !s.bit (Fld.XCL_RMAP_VALID r) then some (stopRed i first s)
      else if (s.redCtx i).stopped then some s
      else some (absorbXp i (streamKey p) first es s)) s
  else s)

/-- The route of a context's output (R290). -/
def redRoute (s : State) (i : Nat) : BitVec 144 :=
  BitVec.ofNat 144 (s.fld (Fld.XCL_RCTX_ROUTE0_CODES i) + 2 ^ 60 * s.fld (Fld.XCL_RCTX_ROUTE1_CODES i) +
    2 ^ 120 * s.fld (Fld.XCL_RCTX_ROUTE2_CODES i))

/-- Launch the packet a context has filled (R253, R275). -/
def flushRed (i : Nat) (last : Bool) (s : State) : State :=
  let x := s.redCtx i
  let hops := s.fld (Fld.XCL_RCTX_OUT_HOPS i)
  match launchTest s (redRoute s i) hops 24 none with
  | .bad cause hop => routeIllegal 0x7F cause hop 0xFFFFFFFF false (s.setRed i { x with stopped := true })
  | .ok port =>
    launch port
      [mkData s 3 2 hops (redRoute s i) (s.fld (Fld.XCL_RCTX_OUT_DTYPE i)) (s.fld (Fld.XCL_RCTX_OUT_DEST i)) 0x7F
        (s.fld (Fld.XCL_RCTX_OUT_DCORE i)) (s.fld (Fld.XCL_RCTX_OUT_RES i)) x.seq last false 0 (xpPayload x.fillFirst x.fillN x.fill)]
      (s.setRed i { x with seq := x.seq + 1, fill := [], fillFirst := x.fillFirst + x.fillN, fillN := 0 })

/-- Add one emitted element to the output stream (R273, R275). -/
def emitElem (i : Nat) (bs : List Byte) (last : Bool) (s : State) : State :=
  let s := if (s.redCtx i).fillN ≠ 0 ∧ 4088 < (s.redCtx i).fill.length + bs.length then flushRed i false s else s
  let x := s.redCtx i
  if x.stopped then s
  else
    let s := s.setRed i { x with fill := x.fill ++ bs, fillN := x.fillN + 1 }
    if last then flushRed i true s else s

/-- The next element of context `i` has every arrival and its turn has come (R275). -/
def redReady (s : State) (i : Nat) : Bool :=
  let x := s.redCtx i
  let n := s.fld (Fld.XCL_RCTX_CFG_NIN i)
  !x.stopped && decide (x.emitted ≤ s.fld (Fld.XCL_RCTX_CFG_ELEMS i) ∧ 0 < n ∧ (SMap.get ({} : RedSlot) x.slots x.emitted).count = n)

/-- REDUCER_EMIT (R275, R276): 40 ns after the last arrival, or after the emission before, the context checks the residue
of its next element and emits it. -/
def execReducerEmit (d : BitVec 2) (x : BitVec 6) (s : State) : Out :=
  .next (
    let i := 64 * d.toNat + x.toNat
    if redReady s i then
      let c := s.redCtx i
      let slot : RedSlot := SMap.get {} c.slots c.emitted
      let s := advanceTo (max slot.at_ c.at_ + 40 * unitNs) s
      let inj := armed s Reg.XCL_INJECT 0
      let res := if inj then 8191 - slot.residue else slot.residue
      let s := if inj then useInj Reg.XCL_INJECT 0 s else s
      if res % 8191 ≠ accFold false slot.a then
        let first := s.fld Fld.XCL_STATUS_RED_FAIL + s.fld Fld.XCL_STATUS_XP_BAD = 0
        let s := if first then ((s.setFld Fld.XCL_INFO_LINKDIE d.toNat).setFld Fld.XCL_INFO_CTX x.toNat).setFld
          Fld.XCL_INFO_ELEM c.emitted else s
        raise 4 { unit := 4, index := d.toNat, injected := inj } []
          ((s.setFld Fld.XCL_STATUS_RED_FAIL 1).setRed i { c with stopped := true })
      else
        let s := s.setRed i { c with emitted := c.emitted + 1, at_ := s.tim.now }
        emitElem i slot.toXp.encode (decide (c.emitted = s.fld (Fld.XCL_RCTX_CFG_ELEMS i)))
          (s.setFld (Fld.XCL_RCTX_STATE_EMITTED i) (c.emitted + 1))
    else s)

/-- Every cue returns each context to its empty slots and counts those whose emission was unfinished (R276). -/
def resetReducers (s : State) : State :=
  let used := (List.range 256).filter fun i => decide (s.redCtx i ≠ {})
  let left := used.filter fun i => decide ((s.redCtx i).emitted ≤ s.fld (Fld.XCL_RCTX_CFG_ELEMS i))
  let s := used.foldl (fun s i => s.setFld (Fld.XCL_RCTX_STATE_EMITTED i) 0) s
  { s.addSat Fld.XCL_LEFTOVER_COUNT left.length with red := [] }

/-! ### Stack accesses of the fabric units -/

/-- Report an uncorrectable stack error met by a unit that is no core (R232). -/
def stackError (a : Nat) (injected : Bool) (s : State) : State :=
  let k := a / stackSize
  raise 14 { unit := 2, index := k, injected := injected } []
    ((s.setFld (Fld.MEM_STATUS_UNCORR k) 1).setFld (Fld.MEM_ERR_ADDR_ADDR k) (a / 64 * 64))

/-- The first line of a stack range with an uncorrectable error. -/
def badLine (s : State) (a n : Nat) : Option Nat := (linesOf a n).findSome? fun l => if s.uncorr (64 * l) 64 then some (64 * l) else none

/-- Count the correctable errors met in a stack range (R232). -/
def countCorr (a n : Nat) (s : State) : State :=
  (linesOf a n).foldl (fun s l => stackCorr (64 * l / stackSize) (s.corrCount (64 * l) 64) s) s

/-! ### The shard server -/

/-- SHARD_REQUEST (R282): a request is taken into the queue of 64, and its buffer is freed; while the queue is full it
waits. -/
def execShardRequest (k : LinkId) (p : DataPkt) (s : State) : Out :=
  .next (if p.kind = 1 ∧ p.vl = 3 ∧ p.dcore = 0x7D then
    handle k (.data p) (fun s =>
      if s.fab.shards.length < 64 then some { s with fab := { s.fab with shards := s.fab.shards ++ [p] } } else none) s
  else s)

/-- SHARD_REFUSED (R282). -/
def refuseShard (ix : Nat) (s : State) : State :=
  let s := if s.bit Fld.XCL_STATUS_SHARD_REFUSED then s else s.setFld Fld.XCL_INFO_SHARD ix
  raise 22 {} (leBytes 2 ix) (s.setFld Fld.XCL_STATUS_SHARD_REFUSED 1)

/-- Send the shard range as SHARD packets (R282); an uncorrectable stack error ends the reply at its line. -/
def sendShard (q : DataPkt) (base bytes : Nat) (s : State) : State :=
  let b := q.payload
  let res := leNat ((b.drop 2).take 2)
  let hops := leNat ((b.drop 4).take 1)
  let core := leNat ((b.drop 5).take 1)
  let route := BitVec.ofNat 144 (leNat ((b.drop 12).take 18))
  match launchTest s route hops 24 none with
  | .bad cause hop => routeIllegal 0x7F cause hop 0xFFFFFFFF false s
  | .ok port =>
    let s := shareLines shardTurns base bytes s
    let bad := badLine s base bytes
    let good := match bad with | some a => a - base | none => bytes
    let all := payloads (s.bytes base bytes)
    let ps := (all.filter fun t => decide (4096 * t.1 + t.2.2.length ≤ good)).map fun (i, last, p) =>
      mkData s 3 1 hops route q.stype.toNat q.src.toNat 0x7F core res i last false 0 p
    let s := launch port ps (countCorr base good s)
    match bad with
    | some a => stackError a (s.uncorrInjected a 64) s
    | none => s

/-- SHARD_SERVE (R282): the oldest request is served, or refused. -/
def execShardServe (s : State) : Out :=
  .next (match s.fab.shards with
    | [] => s
    | q :: qs =>
      let s := { s with fab := { s.fab with shards := qs } }
      let ix := leNat (q.payload.take 2) % 1024
      let bytes := leNat ((q.payload.drop 8).take 4)
      let base := s.fld (Fld.XCL_SHARD_BASE_BASE ix)
      if s.bit (Fld.XCL_SHARD_BASE_VALID ix) && decide (bytes = s.fld (Fld.XCL_SHARD_LEN_BYTES ix)) && s.inStacks base bytes then
        sendShard q base bytes s
      else refuseShard ix s)

/-! ### The request server -/

/-- A request is taken: the server holds up to 64, and a request that comes while QUIESCE is 1 is answered QUIESCED
(R247, R259). -/
def takeRequest (k : LinkId) (p : DataPkt) (s : State) : State :=
  handle k (.data p) (fun s =>
    if s.fab.reqs.length < 64 then
      some { s with fab := { s.fab with reqs := s.fab.reqs ++ [(⟨k.val, .data p, 0⟩, s.bit Fld.FAB_CTRL_QUIESCE)] } }
    else none) s

/-- RD_REQ (R247). -/
def execRdReq (k : LinkId) (p : DataPkt) (s : State) : Out :=
  .next (if p.kind = 3 ∧ p.vl = 1 ∧ p.dcore = 0x7E then takeRequest k p s else s)

/-- WR_REQ (R247). -/
def execWrReq (k : LinkId) (p : DataPkt) (s : State) : Out :=
  .next (if p.kind = 4 ∧ p.vl = 1 ∧ p.dcore = 0x7E then takeRequest k p s else s)

/-- The range of a request lies in the window that the server serves, and its length within the limits (R247). -/
def requestOk (s : State) (p : DataPkt) (a n : Nat) : Bool :=
  let base := s.fld Fld.FAB_REQ_BASE_BASE
  decide (n % 64 = 0 ∧ 64 ≤ n ∧ base ≤ a ∧ a + n ≤ base + s.fld Fld.FAB_REQ_SIZE_SIZE) && s.inStacks a n &&
    (if p.kind = 3 then decide (n ≤ 4096) else decide (n ≤ 4032 ∧ p.payload.length = 64 + n))

/-- The reply to a request (R246, R247), after the source test (R253). No rule gives its route: HOPS and the codes of its hops are free
(assumption 13). -/
def replyTo (q : DataPkt) (kind status : Nat) (payload : List Byte) (s : State) : State :=
  let (w0, s) := drawWord s
  let (w1, s) := drawWord s
  let (w2, s) := drawWord s
  let hops := 1 + w0.toNat % 24
  let route : BitVec 144 := BitVec.ofNat 144 ((w2 ++ (w1 ++ w0)).toNat / 2 ^ 8 % 2 ^ (6 * hops))
  match launchTest s route hops 24 none with
  | .bad cause hop => routeIllegal 0x7F cause hop 0xFFFFFFFF false s
  | .ok port =>
    launch port [mkData s 2 kind hops route q.stype.toNat q.src.toNat 0x7F q.score.toNat 0 q.seq.toNat true false status payload] s

/-- 64 zero bytes. -/
def zero64 : List Byte := List.replicate 64 0#8

/-- Serve one request whose range is allowed: STATUS 0 or 2 (R232, R247). -/
def serveRequest (p : DataPkt) (a n : Nat) (s : State) : State :=
  let s := shareLines serverTurns a n s
  if p.kind = 3 then
    match badLine s a n with
    | some l => replyTo p 5 2 zero64 (stackError l (s.uncorrInjected l 64) s)
    | none => replyTo p 5 0 (s.bytes a n) (countCorr a n s)
  else
    let s := s.store a (p.payload.drop 64)
    replyTo p 6 0 zero64 s

/-- REQUEST_SERVE (R247): the oldest request is completed and answered. -/
def execRequestServe (s : State) : Out :=
  .next (match s.fab.reqs with
    | (⟨_, .data p, _⟩, quiesced) :: rs =>
      let s := { s with fab := { s.fab with reqs := rs } }
      let a := leNat (p.payload.take 6)
      let n := leNat ((p.payload.drop 8).take 4)
      let kind := if p.kind = 3 then 5 else 6
      if quiesced then replyTo p kind 3 zero64 s
      else if !requestOk s p a n then replyTo p kind 1 zero64 s
      else serveRequest p a n s
    | (⟨_, .ctrl _, _⟩, _) :: rs => { s with fab := { s.fab with reqs := rs } }
    | [] => s)

/-! ### Witness digests -/

/-- The witness mix of one element (R285). -/
def witnessMix (key : BitVec 64) (tag : BitVec 16) (step : BitVec 64) (row col : BitVec 24) (v : BitVec 32) : BitVec 64 :=
  (philox key (step.setWidth 32 ++ (tag ++ ((row ++ col) ++ v)))).setWidth 64

/-- Bytes of an element of a plain format. -/
def elemBytes (fmt : BitVec 4) : Nat := match fmtElem fmt with | some el => el.width / 8 | none => 0

/-- Digest of a tensor in memory (R287): rows of stored elements at a stride. -/
def digestOf (s : State) (key : BitVec 64) (fmt : BitVec 4) (tag : BitVec 16) (step : BitVec 64) (base rows cols stride row0 col0 : Nat) :
    BitVec 64 :=
  let w := elemBytes fmt
  (List.range rows).foldl (fun d r =>
    (List.range cols).foldl (fun d j =>
      d + witnessMix key tag step (BitVec.ofNat 24 (row0 + r)) (BitVec.ofNat 24 (col0 + j))
        (BitVec.ofNat 32 (s.le (base + r * stride + j * w) w))) d) 0

/-- Run of a witness entry. -/
def State.witRun (s : State) (w : Nat) : WitRun := SMap.get {} s.wit w

/-- Put the run of a witness entry. -/
def State.setWit (s : State) (w : Nat) (r : WitRun) : State := { s with wit := SMap.set {} s.wit w r }

/-- The digest of an entry's range as it stands, with the latched step. -/
def witDigest (s : State) (w : Nat) : BitVec 64 :=
  digestOf s s.seed (BitVec.ofNat 4 (s.fld (Fld.XCL_WIT_CTRL_FMT w))) (BitVec.ofNat 16 (s.fld (Fld.XCL_WIT_CTRL_TAG w)))
    (BitVec.ofNat 64 (s.fld (Fld.XCL_WIT_STEP_STEP w))) (s.fld (Fld.XCL_WIT_BASE_BASE w))
    (s.fld (Fld.XCL_WIT_SHAPE_ROWS w) + 1) (s.fld (Fld.XCL_WIT_SHAPE_COLS w) + 1) (s.fld (Fld.XCL_WIT_STRIDE_STRIDE w))
    (s.fld (Fld.XCL_WIT_ORIGIN_ROW0 w)) (s.fld (Fld.XCL_WIT_ORIGIN_COL0 w))

/-- The entry may start: a plain format, its coordinates within 2^24 and its rows within fitted stacks (R288, R291). -/
def witLegal (s : State) (w : Nat) : Bool :=
  let rows := s.fld (Fld.XCL_WIT_SHAPE_ROWS w)
  let cols := s.fld (Fld.XCL_WIT_SHAPE_COLS w)
  let n := (cols + 1) * elemBytes (BitVec.ofNat 4 (s.fld (Fld.XCL_WIT_CTRL_FMT w)))
  fmtPlain (BitVec.ofNat 4 (s.fld (Fld.XCL_WIT_CTRL_FMT w))) &&
    decide (s.fld (Fld.XCL_WIT_ORIGIN_ROW0 w) + rows ≤ 2 ^ 24 ∧ s.fld (Fld.XCL_WIT_ORIGIN_COL0 w) + cols ≤ 2 ^ 24) &&
    s.inStacks (s.fld (Fld.XCL_WIT_BASE_BASE w)) (rows * s.fld (Fld.XCL_WIT_STRIDE_STRIDE w) + n)

/-- A run that is abandoned (R288). -/
def abandonWit (w : Nat) (s : State) : State :=
  if s.bit (Fld.XCL_WIT_STATE_RUNNING w) then
    ((s.setFld (Fld.XCL_WIT_STATE_RUNNING w) 0).setFld (Fld.XCL_WIT_STATE_INCOMPLETE w) 1).setFld Fld.XCL_STATUS_WIT_INCOMPLETE 1
  else s

/-- WITNESS_RUN_START (R288): a VALID entry starts at the cue that starts a scene at its TRIG position. -/
def execWitnessRunStart (w : BitVec 5) (s : State) : Out :=
  .next (
    let w := w.toNat
    if s.tim.sceneOn && !s.healthHalted && s.bit (Fld.XCL_WIT_CTRL_VALID w) && decide (s.fld (Fld.XCL_WIT_CTRL_TRIG w) = s.fld Fld.SCN_SEQ_POS) &&
        decide ((s.witRun w).scene ≠ some (s.fld Fld.SCN_COUNT_SCENE)) then
      let s := abandonWit w s
      let s := s.setWit w { s.witRun w with scene := some (s.fld Fld.SCN_COUNT_SCENE) }
      if witLegal s w then
        let s := (((s.setFld (Fld.XCL_WIT_STEP_STEP w) (s.fld Fld.SCN_STEP_STEP)).setFld (Fld.XCL_WIT_STATE_DONE w) 0).setFld
          (Fld.XCL_WIT_STATE_UNCORR w) 0).setFld (Fld.XCL_WIT_STATE_RUNNING w) 1
        s.setWit w { s.witRun w with digest0 := witDigest s w }
      else (s.setFld (Fld.XCL_WIT_STATE_INCOMPLETE w) 1).setFld Fld.XCL_STATUS_WIT_INCOMPLETE 1
    else s)

/-- The ranges that a run reads: the element bytes of each row (R288). -/
def witRanges (s : State) (w : Nat) : List (Nat × Nat) :=
  let n := (s.fld (Fld.XCL_WIT_SHAPE_COLS w) + 1) * elemBytes (BitVec.ofNat 4 (s.fld (Fld.XCL_WIT_CTRL_FMT w)))
  (List.range (s.fld (Fld.XCL_WIT_SHAPE_ROWS w) + 1)).map fun r =>
    (s.fld (Fld.XCL_WIT_BASE_BASE w) + r * s.fld (Fld.XCL_WIT_STRIDE_STRIDE w), n)

/-- WITNESS_RUN_DONE (R288): the run ends with its digest, or UNCORR; while an entry of a lower number runs, that one is served. A range
that has changed since the trigger leaves the digest undefined: a free value. -/
def execWitnessRunDone (w : BitVec 5) (s : State) : Out :=
  .next (
    let w := w.toNat
    if s.bit (Fld.XCL_WIT_STATE_RUNNING w) && !s.healthHalted && !((List.range w).any fun v => s.bit (Fld.XCL_WIT_STATE_RUNNING v)) then
      let s := s.setFld (Fld.XCL_WIT_STATE_RUNNING w) 0
      match (witRanges s w).findSome? fun r => badLine s r.1 r.2 with
      | some a =>
        stackError a (s.uncorrInjected a 64) ((s.setFld (Fld.XCL_WIT_STATE_UNCORR w) 1).setFld Fld.XCL_STATUS_WIT_UNCORR 1)
      | none =>
        let d := witDigest s w
        let s := (witRanges s w).foldl (fun s r => countCorr r.1 r.2 s) s
        let (d, s) := if d = (s.witRun w).digest0 then (d, s) else drawWord s
        let s := (((s.setReg (Reg.XCL_WIT_DIGEST w) d).setFld (Fld.XCL_WIT_STATE_DONE w) 1).setFld
          (Fld.XCL_WIT_STATE_INCOMPLETE w) 0).setFld (Fld.XCL_WIT_STATE_SCENE w) (s.fld Fld.SCN_COUNT_SCENE)
        let run := s.witRun w
        let past := ((s.fld (Fld.XCL_WIT_CTRL_TAG w), s.fld (Fld.XCL_WIT_STEP_STEP w), d) :: run.past).take 8
        let s := (s.setWit w { run with past := past }).setFld Fld.XCL_STATUS_WIT_DONE 1
        twinDone ⟨w, s.fld (Fld.XCL_WIT_CTRL_TAG w), s.fld (Fld.XCL_WIT_STEP_STEP w), d, s.fld Fld.SCN_COUNT_SCENE⟩ s
    else s)

end Sys2Proof.Machine
end

