-- ==== Sys2Proof/Machine/Bus.lean ====
section
/-! DEFINITION. The service bus: register writes and their apply classes (R10, R11, R322, R323), register and window reads
(R99, R135, R219, R220, R232), and the arbiter (R324 to R327). -/

namespace Sys2Proof.Machine

/-- The service die runs: both supplies stand, PERST# is not asserted and the device is not in PS4 (R314, R416). -/
def State.awake (s : State) : Bool := s.pwr.supplied && !s.pwr.perst && decide (s.fld Fld.PWR_STATE_PS ≠ 4)

/-- Start-up has ended in a power state and the device has not been turned off: cues, idle ticks and scans occur (R398). -/
def State.ready (s : State) : Bool := s.awake && decide (s.fld Fld.SMG_BOOT_STAGE = 4)

/-- BAR0 and BAR2 are decoded: from the release of the Stage Manager on, outside D3hot (R294, R399). -/
def State.barOpen (s : State) : Bool := s.awake && s.pwr.released && !s.bit Fld.HST_STATUS_D3HOT

/-! ### Status of the bus (R330) -/

/-- Record a condition of SVC_STATUS and the requester and address of the first one. -/
def svcNote (f : Fld) (req a : Nat) (s : State) : State :=
  let s := if s.fld Fld.SVC_STATUS_WINDOW + s.fld Fld.SVC_STATUS_UNASSIGNED + s.fld Fld.SVC_STATUS_STACK_UNCORR +
      s.fld Fld.SVC_STATUS_X_WRITE = 0 then
    (s.setFld Fld.SVC_ERR_INFO_REQ req).setFld Fld.SVC_ERR_INFO_ADDR a
  else s
  s.setFld f 1

/-! ### Writes held in shadow (R322, R323) -/

/-- A pending write is to field `f`. -/
def PendW.on (p : PendW) (f : Fld) : Bool := decide (p.reg = f.reg ∧ p.lo = f.lo)

/-- The value a field will have: what is pending, else what is in force. -/
def State.eff (s : State) (f : Fld) : Nat :=
  match (s.pendT ++ s.pendQ).find? fun p => p.on f with
  | some p => p.val
  | none => s.fld f

/-- Hold a write in the shadow of class T or Q; the last write to a field stands. -/
def holdWrite (q : Bool) (f : Fld) (v : Nat) (s : State) : State :=
  let w : PendW := ⟨f.reg, f.lo, f.w, v⟩
  if q then { s with pendQ := (s.pendQ.filter fun p => !p.on f) ++ [w] }
  else { s with pendT := (s.pendT.filter fun p => !p.on f) ++ [w] }

/-! ### Refusals at the write (R322) -/

/-- What a field's own range rule says of a value: it is taken, perhaps changed, or refused; with the status bits set. -/
inductive Verdict where
  | keep (v : Nat) (flags : List Fld)
  | refuse (flags : List Fld)
  deriving DecidableEq, Repr

/-- Refuse unless the condition holds. -/
def needs (ok : Bool) (v : Nat) (flags : List Fld) : Verdict := if ok then .keep v [] else .refuse flags

/-- The K-links of fitted sites as a mask. -/
def fittedLinks (s : State) : Nat := 2 ^ (12 * s.linkDies) - 1

/-- The frame overflow region may be this (R180). -/
def ovfLegal (s : State) (base pages : Nat) : Bool :=
  decide (base % 2048 = 0 ∧ pages ≤ 1048576) && (decide (pages = 0) || s.inStacks base (2048 * pages))

/-- The scale history region may be this (R211). -/
def histLegal (s : State) (base count : Nat) : Bool :=
  decide (base % 128 = 0 ∧ count ≤ 65536) && decide (base < stackSize * s.nStacks) && (decide (count = 0) || s.inStacks base (128 * count))

/-- The index of a register in an array of 8-byte registers from `base`, `n` of them. -/
def regIndex (base n reg : Nat) : Option Nat := if base ≤ reg ∧ reg < base + 8 * n then some ((reg - base) / 8) else none

/-- The core whose block holds a register, and the offset in it. -/
def coreReg (a : Nat) : Option (CoreId × Nat) :=
  if h : 0xFF0001000000 ≤ a ∧ a < 0xFF0001000000 + 96 * 0x10000 then
    some (⟨(a - 0xFF0001000000) / 0x10000, by omega⟩, (a - 0xFF0001000000) % 0x10000)
  else none

/-- The range rules of single fields: R25, R49, R74, R180, R211, R216, R269, R308, R311, R329, R352, R354, R355, R377. -/
def fieldRule (s : State) (a lo v : Nat) : Verdict :=
  let f : Fld := ⟨a, lo, 1⟩
  let is := fun (g : Fld) => decide (f.reg = g.reg ∧ f.lo = g.lo)
  if is Fld.SCN_LEN_LEN then needs (decide (72000 ≤ v ∧ v ≤ 14400000 ∧ v % 360 = 0)) v [Fld.SCN_STATUS_LEN_INVALID]
  else if is Fld.TIM_CUE_PARENT_PORT then needs (decide (v = 0x3F ∨ v < 12 * s.linkDies)) v [Fld.TIM_STATUS_TREE_EMPTY]
  else if is Fld.TIM_CUE_CHILD_MASK then
    let m := v &&& fittedLinks s
    .keep m (if m = v then [] else [Fld.TIM_STATUS_TREE_EMPTY])
  else if is Fld.CFG_NC_CAP then needs (decide (v ≠ 0)) v []
  else if is Fld.CFG_HIST_BASE_BASE then needs (histLegal s v (s.eff Fld.CFG_HIST_COUNT)) v [Fld.CFG_HIST_INVALID]
  else if is Fld.CFG_HIST_COUNT then needs (histLegal s (s.eff Fld.CFG_HIST_BASE_BASE) v) v [Fld.CFG_HIST_INVALID]
  else if is Fld.WLT_CTRL_STEPS then needs (decide (v ≠ 0)) v []
  else if is Fld.HST_CPL_CTRL_LOG2 then needs (decide (v = 0 ∨ (6 ≤ v ∧ v ≤ 16))) v []
  else if is Fld.HST_TEL_BASE_BASE then
    needs (decide (v % 2 ^ 28 = 0) && s.inStacks v (2 ^ 28)) v [Fld.HST_STATUS_TEL_INVALID]
  else if is Fld.PWR_BUDGET_WATTS then needs (decide (1000 ≤ v ∧ v ≤ 3600)) v []
  else if is Fld.RHS_CTRL_INTERVAL then needs (decide (4096 ≤ v ∧ v ≤ 1048576)) v []
  else if is Fld.XCL_TWIN_CTRL_K then needs (decide (16 ≤ v ∧ v ≤ 1048575)) v []
  else if is (Fld.FLT_SRC_CFG_SUSPECT 23) then .keep 1 []
  else if Reg.FLT_SRC_CFG 1 ≤ a ∧ a ≤ Reg.FLT_SRC_CFG 25 ∧ lo = 16 then needs (decide (v ≠ 0)) v []
  else if Reg.FRW_IN_CFG 0 ≤ a ∧ a ≤ Reg.FRW_IN_CFG 4 ∧ lo = 0 then needs (decide (v ≤ 24)) v []
  else if Reg.KL_CTRL 0 ≤ a ∧ a ≤ Reg.KL_CTRL 47 ∧ lo = 1 then needs (decide (v ≠ 0)) v []
  else match coreReg a with
    | some (c, _) =>
      if is (Fld.CFR_OVF_BASE_BASE c) then needs (ovfLegal s v (s.eff (Fld.CFR_OVF_SIZE_PAGES c))) v [Fld.CFR_STATUS_OVF_INVALID c]
      else if is (Fld.CFR_OVF_SIZE_PAGES c) then needs (ovfLegal s (s.eff (Fld.CFR_OVF_BASE_BASE c)) v) v [Fld.CFR_STATUS_OVF_INVALID c]
      else .keep v []
    | none => .keep v []

/-- Granules of a reducer context (R290). -/
def rctxGranules (elems : Nat) : Nat := (elems + 1 + 1023) / 1024

/-- A context write is legal: fitted site, granules below 256, none shared with another VALID context of the die (R290). -/
def rctxLegal (s : State) (i : Nat) (v : Word) : Bool :=
  let g := bitsGet v 18 8
  let n := rctxGranules (bitsGet v 0 14)
  decide (i / 64 < s.linkDies ∧ g + n ≤ 256) &&
    ((List.range 64).all fun c =>
      let j := 64 * (i / 64) + c
      let o := s.eff (Fld.XCL_RCTX_CFG_GRANULE j)
      let m := rctxGranules (s.eff (Fld.XCL_RCTX_CFG_ELEMS j))
      decide (j = i ∨ s.eff (Fld.XCL_RCTX_CFG_VALID j) = 0 ∨ o + m ≤ g ∨ g + n ≤ o))

/-- Refusals of a whole register write: the status bits it sets, or none where it may go on (R261, R290, R405). -/
def regRule (s : State) (a : Nat) (v : Word) : Option (List Fld) :=
  if a = Reg.SCN_DBG_HALT0 ∨ a = Reg.SCN_DBG_HALT1 then
    if !(s.fld Fld.SDR_DEBUG_SCOPE).testBit 1 ∨ s.fld Fld.PWR_STATE_PS = 3 ∨ s.fld Fld.PWR_STATE_PS = 4 then
      some [Fld.SCN_DBG_HALT1_DENIED]
    else none
  else if Reg.FAB_RES 0 ≤ a ∧ a ≤ Reg.FAB_RES 1023 then
    if 256 < bitsGet v 6 8 + bitsGet v 14 8 then some [Fld.FAB_STATUS_RES_INVALID] else none
  else
    let i := (a - Reg.XCL_RCTX_CFG 0) / 0x1000 * 64 + (a - Reg.XCL_RCTX_CFG 0) % 0x1000 / 0x40
    if Reg.XCL_RCTX_CFG 0 ≤ a ∧ i < 256 ∧ a = Reg.XCL_RCTX_CFG i then
      if rctxLegal s i v then none else some [Fld.XCL_STATUS_RCTX_INVALID]
    else none

/-- Set a list of one-bit status fields. -/
def setBits (fs : List Fld) (s : State) : State := fs.foldl (fun s f => s.setFld f 1) s

/-- The register belongs to a sub-block of an empty site, which reads zero and ignores writes (R235, R269, R319). -/
def emptySite (s : State) (a : Nat) : Bool :=
  (decide (0xFF00000B0100 ≤ a ∧ a < 0xFF00000B3100) && !decide ((a - 0xFF00000B0100) / 0x100 < 12 * s.linkDies)) ||
  (decide (0xFF00000F0100 ≤ a ∧ a < 0xFF00000F0D00) && !decide ((a - 0xFF00000F0100) / 0x100 < s.nStacks)) ||
  (let i := (a - Reg.PWR_RAIL 0) / 8
   decide (Reg.PWR_RAIL 0 ≤ a ∧ i < 113) &&
    ((decide (96 ≤ i ∧ i < 108) && !decide (i - 96 < s.nStacks)) || (decide (108 ≤ i ∧ i < 112) && !decide (i - 108 < s.linkDies))))

/-! ### MSI-X (R307, R311) -/

/-- The vector's mask bit in its table entry. -/
def vectorMasked (s : State) (v : Nat) : Bool := (s.reg (Reg.HST_MSIX (2 * v + 1))).getLsbD 32

/-- A vector's message is sent, or stays pending while its entry is masked; none is sent in D3hot (R294, R307). -/
def sendMsix (v : Nat) (s : State) : State :=
  if s.bit Fld.HST_STATUS_D3HOT then s
  else if vectorMasked s v then s.setReg Reg.HST_PBA (s.reg Reg.HST_PBA ||| (1#64 <<< v))
  else
    { s.setReg Reg.HST_PBA (s.reg Reg.HST_PBA &&& ~~~(1#64 <<< v)) with
      out := s.out ++ [.msix v (s.reg (Reg.HST_MSIX (2 * v))).toNat (bitsGet (s.reg (Reg.HST_MSIX (2 * v + 1))) 0 32)] }

/-- A vector that is pending and no longer masked sends its message. -/
def unmaskMsix (v : Nat) (s : State) : State :=
  if (s.reg Reg.HST_PBA).getLsbD v && !vectorMasked s v then sendMsix v s else s

/-! ### One write -/

/-- DISCARD_Q (R323): every pending Q write is cleared at once. -/
def discardPending (s : State) : State := { s with pendQ := [] }.setFld Fld.SMG_APPLY_Q_DISCARDED 1

/-- A write of value `x` to one field (R10, R322). -/
def writeField (req a : Nat) (r : FieldRow) (x : Nat) (s : State) : State :=
  let f : Fld := ⟨a, r.lo, r.w⟩
  match r.apply with
  | .x => if x = s.fld f then s else svcNote Fld.SVC_STATUS_X_WRITE req a s
  | .now =>
    match r.acc with
    | .ro => s
    | .w1c => s.setFld f ((List.range r.w).foldl (fun n i => if (s.fld f).testBit i && !x.testBit i then n + 2 ^ i else n) 0)
    | .wo => if x = 1 ∧ f.reg = Fld.SMG_APPLY_DISCARD_Q.reg ∧ f.lo = Fld.SMG_APPLY_DISCARD_Q.lo then discardPending s else s
    | .rw => s.setFld f x
  | c =>
    match r.acc with
    | .ro => s
    | .wo => if x = 0 then s else holdWrite (decide (c = .q)) f x s
    | _ =>
      match fieldRule s a r.lo x with
      | .keep v flags => holdWrite (decide (c = .q)) f v (setBits flags s)
      | .refuse flags => setBits flags s

/-- A write takes effect at once, without a shadow: the W1C bits of a register. -/
def FieldRow.atOnce (r : FieldRow) : Bool := decide (r.acc = .w1c)

/-- An 8-byte register write over the service bus (R220, R322). Start-up that stopped at an assembly mismatch ignores it
(R401). -/
def writeReg (req a : Nat) (v : Word) (s : State) : State :=
  if s.fld Fld.SMG_BOOT_STAGE = 5 then s
  else match regAt a with
    | none => svcNote Fld.SVC_STATUS_UNASSIGNED req a s
    | some (r, _) =>
      if emptySite s a then s
      else
        let field := fun (s : State) (f : FieldRow) => writeField req a f (bitsGet v f.lo f.w) s
        let s := (r.fields.filter FieldRow.atOnce).foldl field s
        match regRule s a v with
        | some flags => setBits flags s
        | none => (r.fields.filter fun f => !f.atOnce).foldl field s

/-- A 4-byte write to the MSI-X table (R311). -/
def writeMsix4 (a : Nat) (x : Nat) (s : State) : State :=
  s.setFld ⟨a / 8 * 8, if a % 8 = 4 then 32 else 0, 32⟩ x

/-! ### Reads -/

/-- The cycle budget B (R26). -/
def budgetOf (len d : Nat) : Nat := let l := len / max d 1; l - (1024 + l / 8192)

/-- Fields whose value follows from the rest of the state when they are read. -/
def derived (s : State) (a : Nat) : List (Fld × Nat) :=
  if a = Reg.SCN_BUDGET then [(Fld.SCN_BUDGET_B, budgetOf (s.fld Fld.SCN_LEN_LEN) (s.fld Fld.PWR_STATE_DIVIDER))]
  else if a = Reg.SCN_OVR_INFO then
    [(Fld.SCN_OVR_INFO_LATE, match s.tim.late with | some l => min (2 ^ 24 - 1) ((l.upTo - l.cue) / l.div) | none => 0)]
  else if a = Reg.SMG_APPLY then
    [(Fld.SMG_APPLY_T_PENDING, b2n !s.pendT.isEmpty), (Fld.SMG_APPLY_Q_PENDING, b2n !s.pendQ.isEmpty),
     (Fld.SMG_APPLY_Q_COUNT, min 65535 s.pendQ.length)]
  else if a = Reg.FAB_STATUS then [(Fld.FAB_STATUS_IDLE, b2n (fabIdle s s.eng.reqs.length))]
  else if a = Reg.FLT_STATUS then
    [(Fld.FLT_STATUS_INJ_ARMED, b2n !s.inj.isEmpty), (Fld.FLT_STATUS_FLAGGED, b2n (s.fld Fld.FLT_FUSE_COUNT != 0))]
  else if a = Reg.HST_CMD then [(Fld.HST_CMD_LONG_SEQ, match s.host.long with | some l => l.seq | none => 0)]
  else if a = Reg.PWR_STATE then [(Fld.PWR_STATE_BUSY, b2n (s.pwr.step.isSome || s.pwr.waits))]
  else if a = Reg.RHS_STATUS then [(Fld.RHS_STATUS_RUNNING, b2n !s.rhs.running.isEmpty)]
  else if a = Reg.SCN_DBG_HALT1 then
    [(Fld.SCN_DBG_HALT1_ACTIVE, b2n (s.fld Fld.SCN_DBG_HALT0_CORES + s.fld Fld.SCN_DBG_HALT1_CORES != 0))]
  else if a = Reg.TIM_NEXT_CUE then
    [(Fld.TIM_NEXT_CUE_TIME, match s.tim.announced.bind (·.nextCue) with | some t => t | none => 2 ^ 64 - 1)]
  else if a = Reg.SCN_CKP then
    [(Fld.SCN_CKP_STATE, match s.eng.ckp with
        | none => 0
        | some j => if j.snap.isNone then 1 else if j.manifest.isEmpty then 2 else 3),
     (Fld.SCN_CKP_SECTION, match s.eng.ckp with | some j => j.cur | none => 0)]
  else if a = Reg.SDR_FW then [(Fld.SDR_FW_COMMIT_BUSY, b2n s.door.commit.isSome)]
  else match regIndex (Reg.FAB_HOPMAP 0) 128 a with
  | some i =>
    let port := s.fld (Fld.FAB_HOPMAP_PORT i)
    if port < 12 * s.linkDies ∧ port < 48 then [] else [(Fld.FAB_HOPMAP_VALID i, 0)]
  | none => match coreReg a with
    | some (c, 0x50) =>
      let k := s.core c
      [(Fld.TRL_USE_GRANULES c, (k.tiles.map fun t => granulesOf t.c160 t.rows t.cols).sum), (Fld.TRL_USE_TILES c, k.tiles.length)]
    | some (c, 0x1018) => [(Fld.CFR_USE_FRAME c, (s.core c).pagesHeld.1), (Fld.CFR_USE_OVF c, (s.core c).pagesHeld.2)]
    | _ => []

/-- What a register reads as: reserved bits and WO fields zero (R10, R11), derived fields as they follow. -/
def readReg (s : State) (a : Nat) : Word :=
  if emptySite s a then 0 else (derived s a).foldl (fun v (p : Fld × Nat) => bitsPut v p.1.lo p.1.w p.2) (s.reg a)

/-- Core `c` is in debug halt (R405). -/
def dbgHalted (s : State) (c : Nat) : Bool :=
  if c < 64 then (s.fld Fld.SCN_DBG_HALT0_CORES).testBit c else (s.fld Fld.SCN_DBG_HALT1_CORES).testBit (c - 64)

/-- The windows of a core are served (R99): debug halt, or PS2 or below. -/
def windowOpen (s : State) (c : Nat) : Bool :=
  decide (s.fld Fld.PWR_STATE_PS = 2 ∨ s.fld Fld.PWR_STATE_PS = 3) || dbgHalted s c

/-- A scratchpad line is pending for a region (R135). -/
def linePending (s : State) (c a : Nat) : Bool :=
  if h : c < 96 then (SMap.get none (s.core ⟨c, h⟩).pend (a / 64)).isSome else false

/-- What a window read meets in the code words of core `c` (R223): correctable words are counted, and an uncorrectable one raises
SRAM_UNCORR; no instruction reads, so no core stops (assumption 72). -/
def windowErrors (c : CoreId) (scr : Bool) (a n : Nat) (s : State) : State :=
  let s1 := if scr then sramCorr c (s.corrCount a n) s else storeCorr c (s.corrCount a n) s
  match firstUncorr s [(a, n)] with
  | some (_, injected) => raise 12 (coreOrigin c 0xFFFFFFFF 0xFF injected false) [] (s1.setFld (Fld.SPD_STATUS_UNCORR c) 1)
  | none => s1

/-- Read from a window of core `c`: zero where it is not served (R99). While the cores are power-gated, what it holds is
lost: free bytes (R314, R321). -/
def readWindow (ok : Bool) (c : Nat) (scr : Bool) (req a n : Nat) (s : State) : List Byte × State :=
  if !ok then (List.replicate n 0#8, svcNote Fld.SVC_STATUS_WINDOW req a s)
  else if s.stacksRest then drawBytes n s
  else (s.bytes a n, if h : c < 96 then windowErrors ⟨c, h⟩ scr a n s else s)

/-- Write to a window of a core: refused where it is not served, and lost while the cores are power-gated. -/
def writeWindow (ok : Bool) (req a : Nat) (bs : List Byte) (s : State) : State :=
  if !ok then svcNote Fld.SVC_STATUS_WINDOW req a s else if s.stacksRest then s else s.store a bs

/-- Read `n` bytes at `a` over the bus, within one line, once the target serves it: the bytes, and the conditions met. -/
def busReadNow (req a n : Nat) (s : State) : List Byte × State :=
  match placeOf s.nStacks a with
  | .regs =>
    let words := (List.range ((n + 7) / 8)).map fun i => a / 8 * 8 + 8 * i
    let s' := words.foldl (fun s w => if (regAt w).isNone then svcNote Fld.SVC_STATUS_UNASSIGNED req w s else s) s
    (((words.flatMap fun w => leBytes 8 (readReg s w).toNat).drop (a % 8)).take n, s')
  | .stack k =>
    if s.stacksRest then (List.replicate n 0#8, s)
    else
      let s' := match badLine s a n with
        | some l => svcNote Fld.SVC_STATUS_STACK_UNCORR req l
            ((s.setFld (Fld.MEM_STATUS_UNCORR k) 1).setFld (Fld.MEM_ERR_ADDR_ADDR k) (l / 64 * 64))
        | none => s
      (s.bytes a n, countCorr a n s')
  | .scratch c _ => readWindow (windowOpen s c && !linePending s c a) c true req a n s
  | .frame c => readWindow (windowOpen s c) c false req a n s
  | .trellis c => readWindow (windowOpen s c) c false req a n s
  | .unmapped => (List.replicate n 0#8, svcNote Fld.SVC_STATUS_UNASSIGNED req a s)

/-- Read `n` bytes at `a` over the bus, within one line. A stack is reached in a turn of the service bus (R227). -/
def busRead (req a n : Nat) (s : State) : List Byte × State :=
  match placeOf s.nStacks a with
  | .stack _ => busReadNow req a n (if s.stacksRest then s else shareLines busTurns a n s)
  | _ => busReadNow req a n s

/-- The 64-bit value of up to 8 bytes. -/
def wordOf (bs : List Byte) : Word := BitVec.ofNat 64 (leNat (bs.take 8))

/-- Register writes of a transfer, 8 bytes each in address order. -/
def busWriteRegs (req : Nat) : Nat → Nat → List Byte → State → State
  | 0, _, _, s => s
  | fuel + 1, a, bs, s => if bs.length < 8 then s else busWriteRegs req fuel (a + 8) (bs.drop 8) (writeReg req a (wordOf bs) s)

/-- A 4-byte access to the MSI-X table (R220, R311). -/
def msixHalf (a n : Nat) : Bool := decide (0xFF0000048000 ≤ a ∧ a < 0xFF0000048400 ∧ n = 4 ∧ a % 4 = 0)

/-- Write bytes at `a` over the bus, within one line. Only whole registers are written (assumption 72); start-up that stopped at an
assembly mismatch ignores register writes (R401). A stack is reached in a turn of the service bus (R227). -/
def busWrite (req a : Nat) (bs : List Byte) (s : State) : State :=
  match placeOf s.nStacks a with
  | .regs =>
    if s.fld Fld.SMG_BOOT_STAGE = 5 then s
    else if msixHalf a bs.length then writeMsix4 a (leNat bs) s
    else busWriteRegs req 8 ((a + 7) / 8 * 8) (bs.drop ((a + 7) / 8 * 8 - a)) s
  | .stack _ => if s.stacksRest then s else (shareLines busTurns a bs.length s).store a bs
  | .scratch c _ => writeWindow (windowOpen s c && !linePending s c a) req a bs s
  | .frame c => writeWindow (windowOpen s c) req a bs s
  | .trellis c => writeWindow (windowOpen s c) req a bs s
  | .unmapped => svcNote Fld.SVC_STATUS_UNASSIGNED req a s

/-! ### The arbiter (R324 to R327) -/

/-- The first of a set of requesters after `p` in number order, round robin. -/
def nextAfter (p : Nat) (rs : List Nat) : Option Nat :=
  ((List.range 8).map fun i => (p + 1 + i) % 8).find? fun r => rs.contains r

/-- The requester that has the bus next among `rs`, and the class whose pointer moves (R326). -/
def arbiter (s : State) (rs : List Nat) : Option (Nat × Nat) :=
  let ptr := fun (c : Nat) => SMap.get 7 s.bus.ptr c
  let forced := rs.filter fun r => decide (s.fld (Fld.SVC_ARB_LIMIT r) ≠ 0 ∧ s.fld (Fld.SVC_ARB_WAIT r) = s.fld (Fld.SVC_ARB_LIMIT r))
  if forced ≠ [] then (nextAfter (ptr 3) forced).map fun r => (r, s.fld (Fld.SVC_ARB_CLASS r))
  else
    [3, 2, 1, 0].findSome? fun c => (nextAfter (ptr c) (rs.filter fun r => decide (s.fld (Fld.SVC_ARB_CLASS r) = c))).map fun r => (r, c)

/-- The requesters that ask: those with a transfer that waits, and the inbound control lane while it holds a packet (R324, R326). -/
def asking (s : State) : List Nat :=
  ((s.bus.waiting.map fun (q : BusReq) => q.req.toNat) ++ (if s.fab.lane.isEmpty then [] else [7])).eraseDups

/-- The bookkeeping of one decision: winner's WAIT and WINS, the losers' WAIT, the pointer of the winning class; a forced
win by rule 2 moves no pointer but class 3's. -/
def granted (w : Nat) (rs : List Nat) (s : State) : State :=
  let forced := decide (s.fld (Fld.SVC_ARB_LIMIT w) ≠ 0 ∧ s.fld (Fld.SVC_ARB_WAIT w) = s.fld (Fld.SVC_ARB_LIMIT w))
  let c := if forced then 3 else s.fld (Fld.SVC_ARB_CLASS w)
  let s := rs.foldl (fun s r => if r = w then s else s.addSat (Fld.SVC_ARB_WAIT r) 1) s
  let s := (s.setFld (Fld.SVC_ARB_WAIT w) 0).addSat (Fld.SVC_ARB_WINS w) 1
  { s with bus := { s.bus with ptr := SMap.set 7 s.bus.ptr c w } }

/-- A requester may ask: the host window while BAR0 is decoded, JTAG under the BUS scope (R389), the others once the
Stage Manager runs. -/
def mayAsk (s : State) (r : Nat) : Bool :=
  s.awake && s.pwr.released &&
    (match r with
     | 0 => s.barOpen
     | 5 => (s.fld Fld.SDR_DEBUG_SCOPE).testBit 0
     | _ => true)

/-- The transfer is well formed (R295, R308, R325): 8 to 64 bytes, or the MSI-X table's 4 (R220); the host window's device addresses are
BAR0's registers, the command window has 16 MiB, and only the host reads the telemetry window's 256 MiB. -/
def busReqOk (q : BusReq) : Bool :=
  let n := if q.write then q.data.length else q.len.toNat
  let a := q.addr.toNat
  let size := decide (8 ≤ n ∧ n ≤ 64)
  match q.space with
  | .device => (size || msixHalf a n) && decide (q.req ≠ 0 ∨ (0xFF0000000000 ≤ a ∧ a + n ≤ 0xFF0004000000))
  | .window => size && decide (a + n ≤ 2 ^ 24)
  | .telemetry => size && decide (q.req = 0 ∧ a + n ≤ 2 ^ 28)

/-- Transfers newly asked for; a requester with one waiting asks for no other (R325). -/
def enqueueBus (new : List BusReq) (s : State) : State :=
  new.foldl (fun s q =>
    if mayAsk s q.req.toNat && busReqOk q && !(s.bus.waiting.any fun w => decide (w.req = q.req)) then
      { s with bus := { s.bus with waiting := s.bus.waiting ++ [q] } }
    else s) s

/-- A byte of the command window; one that nothing has written reads zero. -/
def State.winByte (s : State) (a : Nat) : Byte := SMap.get 0#8 s.win a

/-- Bytes of the command window. -/
def State.winBytes (s : State) (a n : Nat) : List Byte := (List.range n).map fun i => s.winByte (a + i)

/-- The parts of a transfer of at most 64 bytes, one in each line. -/
def linePieces (a n : Nat) : List (Nat × Nat) :=
  let k := 64 - a % 64
  if n ≤ k then [(a, n)] else [(a, k), (a + k, n - k)]

/-- Read a range of the device over the bus. -/
def busReadAll (req a n : Nat) (s : State) : List Byte × State :=
  (linePieces a n).foldl (fun r p => let t := busRead req p.1 p.2 r.2; (r.1 ++ t.1, t.2)) ([], s)

/-- Write a range of the device over the bus. -/
def busWriteAll (req a : Nat) (bs : List Byte) (s : State) : State :=
  (linePieces a bs.length).foldl (fun s p => busWrite req p.1 ((bs.drop (p.1 - a)).take p.2) s) s

/-- Vectors whose MSI-X table entry a range touches (R311). -/
def vectorsIn (a n : Nat) : List Nat :=
  (List.range 64).filter fun v => decide (a < 0xFF0000048000 + 16 * v + 16 ∧ 0xFF0000048000 + 16 * v < a + n)

/-- Carry out one granted transfer (R295, R324, R325): a write takes effect, and what a read gives returns on the requester's lane. BAR4
reads the range of the stacks at HST_TEL_BASE, and writes to it are discarded (R295, R308). -/
def carryOut (q : BusReq) (s : State) : State :=
  let a := q.addr.toNat
  let keep (r : List Byte × State) : State :=
    { r.2 with bus := { r.2.bus with data := SMap.set [] r.2.bus.data q.req.toNat r.1 } }
  match q.space, q.write with
  | .device, true => (vectorsIn a q.data.length).foldl (fun s v => unmaskMsix v s) (busWriteAll q.req.toNat a q.data s)
  | .device, false => keep (busReadAll q.req.toNat a q.len.toNat s)
  | .window, true => { s with win := memWrite s.win a q.data }
  | .window, false => keep (s.winBytes a q.len.toNat, s)
  | .telemetry, true => s
  | .telemetry, false => keep (busReadAll q.req.toNat (s.fld Fld.HST_TEL_BASE_BASE + a) q.len.toNat s)

/-- The granted requester's turn: its waiting transfer is carried out; for the inbound control lane with none, the oldest packet that the
lane holds leaves it (R324). -/
def serve (w : Nat) (s : State) : State :=
  match s.bus.waiting.find? fun q => decide (q.req.toNat = w) with
  | some q => carryOut q { s with bus := { s.bus with waiting := s.bus.waiting.erase q } }
  | none => if w = 7 then { s with fab := { s.fab with lane := s.fab.lane.drop 1 } } else s

/-- SERVICE_BUS_TRANSFER (R324 to R326): of the requesters that ask, one is granted and its transfer carried out; a write of
SVC_ARB is in force for the decision after it (R327). -/
def execServiceBusTransfer (new : List BusReq) (s : State) : Out :=
  .next (
    let s := enqueueBus new s
    match arbiter s (asking s) with
    | none => s
    | some (w, _) => serve w (granted w (asking s) s))

/-- Requester `r` asks for a transfer whose effect is `f`: the transfers that win before it are carried out first (R326). -/
def turnsUntil (r : Nat) (f : State → State) : Nat → State → State
  | 0, s => f s
  | n + 1, s =>
    let rs := if (asking s).contains r then asking s else r :: asking s
    match arbiter s rs with
    | none => f s
    | some (w, _) =>
      if w = r ∧ (s.bus.waiting.all fun q => decide (q.req.toNat ≠ r)) = true then f (granted w rs s)
      else turnsUntil r f n (serve w (granted w rs s))

/-- One transfer of requester `r`, with effect `f`. -/
def busUse (r : Nat) (f : State → State) (s : State) : State := turnsUntil r f (s.bus.waiting.length + s.fab.lane.length + 1) s

/-! ### Host writes -/

/-- A host write over BAR0: the transfer in which requester 0 is granted (R295, R326). -/
def hostWrite (a : Nat) (v : Word) (s : State) : State := if s.barOpen then busUse 0 (writeReg 0 a v) s else s

/-- A host write of one field, the register's other fields as they will be. -/
def hostField (f : Fld) (x : Nat) (s : State) : State :=
  hostWrite f.reg (match regAt f.reg with
    | some (r, _) => r.fields.foldl (fun v g =>
        if g.lo = f.lo then bitsPut v f.lo f.w x
        else if g.acc = .rw then bitsPut v g.lo g.w (s.eff ⟨f.reg, g.lo, g.w⟩)
        else v) 0
    | none => 0) s

/-- REGISTER_WRITE (R322); one of the MSI-X table may unmask a vector that is pending (R307, R311). -/
def execRegisterWrite (a : BitVec 48) (v : Word) (s : State) : Out :=
  .next (if a.toNat % 8 = 0 ∧ vectorsIn a.toNat 8 ≠ [] then
    (if s.barOpen then busUse 0 (fun s => (vectorsIn a.toNat 8).foldl (fun s v => unmaskMsix v s) (writeReg 0 a.toNat v s)) s else s)
  else hostWrite a.toNat v s)

/-- SCN_LEN_WRITE (R25). -/
def execScnLenWrite (len : BitVec 24) (s : State) : Out := .next (hostField Fld.SCN_LEN_LEN len.toNat s)
/-- CLEAR_HALT (R31): held until the next cue or idle tick. -/
def execClearHalt (s : State) : Out := .next (hostField Fld.SCN_CTRL_CLEAR_HALT 1 s)
/-- TIM_ROLE_WRITE (R32). -/
def execTimRoleWrite (root : Bool) (s : State) : Out := .next (hostField Fld.TIM_ROLE_ROOT (b2n root) s)
/-- TIM_CTRL_WRITE (R40). -/
def execTimCtrlWrite (en : Bool) (s : State) : Out := .next (hostField Fld.TIM_CTRL_CUE_EN (b2n en) s)
/-- TIM_EPOCH_WRITE (R39). -/
def execTimEpochWrite (t : Word) (s : State) : Out := .next (hostField Fld.TIM_EPOCH_EPOCH t.toNat s)
/-- TIM_CUE_PARENT_WRITE (R49). -/
def execTimCueParentWrite (port : BitVec 6) (s : State) : Out := .next (hostField Fld.TIM_CUE_PARENT_PORT port.toNat s)
/-- TIM_CUE_CHILD_WRITE (R49). -/
def execTimCueChildWrite (mask : BitVec 48) (s : State) : Out := .next (hostField Fld.TIM_CUE_CHILD_MASK mask.toNat s)
/-- CFR_OVF_WRITE (R180). -/
def execCfrOvfWrite (c : CoreId) (size : Bool) (v : Word) (s : State) : Out :=
  .next (hostWrite (if size then Reg.CFR_OVF_SIZE c else Reg.CFR_OVF_BASE c) v s)
/-- CFG_HIST_WRITE (R211). -/
def execCfgHistWrite (count : Bool) (v : Word) (s : State) : Out :=
  .next (hostWrite (if count then Reg.CFG_HIST else Reg.CFG_HIST_BASE) v s)
/-- HST_TEL_BASE_WRITE (R308). -/
def execHstTelBaseWrite (v : Word) (s : State) : Out := .next (hostWrite Reg.HST_TEL_BASE v s)
/-- HST_CPL_HEAD_WRITE (R302). -/
def execHstCplHeadWrite (head : BitVec 16) (s : State) : Out := .next (hostField Fld.HST_CPL_HEAD_HEAD head.toNat s)
/-- MSIX_TABLE_WRITE (R311): in force at once. -/
def execMsixTableWrite (i : BitVec 8) (wide : Bool) (v : Word) (s : State) : Out :=
  .next (if s.barOpen then
    let a := 0xFF0000048000 + 4 * i.toNat
    busUse 0 (fun s => unmaskMsix (i.toNat / 4)
      (if wide then (if a % 8 = 0 then busWrite 0 a (leBytes 8 v.toNat) s else s) else busWrite 0 a (leBytes 4 v.toNat) s)) s
  else s)
/-- SVC_ARB_WRITE (R327): in force at once. -/
def execSvcArbWrite (r : BitVec 3) (v : Word) (s : State) : Out := .next (hostWrite (Reg.SVC_ARB r.toNat) v s)
/-- DISCARD_Q (R323): pending Q writes are cleared at once. -/
def execDiscardQ (s : State) : Out := .next (hostField Fld.SMG_APPLY_DISCARD_Q 1 s)
/-- PIN_CLEAR (R336): held until the next cue or idle tick. -/
def execPinClear (s : State) : Out := .next (hostField Fld.FLT_CTRL_PIN_CLEAR 1 s)
/-- PIN_TEST (R336): held until the next cue or idle tick. -/
def execPinTest (s : State) : Out := .next (hostField Fld.FLT_CTRL_PIN_TEST 1 s)
/-- TRL_INJECT_RES (R337). -/
def execTrlInjectRes (c : CoreId) (s : State) : Out := .next (hostField (Fld.TRL_INJECT_RES c) 1 s)
/-- TRL_INJECT_SEC (R337). -/
def execTrlInjectSec (c : CoreId) (s : State) : Out := .next (hostField (Fld.TRL_INJECT_SEC c) 1 s)
/-- CFR_INJECT_SEC (R337). -/
def execCfrInjectSec (c : CoreId) (s : State) : Out := .next (hostField (Fld.CFR_INJECT_SEC c) 1 s)
/-- SPD_INJECT_SEC (R337). -/
def execSpdInjectSec (c : CoreId) (s : State) : Out := .next (hostField (Fld.SPD_INJECT_SEC c) 1 s)
/-- MEM_INJECT_SYM (R337). -/
def execMemInjectSym (stack : Fin 12) (s : State) : Out := .next (hostField (Fld.MEM_INJECT_SYM stack.val) 1 s)
/-- KL_INJECT_CRC (R337). -/
def execKlInjectCrc (k : LinkId) (s : State) : Out := .next (hostField (Fld.KL_INJECT_CRC k.val) 1 s)
/-- KL_INJECT_FEC (R337). -/
def execKlInjectFec (k : LinkId) (s : State) : Out := .next (hostField (Fld.KL_INJECT_FEC k.val) 1 s)
/-- XCL_INJECT_RES (R337). -/
def execXclInjectRes (s : State) : Out := .next (hostField Fld.XCL_INJECT_RES 1 s)
/-- RHS_INJECT_DIGEST (R337). -/
def execRhsInjectDigest (s : State) : Out := .next (hostField Fld.RHS_INJECT_DIGEST 1 s)
/-- RETRAIN (R240): held until the next cue or idle tick. -/
def execRetrain (k : LinkId) (s : State) : Out := .next (hostField (Fld.KL_CTRL_RETRAIN k.val) 1 s)
/-- SCN_DBG_HALT_WRITE (R405). -/
def execScnDbgHaltWrite (high : Bool) (v : Word) (s : State) : Out :=
  .next (hostWrite (if high then Reg.SCN_DBG_HALT1 else Reg.SCN_DBG_HALT0) v s)
/-- FAB_HOPMAP_WRITE (R258): held; a bank in use is refused at the cue that would apply it. -/
def execFabHopmapWrite (i : BitVec 7) (v : Word) (s : State) : Out := .next (hostWrite (Reg.FAB_HOPMAP i.toNat) v s)
/-- FAB_RES_WRITE (R261). -/
def execFabResWrite (r : BitVec 10) (v : Word) (s : State) : Out := .next (hostWrite (Reg.FAB_RES r.toNat) v s)
/-- XCL_RCTX_CFG_WRITE (R290). -/
def execXclRctxCfgWrite (i : BitVec 8) (v : Word) (s : State) : Out := .next (hostWrite (Reg.XCL_RCTX_CFG i.toNat) v s)
/-- WLT_TAG_WRITE (R209): held; the counter falls to 0 as the write applies. -/
def execWltTagWrite (i : BitVec 8) (v : Word) (s : State) : Out := .next (hostWrite (Reg.WLT_TAG i.toNat) v s)
/-- FLT_SRC_CFG_WRITE (R332): held; the count falls to 0 as the write applies. -/
def execFltSrcCfgWrite (i : Fin 25) (v : Word) (s : State) : Out := .next (hostWrite (Reg.FLT_SRC_CFG (i.val + 1)) v s)
/-- SELFTEST (R383): held until the next cue or idle tick. -/
def execSelftest (s : State) : Out := .next (hostField Fld.SDR_CTRL_SELFTEST 1 s)
/-- ZEROISE (R395): held until the next cue or idle tick. -/
def execZeroise (s : State) : Out := .next (hostField Fld.SDR_CTRL_ZEROISE 1 s)
/-- DEBUG_LOCK (R389): held until the next cue or idle tick. -/
def execDebugLock (s : State) : Out := .next (hostField Fld.SDR_CTRL_DEBUG_LOCK 1 s)
/-- FW_COMMIT (R387): held until the next cue or idle tick. -/
def execFwCommit (s : State) : Out := .next (hostField Fld.SDR_CTRL_FW_COMMIT 1 s)
/-- SVN_ADVANCE (R387): held until the next cue or idle tick. -/
def execSvnAdvance (s : State) : Out := .next (hostField Fld.SDR_CTRL_SVN_ADVANCE 1 s)

end Sys2Proof.Machine
end

