-- ==== Sys2Proof/Machine/Ring.lean ====
section
/-! DEFINITION. The command ring and the completion ring: scans, completions and the order in which a record is judged
(R296 to R306). -/

namespace Sys2Proof.Machine

/-! ### The command window (R295, R297) -/

/-- COMMAND_WINDOW_WRITE (R292, R295, R297): a write TLP, of at most 512 bytes, is applied as one unit; it needs the BAR to be decoded. -/
def execCommandWindowWrite (off : BitVec 24) (bytes : List Byte) (s : State) : Out :=
  .next (if s.barOpen && decide (off.toNat + bytes.length ≤ 2 ^ 24 ∧ bytes.length ≤ 512) then { s with win := memWrite s.win off.toNat bytes } else s)

/-! ### Records (R296) -/

/-- Sequence number of a record. -/
def Taken.seq (t : Taken) : Nat := leNat (t.bytes.take 4)
/-- Field of `n` bytes at byte `a` of a record. -/
def Taken.at (t : Taken) (a n : Nat) : Nat := leNat ((t.bytes.drop a).take n)
/-- OPCODE. -/
def Taken.op (t : Taken) : Nat := t.at 4 1
/-- FLAGS.NOTIFY. -/
def Taken.notify (t : Taken) : Bool := (t.at 5 1).testBit 0
/-- FLAGS.AFTER_PREV. -/
def Taken.afterPrev (t : Taken) : Bool := (t.at 5 1).testBit 1
/-- PAYLOAD_OFF. -/
def Taken.poff (t : Taken) : Nat := t.at 8 4
/-- PAYLOAD_LEN. -/
def Taken.plen (t : Taken) : Nat := t.at 12 4

/-- The sequence number before `n`: 0 is never used (R297, R299). -/
def prevSeq (n : Nat) : Nat := if n ≤ 1 then 0xFFFFFFFF else n - 1
/-- The sequence number after `n`. -/
def nextSeq (n : Nat) : Nat := if 0xFFFFFFFF ≤ n then 1 else n + 1

/-- Take the record in slot NEXT, or end the scan (R298, R299, R303). -/
def scanNext (s : State) : State :=
  if s.host.scanLeft = 0 ∨ s.host.taken.isSome then s
  else
    let stop := { s with host := { s.host with scanLeft := 0 } }
    if cplEntries s = 0 then stop
    else if cplFree s < 2 then stop.setFld Fld.HST_STATUS_CPL_FULL 1
    else
      let s := s.setFld Fld.HST_STATUS_CPL_FULL 0
      let stop := { s with host := { s.host with scanLeft := 0 } }
      let next := s.fld Fld.HST_CMD_NEXT
      let off := 64 * (next % 16384)
      let r := s.winBytes off 64
      let seq := leNat (r.take 4)
      if seq = 0 then stop
      else if seq ≠ next then stop.setFld Fld.HST_STATUS_RING_ERR 1
      else
        let t : Taken := ⟨r, [], s.fld Fld.SCN_COUNT_SCENE⟩
        if t.afterPrev && (match s.host.long with | some l => decide (l.seq = prevSeq seq) | none => false) then stop
        else
          let pay := if t.plen ≤ 131072 then s.winBytes t.poff t.plen else []
          let s := { s with
            win := memWrite s.win off [0, 0, 0, 0]
            host := { s.host with
              taken := some { t with payload := pay }, scanLeft := s.host.scanLeft - 1, reserved := s.host.reserved + 1 } }
          traceRec 1 t.op 0 seq 0 (s.setFld Fld.HST_CMD_NEXT (nextSeq next))

/-- Begin a scan of at most 32 records (R298). -/
def scan (s : State) : State :=
  if s.controlHalted then s else scanNext { s with host := { s.host with scanLeft := 32 } }

/-! ### Completions (R302 to R305) -/

/-- Post a completion: its ring entry takes the place reserved for it, vector 0's cause occurs with NOTIFY or a status
other than OK, and the status stands for AFTER_PREV. -/
def postCompletion (seq op status taken applied detail : Nat) (notify : Bool) (s : State) : State :=
  let s := { s with host := { s.host with
    reserved := s.host.reserved - 1
    prev := match s.host.prev with
      | some (q, st) => if q = seq then some (q, some status) else some (q, st)
      | none => none } }
  let s := traceRec 2 op status seq detail (cplWrite seq op status false taken applied detail s)
  if notify || decide (status ≠ 0) then irq 0 s else s

/-- The scene that a command taken now reports as the one that applies its fields (R299, R304). -/
def appliedScene (s : State) : Nat := s.fld Fld.SCN_COUNT_SCENE + b2n s.tim.cuesRun

/-- The taken record completes, and the scan goes on. -/
def completeTaken (t : Taken) (status applied detail : Nat) (s : State) : State :=
  let s := { s with host := { s.host with taken := none, prev := some (t.seq, none) } }
  scanNext (postCompletion t.seq t.op status t.scene applied detail t.notify s)

/-- The taken record starts a long command, and the scan goes on (R299). -/
def beginLong (t : Taken) (words : List Nat) (s : State) : State :=
  { s with host := { s.host with
    taken := none, prev := some (t.seq, none), long := some ⟨t.op, t.seq, t.notify, t.scene, words⟩ } }

/-- The long command completes and reports a scene; its completion is discarded after an FLR (R294). -/
def completeLongAt (status applied detail : Nat) (s : State) : State :=
  match s.host.long with
  | none => s
  | some l =>
    let s := { s with host := { s.host with long := none } }
    if l.seq = 0 then s else postCompletion l.seq l.op status l.taken applied detail l.notify s

/-- The long command completes in the scene that runs (R304). -/
def completeLong (status detail : Nat) (s : State) : State := completeLongAt status (s.fld Fld.SCN_COUNT_SCENE) detail s

/-- The opcode of the long command that runs. -/
def longOp (s : State) : Option Nat := s.host.long.map (·.op)

/-! ### Judging a record (R300, R305) -/

/-- What R300 says of one command: its opcode, its operand bytes (offset, length), the payload lengths it takes, whether
it is long, the power states it is issued in with other conditions, and the test of its operand values. -/
structure CmdRule where
  op : Nat
  operands : List (Nat × Nat)
  plen : Taken → Bool
  long : Bool
  allowed : State → Taken → Bool
  values : State → Taken → Bool

/-- Every byte of a record outside its named fields is zero, and FLAGS bits 7:2 are. -/
def Taken.zeroElsewhere (t : Taken) (ops : List (Nat × Nat)) : Bool :=
  decide (t.at 5 1 < 4 ∧ t.at 6 2 = 0) &&
    ((List.range 48).all fun i => (ops.any fun o => decide (o.1 ≤ 16 + i ∧ 16 + i < o.1 + o.2)) || decide (t.at (16 + i) 1 = 0))

/-- The payload lies in the payload area (R296). -/
def Taken.payloadOk (t : Taken) : Bool :=
  if t.plen = 0 then decide (t.poff = 0)
  else decide (t.poff % 64 = 0 ∧ 0x100000 ≤ t.poff ∧ t.plen ≤ 131072 ∧ t.poff + t.plen ≤ 0x1000000)

/-- A record with AFTER_PREV is skipped (R299). -/
def skipped (s : State) (t : Taken) : Bool :=
  t.afterPrev && !decide (s.host.prev = some (prevSeq t.seq, some 0))

/-- The status with which a record completes without running, in the order of R305; none where it runs. -/
def judge (s : State) (t : Taken) (r : CmdRule) : Option Nat :=
  if skipped s t then some 7
  else if !(t.zeroElsewhere r.operands && r.plen t && t.payloadOk) then some 2
  else if !r.allowed s t then some 3
  else if !r.values s t then some 2
  else if r.long && s.host.long.isSome then some 4
  else none

/-- Act on the taken record if it carries the command's opcode: complete it at once, or run it; nothing while JTAG halts the control pair
(R312, R389). -/
def command (r : CmdRule) (run : Taken → State → State) (s : State) : State :=
  match s.host.taken with
  | none => s
  | some t =>
    if t.op = r.op ∧ s.controlHalted = false then
      match judge s t r with
      | some st => completeTaken t st 0 0 s
      | none => run t s
    else s

/-- The device is in one of PS0 to `n`, and not in FAULT_STOP (R300, R321). -/
def psUpTo (n : Nat) (s : State) : Bool := decide (s.fld Fld.PWR_STATE_PS ≤ n) && !s.bit Fld.PWR_STATE_FAULT_STOP

/-- The device is in PS2, and not in FAULT_STOP. -/
def psHold (s : State) : Bool := decide (s.fld Fld.PWR_STATE_PS = 2) && !s.bit Fld.PWR_STATE_FAULT_STOP

/-- A command without payload. -/
def noPayload (t : Taken) : Bool := decide (t.plen = 0)

/-- NOP (R300): also in FAULT_STOP (R321). -/
def nopRule : CmdRule := ⟨1, [], noPayload, false, fun s _ => decide (s.fld Fld.PWR_STATE_PS ≤ 3), fun _ _ => true⟩

/-- NOP (R300): DETAIL returns SCN_COUNT. -/
def execNop (s : State) : Out :=
  .next (command nopRule (fun t s => completeTaken t 0 0 (s.fld Fld.SCN_COUNT_SCENE) s) s)

/-- RESERVED_COMMAND (R300): a reserved opcode completes with BAD_OPCODE, unless it is skipped (R305). -/
def execReservedCommand (s : State) : Out :=
  .next (match s.host.taken with
    | none => s
    | some t => if (t.op = 0 ∨ 0x0D ≤ t.op) ∧ s.controlHalted = false then completeTaken t (if skipped s t then 7 else 1) 0 0 s else s)

/-- QUEUED_NOTICE_POST (R303): the oldest waiting notice is posted once the ring has room. -/
def execQueuedNoticePost (s : State) : Out :=
  .next (match s.host.notices with
    | [] => s
    | (code, scene, detail) :: rest =>
      if 0 < cplFree s then writeNotice code scene detail { s with host := { s.host with notices := rest } } else s)

/-! ### Slots and the data position (R144, R301, R362) -/

/-- BIND_SLOT (R301). -/
def bindRule : CmdRule :=
  ⟨5, [(16, 1), (24, 6), (32, 4)], noPayload, false, fun s _ => psUpTo 3 s, fun _ t => decide (t.at 16 1 < 64)⟩

/-- BIND_SLOT (R301): identifier, position and subkey are replaced together at the next cue or idle tick. -/
def execBindSlot (s : State) : Out :=
  .next (command bindRule (fun t s =>
    completeTaken t 0 (appliedScene s) 0 { s with cmdEff := s.cmdEff ++ [.bind (BitVec.ofNat 6 (t.at 16 1)) (t.at 24 6) (t.at 32 4)] }) s)

/-- UNBIND_SLOT (R300). -/
def unbindRule : CmdRule := ⟨6, [(16, 1)], noPayload, false, fun s _ => psUpTo 3 s, fun _ t => decide (t.at 16 1 < 64)⟩

/-- UNBIND_SLOT (R300): at the next cue or idle tick. -/
def execUnbindSlot (s : State) : Out :=
  .next (command unbindRule (fun t s =>
    completeTaken t 0 (appliedScene s) 0 { s with cmdEff := s.cmdEff ++ [.unbind (BitVec.ofNat 6 (t.at 16 1))] }) s)

/-- DATAPOS (R362). -/
def dataposRule : CmdRule :=
  ⟨7, [(16, 8)], fun t => decide (t.plen = 256), false, fun s _ => psUpTo 3 s, fun _ _ => true⟩

/-- Store a data-position record with its tag (R362). -/
def setDatapos (step : Nat) (bs : List Byte) (s : State) : State :=
  ({ s with dp := bs }.setFld Fld.SCN_RESTORE_DATAPOS_VALID 1).setFld Fld.SCN_DATAPOS_STEP step

/-- DATAPOS (R362): the record stands from the cue or idle tick at which the command is taken. -/
def execDatapos (s : State) : Out :=
  .next (command dataposRule (fun t s => completeTaken t 0 t.scene 0 (setDatapos (t.at 16 8) t.payload s)) s)

end Sys2Proof.Machine
end

