-- ==== Sys2Proof/Machine/Sha256.lean ====
section
/-! DEFINITION. SHA-256, which R113, R286, R361 and R391 name: computed on lists of bytes. -/

namespace Sys2Proof.Machine

/-- The round constants: the first 32 fraction bits of the cube roots of the first 64 primes. -/
def shaK : List (BitVec 32) :=
  [0x428a2f98#32, 0x71374491#32, 0xb5c0fbcf#32, 0xe9b5dba5#32, 0x3956c25b#32, 0x59f111f1#32, 0x923f82a4#32,
   0xab1c5ed5#32, 0xd807aa98#32, 0x12835b01#32, 0x243185be#32, 0x550c7dc3#32, 0x72be5d74#32, 0x80deb1fe#32,
   0x9bdc06a7#32, 0xc19bf174#32, 0xe49b69c1#32, 0xefbe4786#32, 0x0fc19dc6#32, 0x240ca1cc#32, 0x2de92c6f#32,
   0x4a7484aa#32, 0x5cb0a9dc#32, 0x76f988da#32, 0x983e5152#32, 0xa831c66d#32, 0xb00327c8#32, 0xbf597fc7#32,
   0xc6e00bf3#32, 0xd5a79147#32, 0x06ca6351#32, 0x14292967#32] ++
  [0x27b70a85#32, 0x2e1b2138#32, 0x4d2c6dfc#32, 0x53380d13#32, 0x650a7354#32, 0x766a0abb#32, 0x81c2c92e#32,
   0x92722c85#32, 0xa2bfe8a1#32, 0xa81a664b#32, 0xc24b8b70#32, 0xc76c51a3#32, 0xd192e819#32, 0xd6990624#32,
   0xf40e3585#32, 0x106aa070#32, 0x19a4c116#32, 0x1e376c08#32, 0x2748774c#32, 0x34b0bcb5#32, 0x391c0cb3#32,
   0x4ed8aa4a#32, 0x5b9cca4f#32, 0x682e6ff3#32, 0x748f82ee#32, 0x78a5636f#32, 0x84c87814#32, 0x8cc70208#32,
   0x90befffa#32, 0xa4506ceb#32, 0xbef9a3f7#32, 0xc67178f2#32]

/-- The initial hash value. -/
def shaInit : List (BitVec 32) :=
  [0x6a09e667#32, 0xbb67ae85#32, 0x3c6ef372#32, 0xa54ff53a#32, 0x510e527f#32, 0x9b05688c#32, 0x1f83d9ab#32,
   0x5be0cd19#32]

/-- Rotate right. -/
def ror32 (x : BitVec 32) (k : Nat) : BitVec 32 := (x >>> k) ||| (x <<< (32 - k))

/-- Extend the message schedule by `n` words; `w` holds the last sixteen words, oldest first. -/
def shaSchedule : Nat → List (BitVec 32) → List (BitVec 32)
  | 0, w => w
  | n + 1, w =>
    let w15 : BitVec 32 := w.getD 1 0
    let w2 : BitVec 32 := w.getD 14 0
    let s0 := ror32 w15 7 ^^^ ror32 w15 18 ^^^ (w15 >>> 3)
    let s1 := ror32 w2 17 ^^^ ror32 w2 19 ^^^ (w2 >>> 10)
    w.headD 0 :: shaSchedule n (w.tail ++ [w.headD 0 + s0 + w.getD 9 0 + s1])

/-- One compression round. -/
def shaRound (h : List (BitVec 32)) (kw : BitVec 32) : List (BitVec 32) :=
  match h with
  | [a, b, c, d, e, f, g, hh] =>
    let s1 := ror32 e 6 ^^^ ror32 e 11 ^^^ ror32 e 25
    let t1 := hh + s1 + ((e &&& f) ^^^ (~~~e &&& g)) + kw
    let s0 := ror32 a 2 ^^^ ror32 a 13 ^^^ ror32 a 22
    [t1 + s0 + ((a &&& b) ^^^ (a &&& c) ^^^ (b &&& c)), a, b, c, d + t1, e, f, g]
  | h => h

/-- Absorb one 64-byte block given as sixteen big-endian words. -/
def shaBlock (h : List (BitVec 32)) (ws : List (BitVec 32)) : List (BitVec 32) :=
  List.zipWith (· + ·) h ((List.zipWith (· + ·) shaK (shaSchedule 48 ws)).foldl shaRound h)

/-- Big-endian words of a byte list. -/
def shaWords : List Byte → List (BitVec 32)
  | a :: b :: c :: d :: r => (a ++ b ++ c ++ d) :: shaWords r
  | _ => []

/-- Absorb `n` blocks from a word list. -/
def shaBlocks : Nat → List (BitVec 32) → List (BitVec 32) → List (BitVec 32)
  | 0, h, _ => h
  | n + 1, h, ws => shaBlocks n (shaBlock h (ws.take 16)) (ws.drop 16)

/-- The padding of a message of `len` bytes. -/
def shaPad (len : Nat) : List Byte :=
  [0x80#8] ++ List.replicate ((119 - len % 64) % 64) 0#8 ++
    (List.range 8).map fun i => BitVec.ofNat 8 (8 * len / 256 ^ (7 - i))

/-- SHA-256 of a byte list: 32 bytes. -/
def sha256 (msg : List Byte) : List Byte :=
  let m := msg ++ shaPad msg.length
  let h : List (BitVec 32) := shaBlocks (m.length / 64) shaInit (shaWords m)
  h.flatMap fun (w : BitVec 32) => (List.range 4).map fun i => (w >>> (8 * (3 - i))).setWidth 8

end Sys2Proof.Machine
end

