-- ==== Sys2Proof/Machine/Engine.lean ====
section
/-! DEFINITION. The request engine, checkpoints, restores, the twin exchange and the start of a run (R356 to R372). -/

namespace Sys2Proof.Machine

/-! ### Byte fields -/

/-- The field of `n` bytes at byte `a` of a record. -/
def leAt (b : List Byte) (a n : Nat) : Nat := leNat ((b.drop a).take n)

/-- Bytes `a` to `a + n - 1` are zero. -/
def zeroAt (b : List Byte) (a n : Nat) : Bool := decide (leAt b a n = 0)

/-- The first `n` bytes, filled up with zeros. -/
def padTo (n : Nat) (b : List Byte) : List Byte := (b ++ List.replicate n 0#8).take n

/-- Replace the bytes of `b` from position `off`. -/
def spliceAt (b : List Byte) (off : Nat) (d : List Byte) : List Byte :=
  padTo off b ++ d ++ b.drop (off + d.length)

/-- Bytes of a length rounded up to whole 64-byte units. -/
def up64 (n : Nat) : Nat := (n + 63) / 64 * 64

/-! ### Section descriptors (R360) -/

/-- Read a section descriptor. -/
def Sect.decode (b : List Byte) : Sect :=
  { addr := leAt b 0 6, fmt := leAt b 6 1, routeIx := leAt b 7 1, tag := leAt b 8 2, rows := leAt b 10 3
    cols := leAt b 13 3, stride := leAt b 16 5, row0 := leAt b 21 3, col0 := leAt b 24 3, remote := leAt b 32 6
    bytes := leAt b 40 8, digest := BitVec.ofNat 64 (leAt b 48 8) }

/-- Write a section descriptor. -/
def Sect.encode (d : Sect) : List Byte :=
  leBytes 6 d.addr ++ leBytes 1 d.fmt ++ leBytes 1 d.routeIx ++ leBytes 2 d.tag ++ leBytes 3 d.rows ++ leBytes 3 d.cols ++
    leBytes 5 d.stride ++ leBytes 3 d.row0 ++ leBytes 3 d.col0 ++ leBytes 5 0 ++ leBytes 6 d.remote ++ leBytes 2 0 ++
    leBytes 8 d.bytes ++ leBytes 8 d.digest.toNat ++ leBytes 8 0

/-- Bytes of one element: 4 for FP32, 2 for BF16 and 1 otherwise. -/
def Sect.elem (d : Sect) : Nat := if d.fmt = 0 then 4 else if d.fmt = 1 then 2 else 1

/-- Element bytes of one row. -/
def Sect.rowBytes (d : Sect) : Nat := (d.cols + 1) * d.elem

/-- BYTES of a section that is not an empty scale history. -/
def Sect.size (d : Sect) : Nat := (d.rows + 1) * d.rowBytes

/-- The descriptor's reserved bytes are zero. -/
def sectReserved (b : List Byte) : Bool := zeroAt b 27 5 && zeroAt b 38 2 && zeroAt b 56 8

/-- The conditions of R360 on one descriptor. -/
def Sect.ok (s : State) (d : Sect) : Bool :=
  decide (d.addr % 64 = 0 ∧ d.remote % 64 = 0 ∧ d.fmt ≤ 4 ∧ d.rowBytes ≤ d.stride ∧ d.row0 + d.rows + 1 ≤ 2 ^ 24 ∧
    d.col0 + d.cols + 1 ≤ 2 ^ 24) && s.inStacks d.addr (d.rows * d.stride + d.rowBytes)

/-- Row `r` of one section meets a row of another. -/
def Sect.rowMeets (d e : Sect) (r : Nat) : Bool :=
  let x := d.addr + r * d.stride
  let q := if x < e.addr + e.rowBytes then 0 else (x - e.addr - e.rowBytes) / max 1 e.stride + 1
  decide (q ≤ e.rows ∧ e.addr + q * e.stride < x + d.rowBytes)

/-- Two sections have overlapping ranges. -/
def Sect.meets (d e : Sect) : Bool := (List.range (d.rows + 1)).any fun r => d.rowMeets e r

/-- No two sections of a list overlap. -/
def sectsApart : List Sect → Bool
  | [] => true
  | d :: ds => (ds.all fun e => !d.meets e) && sectsApart ds

/-- The empty scale history: TAG 0xFFFF with BYTES 0. -/
def Sect.isEmpty (d : Sect) : Bool := decide (d.tag = 0xFFFF ∧ d.bytes = 0)

/-- The pieces of a section's packed bytes `off` to `off + n - 1`: stack address and length. -/
def Sect.pieces (d : Sect) (off n : Nat) : List (Nat × Nat) :=
  if n = 0 then []
  else
    let w := max 1 d.rowBytes
    (List.range ((off + n - 1) / w + 1 - off / w)).map fun i =>
      let r := off / w + i
      let a := max off (r * w)
      let b := min (off + n) ((r + 1) * w)
      (d.addr + r * d.stride + (a - r * w), b - a)

/-- Elements of packed bytes as they arrive or leave, added to a digest (R285, R287). -/
def digestBytes (key : Word) (d : Sect) (step : Word) (off : Nat) (bs : List Byte) (acc : Word) : Word :=
  (List.range (bs.length / d.elem)).foldl (fun acc i =>
    let n := off / d.elem + i
    acc + witnessMix key (BitVec.ofNat 16 d.tag) step (BitVec.ofNat 24 (d.row0 + n / (d.cols + 1)))
      (BitVec.ofNat 24 (d.col0 + n % (d.cols + 1))) (BitVec.ofNat 32 (leAt bs (i * d.elem) d.elem))) acc

/-- The digest of a section as its range stands. -/
def sectDigest (s : State) (key step : Word) (d : Sect) : Word :=
  if d.isEmpty then 0
  else digestOf s key (BitVec.ofNat 4 d.fmt) (BitVec.ofNat 16 d.tag) step d.addr (d.rows + 1) (d.cols + 1) d.stride d.row0 d.col0

/-! ### Routes (R251, R358, R363) -/

/-- Rules 1 and 2 of R251. -/
def EngRoute.ok (r : EngRoute) : Bool :=
  routeRule1 r.route r.hops 24 &&
    (List.range r.hops).all fun i =>
      let c := codeClass (routeCode r.route i)
      decide (i = 0 ∨ codeClass (routeCode r.route (i - 1)) ≤ c ∨ (c = 0 ∧ i + 1 = r.hops))

/-! ### Requests (R356) -/

/-- Ten milliseconds in units of `tim.now`. -/
def tenMs : Nat := 10000000 * unitNs

/-- The request's descriptor and data (R247). -/
def EngReq.payload (r : EngReq) : List Byte :=
  padTo 64 (leBytes 6 r.remote ++ leBytes 2 0 ++ leBytes 4 r.len) ++ (if r.write then r.data else [])

/-- The next tag from 0 to 63 that no outstanding request carries, from `t` on. -/
def freeTag (e : EngSt) (t : Nat) : Nat :=
  match ((List.range 64).map fun i => (t + i) % 64).find? fun n => !(e.reqs.any fun r => decide (r.tag = n)) with
  | some n => n
  | none => t % 64

/-- Discard the requests of the checkpoint or restore, outstanding and waiting; those of twin mode stay. -/
def EngSt.clearJob (e : EngSt) : EngSt :=
  { e with reqs := e.reqs.filter fun r => decide (r.sect = 0x1000), wait := e.wait.filter fun r => decide (r.sect = 0x1000) }

/-- A restore ends without success: what has passed stays as candidates, and STATE reads FAILED (R364, R368). -/
def endRestore (j : RstJob) (s : State) : State :=
  let check := leAt j.manifest 48 8
  let step := leAt j.manifest 32 8
  let cands := j.passed.filterMap fun i => (j.sects[i]?).map fun d => (⟨d, j.gen, step, BitVec.ofNat 64 check⟩ : Cand)
  let s := { s with eng := { s.eng.clearJob with rst := none, table := s.eng.table ++ cands } }
  ((s.setFld Fld.SCN_RESTORE_STATE 2).setFld Fld.SCN_RESTORE_INFO_KEPT j.kept.length).setFld Fld.SCN_RESTORE_INFO_FETCHED
    ((j.passed.filter fun i => !j.kept.contains i && !((j.sects[i]?).any Sect.isEmpty)).length)

/-- The checkpoint or restore fails (R357): CAUSE, the section (0xFFF the manifest), the remote STATUS. -/
def failJob (cause sect status : Nat) (s : State) : State :=
  let detail := cause + 16 * sect + 65536 * status
  match s.eng.ckp, s.eng.rst with
  | some _, _ => completeLong 10 detail { s with eng := { s.eng.clearJob with ckp := none, latch := none } }
  | none, some j =>
    completeLong 10 detail
      ((((endRestore j s).setFld Fld.SCN_RESTORE_INFO_CAUSE cause).setFld Fld.SCN_RESTORE_INFO_SECTION sect).setFld
        Fld.SCN_RESTORE_INFO_STATUS status)
  | none, none => s

/-- A request fails: twin records are lost with SEND_FAIL (R372), else its command fails. -/
def failReq (r : EngReq) (cause status : Nat) (s : State) : State :=
  if r.sect = 0x1000 then s.setFld Fld.XCL_TWIN_STATUS_SEND_FAIL 1 else failJob cause r.sect status s

/-- Launch a request under a new tag, after the source test (R253, R356). -/
def launchReq (r : EngReq) (s : State) : State :=
  match launchTest s r.route.route r.route.hops 24 none with
  | .bad cause hop => failReq r 3 0 (routeIllegal 0x7F cause hop 0xFFFFFFFF false s)
  | .ok port =>
    let tag := freeTag s.eng s.eng.nextTag
    let s := { s with eng := { s.eng with
      nextTag := (tag + 1) % 64, reqs := s.eng.reqs ++ [{ r with tag := tag, at_ := s.tim.now }] } }
    launch port
      [mkData s 1 (if r.write then 4 else 3) r.route.hops r.route.route r.route.dtype r.route.dest 0x7F 0x7E 0 tag true false 0
        r.payload] s

/-! ### What a checkpoint sends next (R359, R361) -/

/-- Section 0 of a manifest: the scale history as it was latched (R360). -/
def histSect (n : Snap) (maddr : Nat) : Sect :=
  { addr := n.histBase, fmt := 0, routeIx := 0, tag := 0xFFFF, rows := n.histCount - 1, cols := 31, stride := 128, row0 := 0
    col0 := 0, remote := maddr + 0x20000, bytes := if n.histCount = 0 then 0 else 128 * n.histCount, digest := 0 }

/-- The witness mix that SEED_CHECK holds (R361). -/
def seedCheck (seed : Word) : Word := witnessMix seed 0xFFFF 0xFFFFFFFF 0xFFFFFF 0xFFFFFF 0xFFFFFFFF

/-- The slot table of a manifest. -/
def slotBytes (n : Snap) : List Byte :=
  n.slots.flatMap fun (t : Bool × Nat × Nat) => leBytes 6 t.2.1 ++ leBytes 1 (b2n t.1) ++ leBytes 1 0 ++ leBytes 4 t.2.2 ++ leBytes 4 0

/-- The manifest (R361). -/
def manifestOf (s : State) (j : CkpJob) (n : Snap) : List Byte :=
  let head := "SVTCKPT1".toList.map (fun c => BitVec.ofNat 8 c.toNat) ++ leBytes 2 1 ++ leBytes 1 3 ++
    leBytes 1 (s.fld Fld.CFG_ASSEMBLY_VARIANT) ++ leBytes 2 (s.fld Fld.FAB_NODE_ID) ++ leBytes 1 (b2n n.dpValid) ++ leBytes 1 0 ++
    leBytes 4 j.sects.length ++ leBytes 4 0 ++ leBytes 8 j.id ++ leBytes 8 n.step ++ leBytes 8 n.dpStep ++
    leBytes 8 (seedCheck n.seed).toNat ++ leBytes 8 n.setId ++ leBytes 8 n.scene ++ leBytes 8 n.time ++ leBytes 2 n.pos ++ leBytes 14 0
  let tail := padTo 128 [] ++ padTo 256 n.dp ++ slotBytes n ++ j.sects.flatMap Sect.encode
  head ++ sha256 (head ++ padTo 32 [] ++ tail) ++ tail

/-- Data to send, filled up to whole 64-byte units with free bytes. -/
def fill64 (bs : List Byte) (s : State) : List Byte × State :=
  let (f, s) := drawBytes (up64 bs.length - bs.length) s
  (bs ++ f, s)

/-- Digests of a checkpoint's sections as their ranges stand, under the job seed of the snapshot (R359, R360). -/
def ckpDigests (s : State) (j : CkpJob) (n : Snap) : List Word :=
  (histSect n j.maddr :: j.given).map (sectDigest s n.seed (BitVec.ofNat 64 n.step))

/-- Bytes of a checkpoint to send. A range written since the snapshot leaves the checkpoint undefined (R359), as far as the digests tell:
from then on free bytes. -/
def ckpData (j : CkpJob) (n : Snap) (bs : List Byte) (s : State) : List Byte × State :=
  if ckpDigests s j n = n.digs then (bs, s) else drawBytes bs.length s

/-- Put the section being read back into the job: the next byte, and after the last one the next section. -/
def CkpJob.advance (j : CkpJob) (d : Sect) (off : Nat) : CkpJob :=
  if off < d.bytes then { j with sects := j.sects.set j.cur d, off := off }
  else { j with sects := j.sects.set j.cur d, cur := j.cur + 1, off := 0 }

/-- Read and send the next part of the section under way. -/
def ckpChunk (j : CkpJob) (n : Snap) (d : Sect) (s : State) : State :=
  let len := min 4032 (d.bytes - j.off)
  let parts := d.pieces j.off len
  let s := parts.foldl (fun s p => shareLines engineTurns p.1 p.2 s) s
  match parts.findSome? fun p => badLine s p.1 p.2 with
  | some a => failJob 7 j.cur 0 (stackError a (s.uncorrInjected a 64) s)
  | none =>
    let (bs, s) := ckpData j n (parts.flatMap fun p => s.bytes p.1 p.2) s
    let s := parts.foldl (fun s p => countCorr p.1 p.2 s) s
    let (data, s) := fill64 bs s
    let s := { s with eng := { s.eng with ckp := some (j.advance d (j.off + len)) } }
    launchReq
      { tag := 0, write := true, sect := j.cur, off := j.off, len := data.length, remote := d.remote + j.off, data := data
        route := j.route, at_ := 0, again := false } s

/-- No request of the checkpoint or restore is outstanding or waits. -/
def jobQuiet (e : EngSt) : Bool := (e.reqs ++ e.wait).all fun r => decide (r.sect = 0x1000)

/-- The next launch of a running checkpoint, if there is one now. -/
def ckpNext (s : State) : Option State :=
  match s.eng.ckp with
  | none => none
  | some j =>
    match j.snap with
    | none => none
    | some n =>
      if j.manifest = [] then
        match j.sects[j.cur]? with
        | some d =>
          if d.bytes = 0 then some { s with eng := { s.eng with ckp := some (j.advance d 0) } } else some (ckpChunk j n d s)
        | none =>
          if jobQuiet s.eng then
            let (m, s) := ckpData j n (manifestOf s j n) s
            some { s with eng := { s.eng with ckp := some { j with manifest := m, off := 0 } } }
          else none
      else if j.off < j.manifest.length then
        let (data, s) := ckpData j n ((j.manifest.drop j.off).take 4032) s
        some (launchReq
          { tag := 0, write := true, sect := 0xFFF, off := j.off, len := data.length, remote := j.maddr + j.off, data := data
            route := j.route, at_ := 0, again := false }
          { s with eng := { s.eng with ckp := some { j with off := j.off + data.length } } })
      else none

/-! ### What a restore fetches next (R365, R368) -/

/-- A candidate holds a section of the plan already. -/
def candMatches (d : Sect) (step : Nat) (check : Word) (c : Cand) : Bool :=
  decide ({ c.sect with remote := d.remote, routeIx := d.routeIx } = d ∧ c.step = step ∧ c.check = check)

/-- A candidate stays unless a section of the new plan overlaps it without matching (R368). -/
def candStays (ds : List Sect) (step : Nat) (check : Word) (c : Cand) : Bool :=
  ds.all fun d => d.isEmpty || !d.meets c.sect || candMatches d step check c

/-- The manifest has come whole: its checks (R365 steps 2 and 3), and the candidates that fall. -/
def manifestIn (j : RstJob) (s : State) : State :=
  let m := j.manifest
  let good := decide (m.take 8 = "SVTCKPT1".toList.map (fun c => BitVec.ofNat 8 c.toNat) ∧ leAt m 8 2 = 1 ∧ 1 ≤ leAt m 10 1 ∧
    leAt m 10 1 ≤ 3 ∧ sha256 (spliceAt m 96 (padTo 32 [])) = (m.drop 96).take 32)
  if !good then failJob 1 0xFFF 0 s
  else if BitVec.ofNat 64 (leAt m 48 8) ≠ seedCheck j.seed then failJob 2 0xFFF 0 s
  else
    { s with eng := { s.eng with
        rst := some { j with haveMan := true, cur := 0, off := 0 }
        table := s.eng.table.filter (candStays j.sects (leAt m 32 8) (seedCheck j.seed)) } }

/-- A read request of the restore. -/
def rstRead (sect off len remote : Nat) (r : EngRoute) : EngReq :=
  { tag := 0, write := false, sect := sect, off := off, len := len, remote := remote, data := [], route := r, at_ := 0, again := false }

/-- The section under way is kept if a candidate matches and the re-digest of its range agrees (R368). -/
def rstKeeps (s : State) (j : RstJob) (d : Sect) : Bool :=
  let step := leAt j.manifest 32 8
  (s.eng.table.any (candMatches d step (seedCheck j.seed))) && decide (sectDigest s j.seed (BitVec.ofNat 64 step) d = d.digest)

/-- Treat the section under way: empty, kept, or its next part fetched (R365 step 4). -/
def rstSection (j : RstJob) (d : Sect) (s : State) : State :=
  let next := { j with cur := j.cur + 1, off := 0 }
  if d.isEmpty then
    if d.digest = 0 then { s with eng := { s.eng with rst := some { next with passed := j.passed ++ [j.cur] } } }
    else failJob 6 j.cur 0 s
  else
    let cand := j.off = 0 ∧ s.eng.table.any (candMatches d (leAt j.manifest 32 8) (seedCheck j.seed))
    let bad := (d.pieces 0 d.bytes).findSome? fun p => badLine s p.1 p.2
    match (if cand then bad else none) with
    | some a => failJob 7 j.cur 0 (stackError a (s.uncorrInjected a 64) s)
    | none =>
      if cand ∧ rstKeeps s j d then
        { s with eng := { s.eng with rst := some { next with kept := j.kept ++ [j.cur], passed := j.passed ++ [j.cur] } } }
      else
        let len := min 4096 (d.bytes - j.off)
        let j' := if j.off + len < d.bytes then { j with off := j.off + len } else next
        launchReq (rstRead j.cur j.off (up64 len) (d.remote + j.off) (j.routes.getD d.routeIx ⟨0, 0, 0, 0⟩))
          { s with eng := { s.eng with rst := some j', table := s.eng.table.filter fun c => !d.meets c.sect } }

/-- The next launch of a running restore, if there is one now. -/
def rstNext (s : State) : Option State :=
  match s.eng.rst with
  | none => none
  | some j =>
    let mr := j.routes.getD j.mroute ⟨0, 0, 0, 0⟩
    if j.haveMan then (j.sects[j.cur]?).map fun d => rstSection j d s
    else if j.off = 0 then
      some (launchReq (rstRead 0xFFF 0 1536 j.maddr mr) { s with eng := { s.eng with rst := some { j with off := 1536 } } })
    else if j.off < j.size then
      let len := min 4096 (j.size - j.off)
      some (launchReq (rstRead 0xFFF j.off len (j.maddr + j.off) mr)
        { s with eng := { s.eng with rst := some { j with off := j.off + len } } })
    else none

/-- The engine launches what it can: at most 64 requests outstanding, and none while QUIESCE is 1 (R356). -/
def engPump : Nat → State → State
  | 0, s => s
  | fuel + 1, s =>
    if s.bit Fld.FAB_CTRL_QUIESCE || decide (64 ≤ s.eng.reqs.length) then s
    else match s.eng.wait with
      | r :: rs => engPump fuel (launchReq r { s with eng := { s.eng with wait := rs } })
      | [] =>
        match ckpNext s with
        | some s => engPump fuel s
        | none =>
          match rstNext s with
          | some s => engPump fuel s
          | none => s

/-- Launch until nothing more can be launched now. -/
def engGo (s : State) : State := engPump 2300 s

/-! ### Replies (R356, R365) -/

/-- Bytes of a section arrive: they are written to its rows, and their digest is formed (R365 step 4). -/
def sectIn (j : RstJob) (d : Sect) (r : EngReq) (bs : List Byte) (s : State) : State :=
  let n := min bs.length (d.bytes - r.off)
  let bs := bs.take n
  let step := BitVec.ofNat 64 (leAt j.manifest 32 8)
  let s := ((d.pieces r.off n).foldl (fun (t : State × Nat) (p : Nat × Nat) =>
    ((shareLines engineTurns p.1 p.2 t.1).store p.1 ((bs.drop t.2).take p.2), t.2 + p.2)) (s, 0)).1
  let got := SMap.get 0 j.got r.sect + n
  let dig := digestBytes j.seed d step r.off bs (SMap.get 0 j.dig r.sect)
  let j := { j with got := SMap.set 0 j.got r.sect got, dig := SMap.set 0 j.dig r.sect dig }
  if got < d.bytes then { s with eng := { s.eng with rst := some j } }
  else if dig = d.digest then { s with eng := { s.eng with rst := some { j with passed := j.passed ++ [r.sect] } } }
  else failJob 6 r.sect 0 { s with eng := { s.eng with rst := some j } }

/-- Bytes of the manifest arrive: after the first 1,536 its size is known, and once whole it is checked. -/
def manBytesIn (j : RstJob) (r : EngReq) (bs : List Byte) (s : State) : State :=
  let got := SMap.get 0 j.got 0xFFF + bs.length
  let m := spliceAt j.manifest r.off bs
  let n := leAt m 16 4
  if r.off = 0 ∧ !(decide (1 ≤ n ∧ n ≤ 1025)) then failJob 1 0xFFF 0 s
  else
    let j := { j with manifest := m, got := SMap.set 0 j.got 0xFFF got, size := 1536 + 64 * leAt m 16 4 }
    let s := { s with eng := { s.eng with rst := some j } }
    if got < j.size then s else manifestIn j s

/-- The data of a read reply; a reply shorter than was asked gives free bytes. -/
def replyBytes (r : EngReq) (bs : List Byte) (s : State) : List Byte × State :=
  let (f, s) := drawBytes (r.len - bs.length) s
  ((bs ++ f).take r.len, s)

/-- A reply reaches the engine: its request ends, or fails with cause REMOTE; a reply to no outstanding tag is
discarded (R356). -/
def reply (write : Bool) (p : DataPkt) (s : State) : State :=
  match s.eng.reqs.find? fun r => decide (r.tag = p.seq.toNat ∧ r.write = write) with
  | none => s
  | some r =>
    let s := { s with eng := { s.eng with reqs := s.eng.reqs.erase r } }
    if p.status ≠ 0 then engGo (failReq r 5 p.status.toNat s)
    else if write then engGo s
    else match s.eng.rst with
      | none => engGo s
      | some j =>
        let (bs, s) := replyBytes r p.payload s
        engGo (if r.sect = 0xFFF then manBytesIn j r bs s
          else match j.sects[r.sect]? with
            | some d => sectIn j d r bs s
            | none => s)

/-- RD_RSP (R356). -/
def execRdRsp (k : LinkId) (p : DataPkt) (s : State) : Out :=
  .next (if p.kind = 5 ∧ p.vl = 2 ∧ p.dcore = 0x7F then handle k (.data p) (fun s => some (reply false p s)) s else s)

/-- WR_ACK (R356). -/
def execWrAck (k : LinkId) (p : DataPkt) (s : State) : Out :=
  .next (if p.kind = 6 ∧ p.vl = 2 ∧ p.dcore = 0x7F then handle k (.data p) (fun s => some (reply true p s)) s else s)

/-- A request that has timed out once is launched again, with the next tag (R356). -/
def retry (r : EngReq) (s : State) : State :=
  launchReq { r with again := true } { s with eng := { s.eng with nextTag := (r.tag + 1) % 64 } }

/-- A request has timed out: it fails, or it is launched once more (R356). -/
def timedOut (r : EngReq) (s : State) : State :=
  let s := { s with eng := { s.eng with reqs := s.eng.reqs.erase r } }
  if r.again then failReq r 4 0 s else retry r s

/-- REQUEST_TIMEOUT (R356): 10 ms after its launch a request without a reply is launched once more under a new tag; the
second time it fails. Timeouts do not run while QUIESCE is 1. -/
def execRequestTimeout (tag : BitVec 14) (s : State) : Out :=
  .next (if s.bit Fld.FAB_CTRL_QUIESCE then s
  else match s.eng.reqs.find? fun r => decide (r.tag = tag.toNat) with
    | none => s
    | some r => engGo (timedOut r (advanceTo (r.at_ + tenMs) s)))

/-- QUIESCE comes into force or ends: the time it stood does not count for the timeouts (R356). -/
def engQuiesce (on : Bool) (s : State) : State :=
  if on then { s with eng := { s.eng with quiet := s.tim.now } }
  else engGo { s with eng := { s.eng with reqs := s.eng.reqs.map fun r => { r with at_ := r.at_ + (s.tim.now - s.eng.quiet) } } }

/-! ### CHECKPOINT (R358 to R361) -/

/-- The route in a CHECKPOINT's operands. -/
def ckpRoute (t : Taken) : EngRoute := ⟨t.at 24 2, t.at 26 1, t.at 27 1, BitVec.ofNat 144 (t.at 32 18)⟩

/-- The descriptors in a payload from byte `at_`. -/
def sectsAt (b : List Byte) (at_ n : Nat) : List (List Byte) := (List.range n).map fun i => (b.drop (at_ + 64 * i)).take 64

/-- Sections that the host gives. -/
def ckpSects (t : Taken) : List Sect := (sectsAt t.payload 0 (t.plen / 64)).map Sect.decode

/-- CHECKPOINT (R358). -/
def ckpRule : CmdRule :=
  ⟨8, [(16, 8), (24, 2), (26, 1), (27, 1), (28, 1), (32, 18), (56, 6)], fun t => decide (t.plen % 64 = 0 ∧ t.plen ≤ 65536), true,
    fun s _ => psUpTo 2 s,
    fun s t =>
      decide (t.at 28 1 ≤ 1) && (decide (t.at 28 1 = 0) || psHold s) && (ckpRoute t).ok && decide (t.at 56 6 % 64 = 0) &&
        decide (t.at 26 1 = 1 ∨ t.at 26 1 = 2) && ((sectsAt t.payload 0 (t.plen / 64)).all fun b =>
          sectReserved b && zeroAt b 7 1 && zeroAt b 40 16 && (Sect.decode b).ok s && decide ((Sect.decode b).tag ≠ 0xFFFF)) &&
        sectsApart (ckpSects t)⟩

/-- What the snapshot point latches (R359). -/
def snapOf (s : State) : Snap :=
  { step := s.fld Fld.SCN_STEP_STEP, pos := s.fld Fld.SCN_SEQ_POS
    slots := (List.range 64).map fun i =>
      (s.bit (Fld.SCN_SLOT_ID_BOUND i), s.fld (Fld.SCN_SLOT_ID_SEQ_ID i), s.fld (Fld.SCN_SLOT_POS_POS i))
    dpValid := s.bit Fld.SCN_RESTORE_DATAPOS_VALID, dp := s.dp, dpStep := s.fld Fld.SCN_DATAPOS_STEP
    setId := s.fld Fld.SCN_BOOK_SET_SET_ID, scene := s.fld Fld.SCN_COUNT_SCENE, time := s.ns
    histBase := s.fld Fld.CFG_HIST_BASE_BASE, histCount := s.fld Fld.CFG_HIST_COUNT, seed := s.seed, digs := [] }

/-- The snapshot of a checkpoint, with the digests of its sections as they stand (R359, R360). -/
def snapAt (s : State) (j : CkpJob) : Snap := { snapOf s with digs := ckpDigests s j (snapOf s) }

/-- The snapshot point of a checkpoint that waits for one (R359). -/
def latchSnap (s : State) : State :=
  match s.eng.ckp with
  | some j => if j.snap.isNone && s.eng.latch.isNone then { s with eng := { s.eng with latch := some (snapAt s j) } } else s
  | none => s

/-- CHECKPOINT (R358, R359): armed; with NOW = 1 this cue or idle tick is the snapshot point. -/
def execCheckpoint (s : State) : Out :=
  .next (command ckpRule (fun t s =>
    let s := beginLong t [] s
    let j : CkpJob :=
      { id := t.at 16 8, route := ckpRoute t, maddr := t.at 56 6, now := decide (t.at 28 1 = 1)
        given := (ckpSects t).map fun d => { d with bytes := d.size }, snap := none, sects := [], cur := 0, off := 0, manifest := [] }
    let s := { s with eng := { s.eng with ckp := some j, latch := none } }
    scanNext (if j.now then latchSnap s else s)) s)

/-- CHECKPOINT_SNAPSHOT (R359, R360): what the snapshot point latched is taken, section 0 is built, and the sections
stream. -/
def execCheckpointSnapshot (s : State) : Out :=
  .next (match s.eng.ckp, s.eng.latch with
    | some j, some n =>
      let ds := (histSect n j.maddr :: j.given).zipWith (fun d x => { d with digest := x }) n.digs
      engGo { s with eng := { s.eng with latch := none, ckp := some { j with snap := some n, sects := ds, cur := 0, off := 0 } } }
    | _, _ => s)

/-- CHECKPOINT_DONE (R361): the last WR_ACK of the manifest has come. -/
def execCheckpointDone (s : State) : Out :=
  .next (match s.eng.ckp with
    | none => s
    | some j =>
      match j.snap with
      | none => s
      | some n =>
        if j.manifest ≠ [] ∧ j.manifest.length ≤ j.off ∧ jobQuiet s.eng ∧ s.controlHalted = false then
          completeLong 0 n.step
            (({ s with eng := { s.eng with ckp := none } }.setFld Fld.SCN_CKP_LAST_STEP n.step).setFld Fld.SCN_CKP_ID_ID j.id)
        else s)

/-! ### RESTORE (R363 to R368) -/

/-- NROUTES and NSECT of a plan. -/
def planRoutes (t : Taken) : Nat := leAt t.payload 4 1
/-- NSECT. -/
def planSects (t : Taken) : Nat := leAt t.payload 0 4

/-- Routes of a plan. -/
def routesOf (t : Taken) : List EngRoute :=
  (List.range (planRoutes t)).map fun i =>
    let b := (t.payload.drop (64 + 32 * i)).take 32
    ⟨leAt b 0 2, leAt b 2 1, leAt b 3 1, BitVec.ofNat 144 (leAt b 4 18)⟩

/-- The section descriptors of a plan, as bytes. -/
def planBytes (t : Taken) : List (List Byte) := sectsAt t.payload (64 + 32 * planRoutes t) (planSects t)

/-- The conditions of R360 and R363 on a section of a plan. -/
def planSectOk (s : State) (t : Taken) (b : List Byte) : Bool :=
  let d := Sect.decode b
  sectReserved b && d.ok s && decide (d.routeIx < planRoutes t) && (d.isEmpty || decide (d.bytes = d.size)) &&
    (decide (d.tag ≠ 0xFFFF ∨ d.bytes = 0) ||
      decide (d.addr = s.fld Fld.CFG_HIST_BASE_BASE + 128 * d.row0 ∧ d.row0 + d.rows + 1 ≤ s.fld Fld.CFG_HIST_COUNT))

/-- RESTORE (R363). -/
def restoreRule : CmdRule :=
  ⟨9, [(16, 8), (24, 4)], fun t => decide (64 ≤ t.plen ∧ t.plen = 64 + 32 * planRoutes t + 64 * planSects t), true,
    fun s _ => psHold s,
    fun s t =>
      decide (s.fld Fld.SCN_RESTORE_GEN < t.at 24 4) && decide (1 ≤ planRoutes t ∧ planRoutes t ≤ 16 ∧ planSects t ≤ 1025) &&
        decide (leAt t.payload 5 1 < planRoutes t) && zeroAt t.payload 6 2 && zeroAt t.payload 14 50 &&
        (routesOf t).all EngRoute.ok &&
        ((List.range (planRoutes t)).all fun i => zeroAt t.payload (64 + 32 * i + 22) 10) &&
        (planBytes t).all (planSectOk s t) && sectsApart (((planBytes t).map Sect.decode).filter fun d => !d.isEmpty)⟩

/-- RESTORE (R365): STATE becomes LOADING, and the manifest is asked for. The sections of a restore that had finished become
candidates (R368). -/
def execRestore (s : State) : Out :=
  .next (command restoreRule (fun t s =>
    let s := beginLong t [] s
    let st := s.fld Fld.SCN_RESTORE_STATE
    let j : RstJob :=
      { seed := BitVec.ofNat 64 (t.at 16 8), gen := t.at 24 4, routes := routesOf t, mroute := leAt t.payload 5 1
        maddr := leAt t.payload 8 6, sects := (planBytes t).map Sect.decode, manifest := [], size := 0, haveMan := false, cur := 0
        off := 0, got := [], dig := [], kept := [], passed := [] }
    let s := { s with eng := { s.eng with
      rst := some j, table := s.eng.table ++ (if st = 3 ∨ st = 4 then s.eng.last else []), last := [] } }
    scanNext (engGo ((s.setFld Fld.SCN_RESTORE_STATE 1).setFld Fld.SCN_RESTORE_GEN j.gen))) s)

/-- The subkey of every bound slot is computed anew under the job seed (R144). -/
def rekey (s : State) : State :=
  { s with subkeys := (List.range 64).foldl (fun m i =>
      SMap.set 0 m i (if s.bit (Fld.SCN_SLOT_ID_BOUND i) then slotSubkey s.seed (BitVec.ofNat 48 (s.fld (Fld.SCN_SLOT_ID_SEQ_ID i)))
        else 0)) s.subkeys }

/-- Set the job seed (R144). -/
def setSeed (seed : Word) (s : State) : State := rekey { s with seed := seed }

/-- The records of the scale history that a restore has filled (R365). -/
def filledOf (ds : List Sect) : List Nat :=
  (ds.filter fun d => decide (d.tag = 0xFFFF ∧ d.bytes ≠ 0)).flatMap fun d => (List.range (d.rows + 1)).map (d.row0 + ·)

/-- Sections of a restore that were fetched. -/
def RstJob.fetched (j : RstJob) : Nat :=
  (j.passed.filter fun i => !j.kept.contains i && !((j.sects[i]?).any Sect.isEmpty)).length

/-- The manifest's data-position record is valid. -/
def RstJob.dpValid (j : RstJob) : Bool := (leAt j.manifest 14 1).testBit 0

/-- What a restore leaves in the engine, the data-position record and the scale history (R365, R368). -/
def restoreKeeps (j : RstJob) (s : State) : State :=
  let m := j.manifest
  let last := j.sects.map fun d => (⟨d, j.gen, leAt m 32 8, BitVec.ofNat 64 (leAt m 48 8)⟩ : Cand)
  { s with
    eng := { s.eng with rst := none, last := last, restored := some (leAt m 32 8, leAt m 80 2, j.seed) }
    dp := if j.dpValid then (m.drop 256).take 256 else []
    hist := { due := true, filled := filledOf j.sects } }

/-- What a restore leaves in the registers (R365). -/
def restoreWrites (j : RstJob) (s : State) : State :=
  let m := j.manifest
  let s := (s.setFld Fld.SCN_STEP_STEP (leAt m 32 8)).setFld Fld.SCN_SEQ_POS (leAt m 80 2)
  let s := (s.setFld Fld.SCN_RESTORE_DATAPOS_VALID (b2n j.dpValid)).setFld Fld.SCN_DATAPOS_STEP (leAt m 40 8)
  (s.setFld Fld.SCN_RESTORE_INFO_KEPT j.kept.length).setFld Fld.SCN_RESTORE_INFO_FETCHED j.fetched

/-- The data-position record agrees with the step, or the restore waits for RESTORE_ALIGN (R365, R366). -/
def restoreAgrees (j : RstJob) (s : State) : State :=
  let m := j.manifest
  if j.dpValid && decide (leAt m 40 8 = leAt m 32 8) then { s with seedSet := true }.setFld Fld.SCN_RESTORE_STATE 4
  else postNotice 3 (if j.dpValid then (leAt m 32 8 + 2 ^ 64 - leAt m 40 8) % 2 ^ 64 else 2 ^ 63) (s.setFld Fld.SCN_RESTORE_STATE 3)

/-- Every section has passed: the restore completes (R365). -/
def restoreEnds (j : RstJob) (s : State) : State :=
  completeLong 0 (j.kept.length + 65536 * j.fetched) (restoreAgrees j (restoreWrites j (setSeed j.seed (restoreKeeps j s))))

/-- RESTORE_DONE (R365 steps 5 and 6, R366): every section has passed. -/
def execRestoreDone (s : State) : Out :=
  .next (match s.eng.rst with
    | none => s
    | some j => if j.haveMan ∧ j.passed.length = j.sects.length ∧ s.controlHalted = false then restoreEnds j s else s)

/-- RESTORE_ALIGN (R366). -/
def alignRule : CmdRule :=
  ⟨10, [(16, 1)], noPayload, false, fun s _ => psHold s && decide (s.fld Fld.SCN_RESTORE_STATE = 3),
    fun s t => decide (t.at 16 1 = 0) || (decide (t.at 16 1 = 1) && s.bit Fld.SCN_RESTORE_DATAPOS_VALID)⟩

/-- RESTORE_ALIGN (R366): accepted; its fields apply at the next cue or idle tick (R299). -/
def execRestoreAlign (s : State) : Out :=
  .next (command alignRule (fun t s =>
    completeTaken t 0 (appliedScene s) 0
      { s with cmdEff := s.cmdEff ++ [.align (t.at 16 1) (s.fld Fld.SCN_DATAPOS_STEP)] }) s)

/-! ### START_RUN (R112, R144, R300, R364, R367) -/

/-- A core in the state after a load: every register zero, no descriptor in a t register, no tile in progress, the Cold
Frame empty (R112, R178). -/
def Core.fresh (k : Core) : Core :=
  { book := k.book, pool := k.pool, phases := k.phases, phaseLost := k.phaseLost }

/-- Length of the loaded scene sequence. -/
def seqLen (s : State) : Nat := match (s.core 0).book with | some b => b.seq.length | none => 0

/-- START_RUN (R300). -/
def startRule : CmdRule :=
  ⟨3, [(16, 8), (24, 8), (32, 2)], noPayload, false,
    fun s _ => psHold s && s.bit Fld.SCN_LOAD_STATUS_LOADED && !decide (s.fld Fld.SCN_RESTORE_STATE = 1 ∨ s.fld Fld.SCN_RESTORE_STATE = 3),
    fun _ _ => true⟩

/-- START_RUN must agree with the restore in READY (R367): DETAIL of the first difference, 0 if there is none. -/
def startDiffers (s : State) (t : Taken) : Nat :=
  match s.eng.restored with
  | some (step, pos, seed) =>
    if s.fld Fld.SCN_RESTORE_STATE ≠ 4 then 0
    else if t.at 24 8 ≠ step then 1
    else if t.at 32 2 ≠ pos then 2
    else if BitVec.ofNat 64 (t.at 16 8) ≠ seed then 3 else 0
  | none => 0

/-- What START_RUN leaves: the job seed and fresh cores, and for the next cue or idle tick the step, the position and restore state
IDLE (R299, R367, R402). -/
def startApplies (t : Taken) (s : State) : State :=
  let s := allCores.foldl (fun s c => s.updCore c Core.fresh) (setSeed (BitVec.ofNat 64 (t.at 16 8)) { s with seedSet := true })
  { s with cmdEff := s.cmdEff ++ [CmdEff.run (t.at 24 8) (t.at 32 2)] }

/-- START_RUN (R300, R367): the seed and the cores at once, the register fields at the next cue or idle tick. -/
def execStartRun (s : State) : Out :=
  .next (command startRule (fun t s =>
    if startDiffers s t ≠ 0 then completeTaken t 2 0 (startDiffers s t) s
    else if seqLen s ≤ t.at 32 2 then completeTaken t 2 0 0 s
    else completeTaken t 0 (appliedScene s) 0 (startApplies t s)) s)

/-! ### ABORT (R300) -/

/-- ABORT (R300): its target must be the running long command, and one that can be stopped. -/
def abortRule : CmdRule :=
  ⟨12, [(16, 4)], noPayload, false,
    fun s t => psUpTo 3 s && (match s.host.long with
      | some l => decide (l.seq = t.at 16 4 ∧ l.seq ≠ 0 ∧ (l.op = 2 ∨ l.op = 8 ∨ l.op = 9))
      | none => false),
    fun _ _ => true⟩

/-- ABORT (R300, R361, R364): the target completes with ABORTED, then ABORT completes. -/
def execAbort (s : State) : Out :=
  .next (command abortRule (fun t s =>
    let s := match s.eng.ckp, s.eng.rst with
      | some _, _ => { s with eng := { s.eng.clearJob with ckp := none, latch := none } }
      | none, some j => endRestore j s
      | none, none => s
    completeTaken t 0 0 0 (completeLong 8 0 s)) s)

/-! ### The twin exchange (R371, R372) -/

/-- A twin record (R372). -/
def twinBytes (s : State) (seq : Nat) (r : TwinRec) : List Byte :=
  padTo 64 (leBytes 4 seq ++ leBytes 2 (s.fld Fld.FAB_NODE_ID) ++ leBytes 1 r.entry ++ leBytes 1 0 ++ leBytes 2 r.tag ++
    leBytes 6 0 ++ leBytes 8 r.step ++ leBytes 8 r.digest.toNat ++ leBytes 8 r.scene)

/-- The route to the partner. -/
def twinRoute (s : State) : EngRoute :=
  ⟨s.fld Fld.XCL_TWIN_PEER_ID, s.fld Fld.XCL_TWIN_PEER_TYPE, s.fld Fld.XCL_TWIN_PEER_HOPS,
    BitVec.ofNat 144 (s.fld Fld.XCL_TWIN_ROUTE0_CODES + 2 ^ 60 * s.fld Fld.XCL_TWIN_ROUTE1_CODES +
      2 ^ 120 * s.fld Fld.XCL_TWIN_ROUTE2_CODES)⟩

/-- One write of the records `rs`, the first of which goes to inbox slot `slot`. -/
def twinWrite (s : State) (slot : Nat) (rs : List (Nat × TwinRec)) : List EngReq :=
  if rs = [] then []
  else
    let data := rs.flatMap fun (r : Nat × TwinRec) => twinBytes s r.1 r.2
    [{ tag := 0, write := true, sect := 0x1000, off := 0, len := data.length, remote := s.fld Fld.XCL_TWIN_PINBOX_BASE + 64 * slot
       data := data, route := twinRoute s, at_ := 0, again := false }]

/-- TWIN_EXCHANGE (R372): the records of the runs completed since the previous exchange leave in at most two writes. Those due while QUIESCE
is 1 are lost with SEND_FAIL (R408). -/
def execTwinExchange (s : State) : Out :=
  .next (if s.twin.due then
    if s.bit Fld.FAB_CTRL_QUIESCE then
      { s with twin := { s.twin with due := false, done := [], seq := s.twin.seq + s.twin.done.length } }.setFld
        Fld.XCL_TWIN_STATUS_SEND_FAIL (b2n (!s.twin.done.isEmpty || s.bit Fld.XCL_TWIN_STATUS_SEND_FAIL))
    else
    let rs := s.twin.done.zipIdx.map fun (r : TwinRec × Nat) => (s.twin.seq + r.2, r.1)
    let slot := s.twin.seq % 64
    let n := min 63 (min rs.length (64 - slot))
    let new := twinWrite s slot (rs.take n) ++ twinWrite s ((slot + n) % 64) (rs.drop n)
    engGo { s with
      twin := { s.twin with due := false, done := [], seq := s.twin.seq + rs.length }
      eng := { s.eng with wait := s.eng.wait ++ new } }
  else s)

end Sys2Proof.Machine
end

