-- ==== Sys2Proof/Machine/Door.lean ====
section
/-! DEFINITION. The Stage Door: images and commits (R381, R387), self-tests and the error state (R383, R384), tokens (R388,
R389), identity and certificates (R390), attestation (R391 to R393), zeroisation and the lifecycle (R394, R395). -/

namespace Sys2Proof.Machine

/-! ### Algorithms (R379) -/

/-- Big-endian value of a list of bytes. -/
def beNat (bs : List Byte) : Nat := bs.foldl (fun n (b : Byte) => n * 256 + b.toNat) 0

/-- Square `k` times modulo `n`. -/
def sqMod (n : Nat) : Nat → Nat → Nat
  | 0, x => x
  | k + 1, x => sqMod n k (x * x % n)

/-- x^65537 mod n. -/
def rsaPublic (n x : Nat) : Nat := x * sqMod n 16 (x % n) % n

/-- The encoded message of RSASSA-PKCS1-v1_5 with SHA-256 for a 3,072-bit modulus (FIPS 186-5). -/
def pkcs1 (digest : List Byte) : List Byte :=
  [0x00#8, 0x01#8] ++ List.replicate 330 0xFF#8 ++
    [0x00#8, 0x30#8, 0x31#8, 0x30#8, 0x0D#8, 0x06#8, 0x09#8, 0x60#8, 0x86#8, 0x48#8, 0x01#8, 0x65#8, 0x03#8, 0x04#8, 0x02#8,
      0x01#8, 0x05#8, 0x00#8, 0x04#8, 0x20#8] ++ digest

/-- The signature over a message verifies under a modulus (R379). -/
def rsaVerifies (modulus sig msg : List Byte) : Bool :=
  decide (beNat sig < beNat modulus ∧ rsaPublic (beNat modulus) (beNat sig) = beNat (pkcs1 (sha256 msg)))

/-- The big-endian `n` bytes of a number. -/
def beBytes (n x : Nat) : List Byte := (List.range n).map fun i => BitVec.ofNat 8 (x / 256 ^ (n - 1 - i))

/-- x^e mod n, for an exponent below 2^k. -/
def powMod (n x : Nat) : Nat → Nat → Nat
  | 0, _ => 1 % n
  | k + 1, e =>
    if e = 0 then 1 % n
    else
      let r := powMod n x k (e / 2)
      if e % 2 = 1 then r * r % n * x % n else r * r % n

/-- The signature of a digest under a key: its modulus and its private exponent (R379). -/
def rsaSign (key : List Byte × List Byte) (digest : List Byte) : List Byte :=
  beBytes 384 (powMod (beNat key.1) (beNat (pkcs1 digest)) 3072 (beNat key.2))

/-! ### The DRBG (R379, R380): Hash_DRBG with SHA-256 of SP 800-90A (PRESUMED, assumption 78) -/

/-- Hash_df to 440 bits. -/
def hashDf (input : List Byte) : List Byte :=
  (sha256 ([1#8] ++ beBytes 4 440 ++ input) ++ sha256 ([2#8] ++ beBytes 4 440 ++ input)).take 55

/-- A DRBG seeded with 384 bits of entropy (R379). -/
def seededDrbg (seed : List Byte) : Drbg :=
  let v := hashDf seed
  ⟨seed, v, hashDf (0#8 :: v), 1⟩

/-- The `n` bytes that the DRBG gives next. -/
def Drbg.bytes (d : Drbg) (n : Nat) : List Byte :=
  ((List.range ((n + 31) / 32)).flatMap fun i => sha256 (beBytes 55 (beNat d.v + i))).take n

/-- The DRBG after it has given bytes. -/
def Drbg.next (d : Drbg) : Drbg :=
  { d with v := beBytes 55 (beNat d.v + beNat (sha256 (3#8 :: d.v)) + beNat d.c + d.ctr), ctr := d.ctr + 1 }

/-- Seed the DRBG from the entropy source. -/
def seedDrbg (s : State) : State :=
  let (e, s) := drawBytes 48 s
  { s with door := { s.door with drbg := some (seededDrbg e) } }

/-- Bytes from the DRBG; one that has been cleared is seeded first (DESIGN CHOICE, assumption 78). -/
def drbgBytes (n : Nat) (s : State) : List Byte × State :=
  let s := if s.door.drbg.isNone then seedDrbg s else s
  match s.door.drbg with
  | some d => (d.bytes n, { s with door := { s.door with drbg := some d.next } })
  | none => ([], s)

/-! ### The error state (R383, R384) -/

/-- The Stage Door is operational. -/
def doorRuns (s : State) : Bool := s.awake && decide (s.fld Fld.SDR_STATUS_STATE = 1)

/-- Enter the error state with a cause, which a first cause keeps. -/
def doorError (cause : Nat) (s : State) : State :=
  if s.fld Fld.SDR_STATUS_STATE = 2 then s else (s.setFld Fld.SDR_STATUS_STATE 2).setFld Fld.SDR_STATUS_CAUSE cause

/-- The results of self-tests: those in `mask` ran, those in `fails` failed (R383, R396). -/
def showTests (mask fails : Nat) (s : State) : State :=
  let keep := 255 - mask
  let s := s.setFld Fld.SDR_TEST_FAIL ((s.fld Fld.SDR_TEST_FAIL &&& keep) ||| (fails &&& mask))
  s.setFld Fld.SDR_TEST_PASS ((s.fld Fld.SDR_TEST_PASS &&& keep) ||| (mask - (fails &&& mask)))

/-- ENTROPY_SAMPLE (R383): a sample that fails the continuous tests puts the Stage Door in the error state. -/
def execEntropySample (pass : Bool) (s : State) : Out :=
  .next (if doorRuns s then
    if pass then showTests 0x40 0 s else doorError 3 (showTests 0x40 0x40 s)
  else s)

/-! ### Images (R381, R387) -/

/-- A valid header by form: MAGIC, FORMAT, KIND, LENGTH, SVN and the zero field. -/
def headerOk (h : List Byte) : Bool :=
  let kind := leAt h 10 1
  let len := leAt h 16 4
  decide (h.take 6 = [0x53#8, 0x56#8, 0x54#8, 0x46#8, 0x57#8, 0x33#8]) &&
    ((decide (kind = 1) && decide ((h.drop 6).take 2 = [0x53#8, 0x4D#8] ∧ len ≤ 0x300000)) ||
     (decide (kind = 2) && decide ((h.drop 6).take 2 = [0x4D#8, 0x43#8] ∧ len ≤ 0x100000))) &&
    decide (leAt h 8 2 = 1 ∧ len % 64 = 0 ∧ leAt h 12 4 ≤ 63) && zeroAt h 56 72

/-- The key of an image: the ROM hash of its slot agrees and the slot is not revoked. -/
def imageKeyOk (s : State) (h : List Byte) : Bool :=
  let ix := leAt h 11 1
  decide (ix < 4 ∧ s.door.fwKeys[ix]? = some (sha256 ((h.drop 128).take 384))) && !(s.fld Fld.SDR_KEY_REVOKE_FW).testBit ix

/-- The length of an image, header and body. -/
def imageLen (img : List Byte) : Nat := 896 + leAt img 16 4

/-- The body of an image. -/
def imageBody (img : List Byte) : List Byte := (img.drop 896).take (leAt img 16 4)

/-- The checks of R381 on the bytes of an image, as COMMIT_RESULT codes them (R396): 1 for a valid one. -/
def imageResult (s : State) (img : List Byte) : Nat :=
  if !headerOk img || decide (img.length < imageLen img) then 2
  else if !imageKeyOk s img then 3
  else if leAt img 12 4 < s.fld Fld.SDR_FW_FUSED_SVN then 4
  else if !rsaVerifies ((img.drop 128).take 384) ((img.drop 512).take 384) (img.take 512) then 5
  else if sha256 (imageBody img) ≠ (img.drop 24).take 32 then 5
  else 1

/-- The lines of the staging area as requester 2 reads them, 64 bytes at a time (R387): zeros outside fitted stacks and while they rest. -/
def stagedLines : Nat → Nat → State → List Byte × State
  | 0, _, s => ([], s)
  | n + 1, a, s =>
    let (b, s) := busReadNow 2 a 64 (granted 2 [2] s)
    let (bs, s) := stagedLines n (a + 64) s
    (b ++ bs, s)

/-- Read the staged image and check it (R381, R387): the copy it makes, whether it is microcode, and COMMIT_RESULT. -/
def readStaged (s : State) : Commit × State :=
  let a := s.fld Fld.SDR_FW_STAGE_ADDR
  let (h, s) := stagedLines 14 a s
  let mc := decide (leAt h 10 1 = 2)
  if headerOk h then
    let (body, s) := stagedLines (leAt h 16 4 / 64) (a + 896) s
    (⟨true, h ++ body, mc, imageResult s (h ++ body)⟩, s)
  else (⟨true, [], mc, 2⟩, s)

/-- FW_COMMIT applies (R387): while a commit runs it is ignored; while self-tests run, its reading waits (R383). -/
def startCommit (s : State) : State :=
  if s.bit Fld.SDR_FW_COMMIT_BUSY then s
  else
    let (c, s) := if s.door.testing then ((⟨false, [], false, 0⟩ : Commit), s) else readStaged s
    { s with door := { s.door with commit := some c } }.setFld Fld.SDR_FW_COMMIT_BUSY 1

/-- Put an image into copy B or copy A. -/
def putCopy (b : Bool) (c : FlashCopy) (p : FlashCopy × FlashCopy) : FlashCopy × FlashCopy := if b then (p.1, c) else (c, p.2)

/-- FW_COMMIT_DONE (R387, R422): the image goes to the inactive copy, and the active pointer switches if the copy reads back right; what a
copy holds that does not is free. A write-protected flash fails at the write. -/
def execFwCommitDone (readback : Bool) (s : State) : Out :=
  .next (match s.door.commit with
    | none => s
    | some c =>
      if !c.read || s.door.testing || !s.awake then s
      else
        let done := fun (r : Nat) (s : State) =>
          ({ s with door := { s.door with commit := none } }.setFld Fld.SDR_FW_COMMIT_BUSY 0).setFld Fld.SDR_FW_COMMIT_RESULT r
        if c.result ≠ 1 then done c.result s
        else if s.bit Fld.CFG_STRAP_FLASH_WP then done 6 s
        else
          let bit := b2n c.mc
          let active := s.fld Fld.SDR_FW_ACTIVE
          let (img, s) := if readback then (c.copy, s) else drawBytes c.copy.length s
          let s := { s with door :=
            if c.mc then { s.door with flashMc := putCopy (!active.testBit bit) img s.door.flashMc }
            else { s.door with flashSm := putCopy (!active.testBit bit) img s.door.flashSm } }
          if readback then done 1 (s.setFld Fld.SDR_FW_ACTIVE (active ^^^ 2 ^ bit)) else done 6 s)

/-- SVN_ADVANCE applies (R387): FUSED_SVN rises to the lower SVN of the running images. -/
def svnAdvance (s : State) : State :=
  if s.door.testing then { s with door := { s.door with svnWaits := true } }
  else s.setFld Fld.SDR_FW_FUSED_SVN (max (s.fld Fld.SDR_FW_FUSED_SVN) (min (s.fld Fld.SDR_FW_SM_SVN) (s.fld Fld.SDR_FW_MC_SVN)))

/-! ### Zeroisation (R395) -/

/-- Zeroisation starts, unless it runs: ZERO_STARTED is blown, and the DRBG state and the nonce are cleared. -/
def startZero (mesh : Bool) (s : State) : State :=
  if s.door.zeroing.isSome then s
  else ({ s with door := { s.door with zeroStarted := true, zeroing := some mesh, drbg := none } }.setFld
    Fld.SDR_NONCE_LO_NONCE 0).setFld Fld.SDR_NONCE_HI_NONCE 0

/-- The key's area is overwritten and read back, and the fuses are blown (R395 steps 3 to 6); every scope is open (R396). -/
def endZero (mesh : Bool) (s : State) : State :=
  let ones := List.replicate 384 0xFF#8
  let s := { s with door := { s.door with
    zeroStarted := true, zeroing := none, keyArea := 2, scopeNext := none, key := (ones, ones) } }
  let s := ((s.setFld Fld.SDR_STATUS_LIFECYCLE 2).setFld Fld.SDR_STATUS_ZEROISED 1).setFld Fld.SDR_STATUS_IDKEY 0
  let s := if mesh then s.setFld Fld.SDR_STATUS_TAMPER 1 else s
  s.setFld Fld.SDR_DEBUG_SCOPE 7

/-- TAMPER (R395): a break in the mesh of a device that runs. -/
def execTamper (s : State) : Out := .next (if s.awake then startZero true s else s)

/-- ZEROISATION_DONE (R395): within 50 ms of its start. -/
def execZeroisationDone (s : State) : Out :=
  .next (match s.door.zeroing with
    | some mesh => if s.awake then endZero mesh s else s
    | none => s)

/-! ### Debug scope (R389) -/

/-- Every debug halt ends. -/
def endHalts (s : State) : State :=
  let dbg := fun (p : PendW) => decide (p.reg = Reg.SCN_DBG_HALT0 ∨ p.reg = Reg.SCN_DBG_HALT1)
  ({ s with pendT := s.pendT.filter (fun p => !dbg p), tap := { s.tap with halted := [] } }.setFld
    Fld.SCN_DBG_HALT0_CORES 0).setFld Fld.SCN_DBG_HALT1_CORES 0

/-- DEBUG_LOCK applies: SCOPE falls to 0 in a DEPLOYED device, and every debug halt ends (R389, R396). -/
def relock (s : State) : State :=
  endHalts ({ s with door := { s.door with scopeNext := none } }.setFld Fld.SDR_DEBUG_SCOPE
    (if s.fld Fld.SDR_STATUS_LIFECYCLE = 1 then 0 else 7))

/-- The scope of an accepted token applies at the first cue after its evaluation. -/
def applyScope (s : State) : State :=
  match s.door.scopeNext with
  | some x => { s with door := { s.door with scopeNext := none } }.setFld Fld.SDR_DEBUG_SCOPE (x ||| s.fld Fld.SDR_DEBUG_SCOPE)
  | none => s

/-! ### Tokens (R388) -/

/-- DEBUG_UNLOCK (R300, R388). -/
def unlockRule : CmdRule := ⟨11, [], fun t => decide (t.plen = 896), true, fun s _ => psUpTo 3 s, fun _ _ => true⟩

/-- DEBUG_UNLOCK (R388): the token goes to the Stage Door. -/
def execDebugUnlock (s : State) : Out :=
  .next (command unlockRule (fun t s =>
    scanNext (beginLong t [] { s with door := { s.door with token := some t.payload } })) s)

/-- MAGIC, KIND and the zero fields of a token are right. -/
def tokenForm (t : List Byte) : Bool :=
  decide (t.take 8 = [0x53#8, 0x56#8, 0x54#8, 0x54#8, 0x4F#8, 0x4B#8, 0x4E#8, 0x31#8] ∧ 1 ≤ leAt t 8 1 ∧ leAt t 8 1 ≤ 3 ∧
    leAt t 10 2 < 8 ∧ leAt t 12 1 < 16 ∧ leAt t 13 1 < 16) && zeroAt t 14 2 && zeroAt t 48 80

/-- The DETAIL with which a token is refused: the first cause of R388's list, after the error state. -/
def tokenRefused (s : State) (t : List Byte) : Option Nat :=
  let ix := leAt t 9 1
  if s.fld Fld.SDR_STATUS_STATE ≠ 1 then some 9
  else if !tokenForm t then some 1
  else if 4 ≤ ix ∨ s.door.tokenKeys[ix]? ≠ some (sha256 ((t.drop 128).take 384)) ∨ (s.fld Fld.SDR_KEY_REVOKE_TOKEN).testBit ix then some 2
  else if leAt t 16 16 ≠ s.fld Fld.SDR_UID_LO_UID + 2 ^ 64 * s.fld Fld.SDR_UID_HI_UID then some 3
  else if leAt t 32 16 ≠ s.fld Fld.SDR_NONCE_LO_NONCE + 2 ^ 64 * s.fld Fld.SDR_NONCE_HI_NONCE then some 4
  else if !rsaVerifies ((t.drop 128).take 384) ((t.drop 512).take 384) (t.take 512) then some 5
  else if s.fld Fld.SDR_STATUS_LIFECYCLE ≠ 1 then some 6
  else if leAt t 8 1 = 1 ∧ (leAt t 10 2).testBit 2 ∧ s.fld Fld.PWR_STATE_PS ≤ 1 then some 7
  else if leAt t 8 1 = 3 ∧ (2 ^ ix ≤ leAt t 12 1 ∨ 2 ^ ix ≤ leAt t 13 1) then some 8
  else none

/-- What an accepted token does (R389, R395). -/
def tokenAct (t : List Byte) (s : State) : State :=
  if leAt t 8 1 = 1 then { s with door := { s.door with scopeNext := some (leAt t 10 2) } }
  else if leAt t 8 1 = 2 then startZero false s
  else (s.setFld Fld.SDR_KEY_REVOKE_FW (s.fld Fld.SDR_KEY_REVOKE_FW ||| leAt t 12 1)).setFld Fld.SDR_KEY_REVOKE_TOKEN
    (s.fld Fld.SDR_KEY_REVOKE_TOKEN ||| leAt t 13 1)

/-- A new nonce is drawn from the DRBG. -/
def drawNonce (s : State) : State :=
  let (bs, s) := drbgBytes 16 s
  (s.setReg Reg.SDR_NONCE_LO (BitVec.ofNat 64 (leAt bs 0 8))).setReg Reg.SDR_NONCE_HI (BitVec.ofNat 64 (leAt bs 8 8))

/-- TOKEN_EVALUATION (R388): within 4 ms of the cue at which DEBUG_UNLOCK was taken, unless self-tests defer it (R383); a new nonce is drawn
whatever the outcome. -/
def execTokenEvaluation (s : State) : Out :=
  .next (match s.door.token with
    | none => s
    | some t =>
      if s.door.testing || !s.awake then s
      else
        let r := tokenRefused s t
        let s := drawNonce { s with door := { s.door with token := none } }
        match r with
        | some d => completeLong 9 d s
        | none => completeLong 0 0 (tokenAct t s))

/-! ### Identity (R390, R394) -/

/-- The manufacture port is open (R394, R422). -/
def mfgPort (s : State) : Bool := doorRuns s && s.bit Fld.CFG_STRAP_MFG && decide (s.fld Fld.SDR_STATUS_LIFECYCLE = 0)

/-- The new identity key goes to OTP, and its public key leaves over the manufacture port (R390). -/
def keepKey (key : List Byte × List Byte) (s : State) : State :=
  let s := (showTests 0x80 0 { s with door := { s.door with keyArea := 1, key := key } }).setFld Fld.SDR_STATUS_IDKEY 1
  { s with out := s.out ++ [.jtag 3 (beNat key.1)] }

/-- The pairwise consistency test (R383): a signature under the private exponent verifies under the modulus. -/
def keyConsistent (key : List Byte × List Byte) : Bool := rsaVerifies key.1 (rsaSign key (sha256 [])) []

/-- Identity key generation (R383, R390): once; the key goes to OTP if the pairwise consistency test passes. -/
def generateKey (key : List Byte × List Byte) (s : State) : State :=
  if mfgPort s && decide (s.door.keyArea = 0) then
    if keyConsistent key then keepKey key s else doorError 1 (showTests 0x80 0x80 s)
  else s

/-- The certificates go to OTP, which accepts one write, of at most 4 KiB (R380, R390). -/
def writeCerts (device ca : List Byte) (s : State) : State :=
  if mfgPort s && s.door.certs.isNone && decide (device.length + ca.length ≤ 4096) then
    { s with door := { s.door with certs := some (device, ca) } }
  else s

/-- The move to DEPLOYED (R394): refused without a certificate; debug then needs a token (R396). -/
def deploy (s : State) : State :=
  if mfgPort s && s.door.certs.isSome then (s.setFld Fld.SDR_STATUS_LIFECYCLE 1).setFld Fld.SDR_DEBUG_SCOPE 0 else s

/-- A service of the manufacture port: while self-tests run it waits (R383). -/
def mfgService (q : DoorReq) (act : State → State) (s : State) : State :=
  if mfgPort s && s.door.testing then { s with door := { s.door with deferred := s.door.deferred ++ [q] } } else act s

/-- IDENTITY_KEY_GENERATION (R383, R390). -/
def execIdentityKeyGeneration (key : List Byte × List Byte) (s : State) : Out :=
  .next (mfgService (.keygen key.1 key.2) (generateKey key) s)

/-- CERTIFICATE_WRITE (R380, R390). -/
def execCertificateWrite (device ca : List Byte) (s : State) : Out :=
  .next (mfgService (.certs device ca) (writeCerts device ca) s)

/-- DEPLOY (R394). -/
def execDeploy (s : State) : Out := .next (mfgService .deploy deploy s)

/-! ### Attestation (R391 to R393) -/

/-- The certificate chain of slot 0: its length, the root hash, the device CA's certificate and the device's. -/
def certChain (s : State) : List Byte :=
  match s.door.certs with
  | some (d, ca) =>
    let n := 4 + 32 + ca.length + d.length
    leBytes 2 n ++ [0#8, 0#8] ++ Config.rootHash ++ ca ++ d
  | none => []

/-- The book digest of core `c` as it is loaded (R113). -/
def bookDigest (s : State) (c : CoreId) : List Byte := match (s.core c).book with | some b => b.digest | none => []

/-- A measurement block's type, with bit 7 for a raw value, and its value (R392); none where it does not exist. -/
def measurement (s : State) (i : Nat) : Option (Nat × List Byte) :=
  if i = 1 then some (0x00, Config.romDigest)
  else if i = 2 then some (0x01, s.door.smDigest)
  else if i = 3 then some (0x01, s.door.mcDigest)
  else if i = 4 then
    some (0x83, leBytes 1 (s.fld Fld.SDR_FW_SM_SVN) ++ leBytes 1 (s.fld Fld.SDR_FW_MC_SVN) ++
      leBytes 1 (s.fld Fld.SDR_FW_FUSED_SVN) ++ [0#8])
  else if i = 5 then
    some (0x83, leBytes 1 (s.fld Fld.SDR_STATUS_LIFECYCLE) ++ leBytes 1 (s.fld Fld.SDR_DEBUG_SCOPE) ++
      leBytes 1 (s.fld Fld.SDR_STATUS_ZEROISED) ++ [0#8])
  else if i = 6 then some (0x82, leBytes 8 (s.reg Reg.CFG_ASSEMBLY).toNat ++ leBytes 8 (s.reg Reg.FLT_FUSE).toNat)
  else if !s.bit Fld.SCN_LOAD_STATUS_LOADED then none
  else if h : 16 ≤ i ∧ i < 112 then some (0x03, bookDigest s ⟨i - 16, by omega⟩)
  else if i = 112 then
    some (0x03, sha256 (leBytes 8 (s.reg Reg.SCN_BOOK_SET).toNat ++ allCores.flatMap fun c => bookDigest s c))
  else none

/-- The indices that exist, in order. -/
def measIndices (s : State) : List Nat := (List.range 113).filter fun i => (measurement s i).isSome

/-- One measurement block. -/
def measBlock (s : State) (i : Nat) : List Byte :=
  match measurement s i with
  | some (t, v) => leBytes 1 i ++ [1#8] ++ leBytes 2 (v.length + 3) ++ leBytes 1 t ++ leBytes 2 v.length ++ v
  | none => []

/-- A response leaves through the mailbox: its code and the fields after the SPDM header. -/
def respond (code : Nat) (bytes : List Byte) (s : State) : State := { s with out := s.out ++ [.spdm code bytes] }

/-- ERROR with a code: 0x01 InvalidRequest, 0x05 Unspecified. -/
def respondError (code : Nat) (s : State) : State := respond 0x7F (leBytes 1 code) s

/-- A response with a nonce from the DRBG, and where one is asked for a signature under the identity key (R379, R391). What SPDM 1.2 has it
sign, the messages of the exchange, the spec does not lay out: their digest is free (assumption 79). -/
def respondSigned (code : Nat) (pre post : List Byte) (sign : Bool) (s : State) : State :=
  let (nonce, s) := drbgBytes 32 s
  let (digest, s) := if sign then drawBytes 32 s else ([], s)
  respond code (pre ++ nonce ++ post ++ (if sign then rsaSign s.door.key digest else [])) s

/-- The key can sign: it is present, and the DRBG is seeded. -/
def canSign (s : State) : Bool := decide (s.door.keyArea = 1) && s.door.drbg.isSome

/-- GET_MEASUREMENTS (R392, R393). -/
def answerMeasurements (i : Nat) (sign : Bool) (s : State) : State :=
  if sign && !canSign s then respondError 5 s
  else if i = 0 then respondSigned 0x60 (leBytes 1 (measIndices s).length ++ leBytes 1 0 ++ leBytes 3 0) [] sign s
  else if i = 0xFF then
    let rec' := (measIndices s).flatMap (measBlock s)
    respondSigned 0x60 (leBytes 1 0 ++ leBytes 1 (measIndices s).length ++ leBytes 3 rec'.length ++ rec') [] sign s
  else if (measurement s i).isNone then respondError 1 s
  else respondSigned 0x60 (leBytes 1 0 ++ leBytes 1 1 ++ leBytes 3 (measBlock s i).length ++ measBlock s i) [] sign s

/-- Answer a request of an operational Stage Door (R391, R394). -/
def answer (q : SpdmReq) (s : State) : State :=
  if q.kind = 0 then respond 0x04 (leBytes 1 1 ++ leBytes 2 0x1200) s
  else if s.fld Fld.SDR_STATUS_LIFECYCLE = 2 then respondError 5 s
  else if q.kind = 1 then respond 0x61 (leBytes 1 13 ++ leBytes 4 0x16) s
  else if q.kind = 2 then respond 0x63 (leBytes 1 1 ++ leBytes 4 2 ++ leBytes 4 4 ++ leBytes 4 1) s
  else if q.kind = 6 then answerMeasurements q.a (decide (q.b = 1)) s
  else if s.door.certs.isNone then respondError 5 s
  else if q.kind = 3 then respond 0x01 (leBytes 1 1 ++ sha256 (certChain s)) s
  else if q.a ≠ 0 then respondError 1 s
  else if q.kind = 4 then
    let ch := certChain s
    if ch.length ≤ q.b then respondError 1 s
    else
      let part := (ch.drop q.b).take q.c
      respond 0x02 (leBytes 2 part.length ++ leBytes 2 (ch.length - q.b - part.length) ++ part) s
  else if canSign s then respondSigned 0x03 (sha256 (certChain s)) [] true s
  else respondError 5 s

/-- A request reaches the mailbox (R383, R384, R391): unanswered before the Stage Door has booted; in the error state the
mailbox sets its DOE Error bit; while self-tests run the request waits. -/
def spdm (q : SpdmReq) (s : State) : State :=
  if !s.awake || decide (s.fld Fld.SDR_STATUS_STATE = 0) then s
  else if s.fld Fld.SDR_STATUS_STATE = 2 then { s with door := { s.door with doeError := true } }
  else if s.door.testing then { s with door := { s.door with deferred := s.door.deferred ++ [.spdm q] } }
  else answer q s

/-- GET_VERSION (R391). -/
def execGetVersion (s : State) : Out := .next (spdm { kind := 0 } s)
/-- GET_CAPABILITIES (R391). -/
def execGetCapabilities (s : State) : Out := .next (spdm { kind := 1 } s)
/-- NEGOTIATE_ALGORITHMS (R391). -/
def execNegotiateAlgorithms (s : State) : Out := .next (spdm { kind := 2 } s)
/-- GET_DIGESTS (R391). -/
def execGetDigests (s : State) : Out := .next (spdm { kind := 3 } s)
/-- GET_CERTIFICATE (R391): slot 0 only. -/
def execGetCertificate (slot : BitVec 4) (off len : BitVec 16) (s : State) : Out :=
  .next (spdm ⟨4, slot.toNat, off.toNat, len.toNat⟩ s)
/-- CHALLENGE (R391): slot 0 only. -/
def execChallenge (slot : BitVec 4) (s : State) : Out := .next (spdm { kind := 5, a := slot.toNat } s)
/-- GET_MEASUREMENTS (R391, R392). -/
def execGetMeasurements (index : BitVec 8) (sign : Bool) (s : State) : Out :=
  .next (spdm { kind := 6, a := index.toNat, b := b2n sign } s)

/-! ### Self-tests on demand (R383) -/

/-- SELFTEST applies: the tests run. -/
def startTests (s : State) : State := { s with door := { s.door with testing := true } }

/-- The results of the self-tests: the deferrals end, and a failure enters the error state (R383, R384). -/
def testsEnd (fails : Nat) (s : State) : State :=
  let s := showTests 0x7F fails { s with door := { s.door with testing := false, deferred := [], svnWaits := false } }
  if fails &&& 0x7F = 0 then s else doorError 1 s

/-- A commit that the self-tests deferred reads its image now, or ends in the error state (R383, R387). -/
def commitAfterTests (ok : Bool) (s : State) : State :=
  match s.door.commit with
  | some c =>
    if c.read then s
    else if ok then
      let (c, s) := readStaged s
      { s with door := { s.door with commit := some c } }
    else { s with door := { s.door with commit := none } }.setFld Fld.SDR_FW_COMMIT_BUSY 0
  | none => s

/-- A service that was deferred is carried out. -/
def performService (q : DoorReq) (s : State) : State :=
  match q with
  | .spdm q => spdm q s
  | .keygen n d => generateKey (n, d) s
  | .certs device ca => writeCerts device ca s
  | .deploy => deploy s

/-- SELFTEST_DONE (R383, R384): all tests but the pairwise one have run; a failure enters the error state; what was deferred is
then completed, as the state then allows. -/
def execSelftestDone (fails : BitVec 8) (s : State) : Out :=
  .next (if s.door.testing && s.awake then
    let t := testsEnd fails.toNat s
    let ok := decide (t.fld Fld.SDR_STATUS_STATE = 1)
    let u := commitAfterTests ok t
    s.door.deferred.foldl (fun s q => performService q s) (if s.door.svnWaits && ok then svnAdvance u else u)
  else s)

end Sys2Proof.Machine
end

