-- ==== Sys2Proof/Machine/Links.lean ====
section
/-! DEFINITION. K-links: flits, going down, and training (R236 to R244). -/

namespace Sys2Proof.Machine

/-- The link's site is fitted (R14, R16). -/
def linkFitted (s : State) (k : Nat) : Bool := decide (k < 12 * s.linkDies)

/-! ### Flits that arrive (R237, R238, R249) -/

/-- A packet that a flit completes goes into its receive buffer, or is discarded (R249, R262). -/
def receive (k : LinkId) (p : Pkt) (s : State) : State :=
  match p with
  | .ctrl q => if q.ckind = 1 ∨ q.ckind = 2 ∨ q.ckind = 3 then arrive k.val p s else discardCtrl k p s
  | .data _ => arrive k.val p s

/-- A flit that passes in SEQ order: it is acknowledged, and its body's packets are received; in PS3 the device accepts no packet
(R244). -/
def acceptFlit (k : LinkId) (lcf : Bool) (body : List Byte) (s : State) : State :=
  let l := s.link k.val
  let s := linkSay k.val 4 l.rxSeq (s.setLink k.val { l with rxSeq := (l.rxSeq + 1) % 4096 })
  if lcf then s
  else
    let l := s.link k.val
    let (ps, rest) := splitBody 300 (l.body ++ body)
    let s := s.setLink k.val { l with body := rest }
    if s.fld Fld.PWR_STATE_PS ≤ 2 then ps.foldl (fun s p => receive k p s) s else s

/-! ### Down and up -/

/-- Discard what a link's queues and buffers hold, with reason FLUSH (R239 step 2). -/
def flushLink (k : Nat) (s : State) : State :=
  let rx := s.fab.rx.filter fun i => decide (i.link = k)
  let tx := s.fab.tx.filter fun t => decide (t.link = k)
  let s := { s with fab := { s.fab with
    rx := s.fab.rx.filter fun i => decide (i.link ≠ k)
    tx := s.fab.tx.filter fun t => decide (t.link ≠ k) && (match t.held with | some i => decide (i.link ≠ k) | none => true)
    used := s.fab.used.filter fun e => decide (e.1 < 4096 + 8 * k ∨ 4096 + 8 * k + 8 ≤ e.1) } }
  let s := rx.foldl (fun s i => dropPkt 8 k i.p s) s
  tx.foldl (fun s t => match t.held with
    | some i => if i.link = k then s else freeBuffer i (dropPkt 8 i.link i.p s)
    | none => dropPkt 8 0x3F t.p s) s

/-- The state in which an idle link stands: DETECT, or OFF while it is disabled, the site is empty, or the device is in PS4 or
FAULT_STOP (R240, R321). -/
def restState (s : State) (k : Nat) : Nat :=
  if s.bit (Fld.KL_CTRL_ENABLE k) && linkFitted s k && decide (s.fld Fld.PWR_STATE_PS ≤ 3 ∧ s.fld Fld.PWR_STATE_FAULT_STOP = 0) then 1 else 0

/-- Begin training anew: the link carries nothing, and FULL_EQ discards the saved coefficients (R240). -/
def startTraining (k : Nat) (s : State) : State :=
  let s := flushLink k s
  let st := restState s k
  let saved := if s.bit (Fld.KL_CTRL_FULL_EQ k) then none else (s.link k).saved
  ((((s.setFld (Fld.KL_STATUS_UP k) 0).setFld (Fld.KL_STATUS_STATE k) st).setFld (Fld.KL_STATUS_LONG k) 0).setFld
    (Fld.KL_STATUS_PEER_REST k) 0).setLink k { saved := saved, due := s.tim.now, since := s.tim.now }

/-- A link that is UP goes down (R238, R239): its packets are discarded, and it retrains. -/
def linkDown (n : Nat) (s : State) : State :=
  if s.bit (Fld.KL_STATUS_UP n) then
    startTraining n (raise 17 { unit := 3, index := n } [] ((s.setFld (Fld.KL_STATUS_DOWN n) 1).addSat (Fld.KL_ERR_DOWNS n) 1))
  else s

/-- LINK_DOWN (R238, R239): a loss of lane lock. -/
def execLinkDown (k : LinkId) (s : State) : Out := .next (linkDown k.val s)

/-- What a flit that passes says (R238): the peer's ACK, and with NAK a replay; a link-control flit may announce the peer's rest or its
end (R244). -/
def heedFlit (k : LinkId) (lctl : Nat) (mgmt : BitVec 2) (s : State) : State :=
  let n := k.val
  let ack := lctl / 2 ^ 12 % 2 ^ 12
  let s := acknowledge n ack s
  let s := if lctl.testBit 24 then replayFlits n ack s else s
  if lctl.testBit 25 && decide (mgmt = 1) then s.setFld (Fld.KL_STATUS_PEER_REST n) 1
  else if lctl.testBit 25 && decide (mgmt = 2) then pump (s.setFld (Fld.KL_STATUS_PEER_REST n) 0)
  else s

/-- FLIT (R237, R238): FEC, CRC, then acceptance in SEQ order, or NAK; the eighth failure in a row takes the link down. `crc` is the
flit's CRC field and `bytes` are its BODY and LCTL, as the FEC leaves them. -/
def execFlit (k : LinkId) (fec : BitVec 2) (crc : BitVec 32) (mgmt : BitVec 2) (bytes : List Byte) (s : State) : Out :=
  .next (
    let n := k.val
    if s.bit (Fld.KL_STATUS_UP n) then
      let s := if fec = 1 then s.addSat (Fld.KL_ERR_FEC n) 1 else s
      let l := s.link n
      if fec = 2 ∨ fec = 3 ∨ !flitOk crc bytes then
        if 7 ≤ l.fails then linkDown n s else linkSay n 2 l.rxSeq (s.setLink n { l with fails := l.fails + 1 })
      else
        let lctl := leNat ((bytes.drop 228).take 4)
        let s := s.setLink n { l with fails := 0 }
        if lctl % 2 ^ 12 = l.rxSeq then acceptFlit k (lctl.testBit 25) (bytes.take 228) (heedFlit k lctl mgmt s)
        else if lctl.testBit 24 then replayFlits n (lctl / 2 ^ 12 % 2 ^ 12) s
        else s
    else s)


/-- The link enters a training state (R240). -/
def enterTraining (n st : Nat) (s : State) : State :=
  (s.setLink n { s.link n with since := s.tim.now }).setFld (Fld.KL_STATUS_STATE n) st

/-- The capability word that this device offers in RATE (R240): the highest revision, generation 3, and its node type, identifier and
port. -/
def capability (n : Nat) (s : State) : Nat :=
  s.fld (Fld.KL_CTRL_REV_MAX n) + 2 ^ 2 * 3 + 2 ^ 4 * s.fld Fld.FAB_NODE_TYPE + 2 ^ 8 * s.fld Fld.FAB_NODE_ID + 2 ^ 24 * n

/-- LINK_DETECT_PROBE (R240): a probe every 1 ms in DETECT; a receiver termination takes the link to RATE, where this device's capability
word leaves. -/
def execLinkDetectProbe (k : LinkId) (found : Bool) (s : State) : Out :=
  .next (
    let n := k.val
    if s.fld (Fld.KL_STATUS_STATE n) = 1 ∧ s.fld Fld.PWR_STATE_PS ≤ 2 then
      let s := advanceTo (s.link n).due s
      let s := s.setLink n { s.link n with due := s.tim.now + 1000000 * unitNs }
      if found then linkSay n 7 (capability n s) (enterTraining n 2 s) else s
    else s)

/-- CAPABILITY_EXCHANGE (R240, R242, R243): the peer is reported; the link leaves RATE with the highest common revision
unless FAB_NODE.VALID is 0, the peer is this node itself, or its type is reserved. -/
def execCapabilityExchange (k : LinkId) (rev gen : BitVec 2) (type : BitVec 4) (id : BitVec 16) (port : BitVec 6) (s : State) : Out :=
  .next (
    let n := k.val
    if s.fld (Fld.KL_STATUS_STATE n) = 2 then
      let s := (((s.setFld (Fld.KL_STATUS_PEER_ID n) id.toNat).setFld (Fld.KL_STATUS_PEER_TYPE n) type.toNat).setFld
        (Fld.KL_STATUS_PEER_PORT n) port.toNat).setFld (Fld.KL_STATUS_PEER_GEN n) gen.toNat
      let clash := decide (type = 1 ∧ id.toNat = s.fld Fld.FAB_NODE_ID) && s.bit Fld.FAB_NODE_VALID
      let s := s.setFld (Fld.KL_STATUS_ID_CLASH n) (b2n clash)
      if !s.bit Fld.FAB_NODE_VALID || clash || !decide (1 ≤ type.toNat ∧ type.toNat ≤ 3) || decide (rev = 0) then s
      else enterTraining n 3 (s.setFld (Fld.KL_STATUS_REV n) (min rev.toNat (s.fld (Fld.KL_CTRL_REV_MAX n))))
    else s)

/-- EQUALISE_DONE (R240): the coefficients are saved, and the link enters MEASURE. -/
def execEqualiseDone (k : LinkId) (s : State) : Out :=
  .next (
    let n := k.val
    if s.fld (Fld.KL_STATUS_STATE n) = 3 then
      enterTraining n 4 (s.setLink n { s.link n with
        saved := some (s.fld (Fld.KL_STATUS_REV n), s.fld (Fld.KL_STATUS_PEER_TYPE n), s.fld (Fld.KL_STATUS_PEER_ID n)) })
    else s)

/-- L of the 64 probes, in 2^-16 ns (R241): half of what each round trip lasts beyond the peer's turnaround, averaged. DESIGN CHOICE
(assumption 75): rounded down, and a probe that returns before the turnaround it reports counts as 0. -/
def probeLatency (probes : List (BitVec 40 × BitVec 40)) : Nat := (probes.map fun p => p.1.toNat - p.2.toNat).sum / 128

/-- MEASURE_DONE (R241): the latency is stored; above 1,000 ns the link stays in MEASURE with LONG set. A parent link
above 200 ns sets TREE_SLOW (R33). -/
def execMeasureDone (k : LinkId) (probes : List (BitVec 40 × BitVec 40)) (s : State) : Out :=
  .next (
    let n := k.val
    let lat := probeLatency probes
    if s.fld (Fld.KL_STATUS_STATE n) = 4 ∧ s.fld (Fld.KL_STATUS_LONG n) = 0 ∧ probes.length = 64 then
      let s := s.setFld (Fld.KL_LATENCY_LAT n) (min (2 ^ 32 - 1) lat)
      let s := if s.fld Fld.TIM_CUE_PARENT_PORT = n then
        s.setFld Fld.TIM_STATUS_TREE_SLOW (b2n (decide (200 * 65536 < lat))) else s
      if 1000 * 65536 < lat then s.setFld (Fld.KL_STATUS_LONG n) 1 else enterTraining n 5 s
    else s)

/-- VERIFY_DONE (R240): the test pattern passes, and the link is UP. -/
def execVerifyDone (k : LinkId) (s : State) : Out :=
  .next (
    let n := k.val
    if s.fld (Fld.KL_STATUS_STATE n) = 5 then
      ((s.setFld (Fld.KL_STATUS_STATE n) 6).setFld (Fld.KL_STATUS_UP n) 1).setLink n { saved := (s.link n).saved }
    else s)

/-- TRAINING_RETRY (R240): 10 ms after a failure of a training state, which came no earlier than the link entered it, the link returns
to DETECT, and DOWNS counts it. A link held in MEASURE by LONG tries again only on RETRAIN (R241). -/
def execTrainingRetry (k : LinkId) (s : State) : Out :=
  .next (
    let n := k.val
    let st := s.fld (Fld.KL_STATUS_STATE n)
    if 1 ≤ st ∧ st ≤ 5 ∧ s.fld (Fld.KL_STATUS_LONG n) = 0 then 
      startTraining n ((advanceTo ((s.link n).since + 10000000 * unitNs) s).addSat (Fld.KL_ERR_DOWNS n) 1)
    else s)

end Sys2Proof.Machine
end

