-- ==== Sys2Proof/Machine/Health.lean ====
section
/-! DEFINITION. The health pair: severe sources, the suspect mark and the fault pair (R331 to R336, R348), trips into
FAULT_STOP (R313, R320, R321, R414, R424), sensors, Frost Watch (R349 to R351), Wilt Watch (R208 to R210) and the patrol
scrub (R233). -/

namespace Sys2Proof.Machine

/-! ### The fault pair (R336) -/

/-- Say the levels of the fault pair: 0 both low, 1 no fault, 2 fault. -/
def pairOut (level : Nat) (s : State) : State := { s with out := s.out ++ [.pin 0 level] }

/-- Drive the pair to its fault level, where it stays. -/
def pairFault (s : State) : State :=
  let s' := { s with flt := { s.flt with pinTest := false, driven := true } }
  if s.bit Fld.FLT_STATUS_PIN then s' else pairOut 2 (s'.setFld Fld.FLT_STATUS_PIN 1)

/-- Drive the pair to its no-fault level. -/
def pairClear (s : State) : State :=
  pairOut 1 ({ s with flt := { s.flt with pinTest := false, driven := true } }.setFld Fld.FLT_STATUS_PIN 0)

/-- PIN_TEST drives the fault level from one cue to the next. -/
def pairTest (s : State) : State :=
  if s.bit Fld.FLT_STATUS_PIN then s
  else pairOut 2 ({ s with flt := { s.flt with pinTest := true } }.setFld Fld.FLT_STATUS_PIN 1)

/-- PIN_CLEAR (R336): only while the device is neither suspect nor in FAULT_STOP. -/
def pairClearWritten (s : State) : State :=
  if s.bit Fld.FLT_STATUS_SUSPECT || s.bit Fld.PWR_STATE_FAULT_STOP then s else pairClear s

/-! ### Severe sources and the suspect mark (R333, R348) -/

/-- Mark the device suspect, at most once per reset. -/
def markSuspect (src unit index : Nat) (s : State) : State :=
  if s.bit Fld.FLT_STATUS_SUSPECT then s
  else
    let s := s.setFld Fld.FLT_STATUS_SUSPECT 1
    let s := ((s.setFld Fld.FLT_SUSPECT_INFO_SOURCE src).setFld Fld.FLT_SUSPECT_INFO_UNIT unit).setFld Fld.FLT_SUSPECT_INFO_INDEX index
    let s := s.setFld Fld.FLT_SUSPECT_SCENE_SCENE (s.fld Fld.SCN_COUNT_SCENE)
    let s := logEvent 0x4C {} (leBytes 1 src ++ leBytes 1 unit ++ leBytes 1 index) s
    let s := pairFault (s.addSat Fld.FLT_FUSE_COUNT 1)
    markOverrun (if unit = 1 then index else 0) s

/-- What a severe event does (R333). -/
def severeActs (src : Nat) (pin suspect : Bool) (unit index : Nat) (s : State) : State :=
  let s := postNotice 5 src (s.setFld Fld.FLT_STATUS_SEVERE 1)
  let s := if pin then pairFault s else s
  if suspect then markSuspect src unit index s else s

/-- SEVERE (R333): the actions of the oldest source that has become severe. -/
def execSevere (s : State) : Out :=
  .next (match s.flt.severe with
    | [] => s
    | d :: ds =>
      severeActs d.src (s.bit (Fld.FLT_SRC_CFG_PIN d.src)) (!d.injected && s.bit (Fld.FLT_SRC_CFG_SUSPECT d.src)) d.unit d.index
        { s with flt := { s.flt with severe := ds } })

/-- An event that is severe at once, whatever its source's counting says: it is counted and logged (R332, R333, R401). -/
def severeEvent (src : Nat) (o : Origin) (pin suspect : Bool) (s : State) : State :=
  let mark := suspect && !s.bit Fld.FLT_STATUS_SUSPECT
  let (s, _) := countEvent src s
  let s := logRecord (eventRecord src o true mark [] s) s
  let s := if s.bit (Fld.FLT_SRC_CFG_IE src) then
      irq 2 (s.setFld Fld.FLT_INT_PEND_PEND (s.fld Fld.FLT_INT_PEND_PEND ||| 2 ^ src))
    else s
  severeActs src pin suspect o.unit o.index s

/-! ### FAULT_STOP (R320, R321) -/

/-- Turn one K-link's transmitters off: it carries nothing, and what its queues hold is discarded (R239, R321). -/
def linkOff (s : State) (k : Nat) : State :=
  if s.fld (Fld.KL_STATUS_STATE k) = 0 then s
  else ((((flushLink k s).setFld (Fld.KL_STATUS_UP k) 0).setFld (Fld.KL_STATUS_STATE k) 0).setFld (Fld.KL_STATUS_PEER_REST k) 0).setLink
    k { saved := (s.link k).saved }

/-- The section under way, or the one of the oldest outstanding request once every section is under way (DESIGN CHOICE, assumption 77). -/
def sectionAt (s : State) (cur n : Nat) : Nat :=
  if cur < n ∨ n = 0 then cur
  else match s.eng.reqs.find? fun r => decide (r.sect ≠ 0x1000) with
    | some r => r.sect
    | none => 0xFFF

/-- The section that a running checkpoint or restore is at (R357). -/
def jobSection (s : State) : Nat :=
  match s.eng.ckp, s.eng.rst with
  | some j, _ => if j.manifest = [] then sectionAt s j.cur j.sects.length else 0xFFF
  | none, some j => if j.haveMan then sectionAt s j.cur j.sects.length else 0xFFF
  | none, none => 0

/-- A long command that runs completes with FAILED (R321). -/
def tripLong (s : State) : State :=
  let s := if s.eng.ckp.isSome || s.eng.rst.isSome then failJob 8 (jobSection s) 0 s else completeLong 10 0 s
  { s with
    pwr := { s.pwr with step := none, waits := false }
    door := { s.door with token := none }
    eng := { s.eng with reqs := [], wait := [] } }

/-- A trip (R320, R321): the cause and the rail index that PWR_TRIP_INFO names. A device that is in FAULT_STOP already, or
has no power, does not trip. -/
def trip (cause rail : Nat) (s : State) : State :=
  if !s.awake || s.bit Fld.PWR_STATE_FAULT_STOP then s
  else
    let s := allCores.foldl (fun s c => s.updCore c fun k => { k with stopped := true }) s
    let s := allCores.foldl (fun s c => s.setFld (Fld.PWR_RAIL_ON c.val) 0) s
    let s := (List.range 48).foldl linkOff s
    let s := s.setFld Fld.PWR_STATE_FAULT_STOP 1
    let s := (s.setFld Fld.PWR_TRIP_INFO_CAUSE cause).setFld Fld.PWR_TRIP_INFO_RAIL rail
    let s := pairFault (s.setFld Fld.PWR_TRIP_TIME_TIME s.ns)
    let s := { s with
      rhs := { s.rhs with running := [], opp := false, forced := [] }
      tim := { s.tim with cuesRun := false, sceneOn := false, idleDue := s.tim.now + 16384 * unitNs }
      pwr := { s.pwr with ramping := false, clearing := false } }
    severeEvent 24 {} true (decide (cause = 5 ∨ cause = 6)) (tripLong s)

/-- VIN_OVERCURRENT (R320). -/
def execVinOvercurrent (s : State) : Out := .next (trip 1 0x7F s)

/-- The rail of a fitted site, or VIN_MAIN's index 113 (R319, R414). -/
def railExists (s : State) (i : Nat) : Bool :=
  decide (i < 96 ∨ (96 ≤ i ∧ i < 96 + s.nStacks) ∨ (108 ≤ i ∧ i < 108 + s.linkDies) ∨ i = 112 ∨ i = 113)

/-- RAIL_FAULT (R320, R401, R414). -/
def execRailFault (rail : BitVec 7) (s : State) : Out := .next (if railExists s rail.toNat then trip 2 rail.toNat s else s)

/-- LOCKSTEP (R313): SMG_STATUS reports the pair. -/
def execLockstep (pair : Bool) (s : State) : Out :=
  .next (if s.awake && s.pwr.released then
    trip 5 0x7F (s.setFld (if pair then Fld.SMG_STATUS_PAIR1_OK else Fld.SMG_STATUS_PAIR0_OK) 0)
  else s)

/-- TCM_UNCORR (R313). -/
def execTcmUncorr (s : State) : Out := .next (if s.awake && s.pwr.released then trip 6 0x7F s else s)

/-! ### Sensors (R424, R427) -/

/-- Trip temperature of a die sensor in °C. -/
def tripAt (i : Nat) : Nat := if 96 ≤ i ∧ i < 108 then 95 else if i = 112 then 105 else 110

/-- Die sensors of fitted sites, by rail index. -/
def sensors (s : State) : List Nat := (List.range 113).filter (railExists s)

/-- A die sensor's reading in 1/16 °C. -/
def tempOf (r : Readings) (i : Nat) : Int := (r.temps.getD i 0).toInt

/-- The trip that a reading causes, if any: the lowest cause, and within it the lowest index (R424). -/
def tripOf (s : State) (r : Readings) (below : Int) : Option (Nat × Nat) :=
  match (sensors s).find? fun i => decide (16 * (tripAt i : Int) - below ≤ tempOf r i) with
  | some i => some (3, i)
  | none => if 16 * 65 - below ≤ r.coldplate.toInt then some (4, 0x7F) else none

/-- The smallest difference between a trip temperature and its sensor, in 1/16 °C, with the index of the sensor: the
lowest, the cold plate last (R349, R427). -/
def marginOf (s : State) (r : Readings) : Int × Nat :=
  (sensors s).reverse.foldl (fun (m : Int × Nat) i =>
    let d := 16 * (tripAt i : Int) - tempOf r i
    if d ≤ m.1 then (d, i) else m) (16 * 65 - r.coldplate.toInt, 0x7F)

/-- The margin in whole °C. -/
def wholeMargin (s : State) (r : Readings) : Int := (marginOf s r).1 / 16

/-- Put the temperatures into their registers. A margin below zero has no value in MARGIN that a rule gives: it is free. -/
def showTemps (r : Readings) (s : State) : State :=
  let s := (sensors s).foldl (fun s i => s.setFld (Fld.PWR_RAIL_TEMP i) (r.temps.getD i 0).toNat) s
  let (w, s) := if wholeMargin s r < 0 then drawWord s else (0, s)
  let m := if wholeMargin s r < 0 then w.toNat % 128 else min 127 (wholeMargin s r).toNat
  ((s.setFld Fld.PWR_THERM_COLDPLATE r.coldplate.toNat).setFld Fld.PWR_THERM_MARGIN m).setFld Fld.PWR_THERM_MIN_IX (marginOf s r).2

/-- SENSOR_READ (R424): the sensors are read, and one at or above its trip trips the device. -/
def execSensorRead (r : Readings) (s : State) : Out :=
  .next (if s.awake then
    let s := showTemps r { s with pwr := { s.pwr with readings := r } }
    match tripOf s r 0 with
    | some (cause, rail) => trip cause rail s
    | none => s
  else s)

/-- The regulators are read once per scene (R318, R319, R427). -/
def readRails (s : State) : State :=
  let r := s.pwr.readings
  let s := (sensors s).foldl (fun s i =>
    (s.setFld (Fld.PWR_RAIL_MV i) (r.railMv.getD i 0).toNat).setFld (Fld.PWR_RAIL_CURRENT i) (r.railCur.getD i 0).toNat) s
  (((s.setFld Fld.PWR_VIN_MV r.vinMv.toNat).setFld Fld.PWR_VIN_AMPS r.vinAmps.toNat).setFld Fld.PWR_VIN_PEAK r.vinPeak.toNat).setFld
    Fld.PWR_VIN_AUX_MV r.auxMv.toNat

/-- Watts of the scene above the budget. -/
def powerExcess (s : State) : Nat := s.fld Fld.PWR_PKG_NOW - s.fld Fld.PWR_BUDGET_WATTS

/-- At a cue the health pair forms PWR_PKG, and logs PWR_NEAR where the average exceeds the budget (R318). -/
def measurePower (s : State) : State :=
  let r := s.pwr.readings
  let s := ((readRails s).setFld Fld.PWR_PKG_NOW r.pkgAvg.toNat).setFld Fld.PWR_PKG_PEAK r.pkgPeak.toNat
  if 0 < powerExcess s then logEvent 0x47 {} (leBytes 2 (s.fld Fld.PWR_PKG_NOW)) (s.setFld Fld.PWR_STATUS_NEAR 1) else s

/-! ### Frost Watch (R349 to R351) -/

/-- One step of e_i (R349). -/
def frostStep (e x a : Nat) : Nat := ((e : Int) + ((x : Int) * 2 ^ 32 - (e : Int)) / 2 ^ a).toNat

/-- term_i (R349). -/
def frostTerm (e gain a cap : Nat) : Nat := min cap (gain * e / 2 ^ (36 - a))

/-- Input x_i over the scene that ended, in its 24 bits. -/
def frostX (s : State) (i : Nat) : Nat := min (2 ^ 24 - 1) (if i = 4 then powerExcess s else SMap.get 0 s.frostX i)

/-- The thermal term. -/
def frostTherm (s : State) : Nat :=
  let m := wholeMargin s s.pwr.readings
  if 20 ≤ m then 0 else min 320 (16 * (20 - m)).toNat

/-- Post SECURE_NOW and log it (R350). -/
def secureNow (s : State) : State :=
  let score := s.fld Fld.FRW_SCORE_SCORE
  let s := logEvent 0x4B {} (leBytes 2 score) (postNotice 1 score s)
  { s with frost := { s.frost with last := some (s.fld Fld.SCN_COUNT_SCENE) } }

/-- HOLDOFF scenes have passed since the last SECURE_NOW (R350). -/
def heldOff (s : State) : Bool :=
  match s.frost.last with
  | some n => decide (n + s.fld Fld.FRW_CTRL_HOLDOFF ≤ s.fld Fld.SCN_COUNT_SCENE)
  | none => true

/-- e_i as it stands: the fused prior until the first update (R351). -/
def frostE (s : State) (i : Nat) : Nat := if s.frost.n = 0 then SMap.get 0 s.frost.prior i else SMap.get 0 s.frost.e i

/-- The update at a cue (R349, R350). -/
def frostUpdate (s : State) : State :=
  let es := (List.range 5).map fun i => frostStep (frostE s i) (frostX s i) (s.fld (Fld.FRW_IN_CFG_A i))
  let terms := (List.range 5).map fun i =>
    frostTerm (es.getD i 0) (s.fld (Fld.FRW_IN_CFG_GAIN i)) (s.fld (Fld.FRW_IN_CFG_A i)) (s.fld (Fld.FRW_IN_CFG_CAP i))
  let therm := frostTherm s
  let score := min 1023 (terms.sum + therm)
  let s := (List.range 5).foldl (fun s i => s.setFld (Fld.FRW_IN_STATE_TERM i) (terms.getD i 0)) s
  let s := (s.setFld Fld.FRW_SCORE_SCORE score).setFld Fld.FRW_SCORE_THERM therm
  let s := { s with
    frostX := []
    frost := { s.frost with n := s.frost.n + 1, e := (List.range 5).foldl (fun m i => SMap.set 0 m i (es.getD i 0)) s.frost.e } }
  if s.bit Fld.FRW_SCORE_ARMED && decide (s.fld Fld.FRW_CTRL_THRESH ≤ score) && heldOff s then
    (secureNow s).setFld Fld.FRW_SCORE_ARMED 0
  else if score + s.fld Fld.FRW_CTRL_HYST < s.fld Fld.FRW_CTRL_THRESH then s.setFld Fld.FRW_SCORE_ARMED 1
  else s

/-- FROST_WATCH_WARM (R351): after 4,096 updates one SECURE_NOW is posted whatever the score. -/
def execFrostWatchWarm (s : State) : Out :=
  .next (if 4096 ≤ s.frost.n ∧ s.frost.warm = false then
    secureNow ({ s with frost := { s.frost with warm := true } }.setFld Fld.FRW_SCORE_LOW_CONF 0)
  else s)

/-! ### Wilt Watch (R208 to R210) -/

/-- The step was wilting for a tag (R208). -/
def wilting (w : WiltCnt) (frac : Nat) : Bool := decide (1 ≤ w.e ∧ (w.z = w.e ∨ frac * w.e < w.u * 1024))

/-- The counter of one entry at the cue that ends a step, with what falls due (R209, R210). -/
def wiltEntry (s : State) (i : Nat) : State :=
  let w : WiltCnt := SMap.get {} s.wlt i
  if !s.bit (Fld.WLT_TAG_VALID i) || decide (w.e = 0) then s
  else if wilting w (s.fld Fld.WLT_CTRL_FRAC) then
    let old := s.fld (Fld.WLT_COUNT_COUNT i)
    let s := s.addSat (Fld.WLT_COUNT_COUNT i) 1
    let n := s.fld (Fld.WLT_COUNT_COUNT i)
    let d : WiltDue := ⟨s.fld (Fld.WLT_TAG_TAG i), n, s.fld Fld.SCN_STEP_STEP⟩
    let s := if old ≠ n ∧ n = s.fld Fld.WLT_CTRL_STEPS ∧ s.fld Fld.WLT_CTRL_ALARM_EN = 1 then
        { s with wiltAlarms := s.wiltAlarms ++ [d] } else s
    if old ≠ n ∧ n % 1024 = 0 then { s with wiltLongs := s.wiltLongs ++ [d] } else s
  else s.setFld (Fld.WLT_COUNT_COUNT i) 0

/-- The Wilt Watch update at the cue that ends a step (R209). -/
def wiltUpdate (s : State) : State := { (List.range 256).foldl wiltEntry s with wlt := [] }

/-- The payload of WILT_ALARM and WILT_LONG (R210). -/
def wiltPayload (d : WiltDue) : List Byte := leBytes 2 d.tag ++ leBytes 3 d.count

/-- Log a Wilt Watch event with the step that ended. -/
def logWilt (code : Nat) (d : WiltDue) (s : State) : State :=
  logRecord (eventRecord code {} false false (wiltPayload d) (s.setFld Fld.SCN_STEP_STEP d.step)) s

/-- WILT_ALARM (R210). -/
def execWiltAlarm (s : State) : Out :=
  .next (match s.wiltAlarms with
    | [] => s
    | d :: ds => irq 2 (logWilt 0x44 d ({ s with wiltAlarms := ds }.setFld Fld.WLT_STATUS_ALARM 1)))

/-- WILT_LONG (R210). -/
def execWiltLong (s : State) : Out :=
  .next (match s.wiltLongs with
    | [] => s
    | d :: ds => logWilt 0x45 d ({ s with wiltLongs := ds }.setFld Fld.WLT_STATUS_LONG 1))

/-! ### The patrol scrub (R233) -/

/-- The scrub walks: the memories are up, the stacks are not in self-refresh, and SCRUB_EN is 1. -/
def scrubOn (s : State) : Bool :=
  s.ready && decide (s.fld Fld.PWR_STATE_PS ≤ 2) && !s.bit Fld.PWR_STATE_FAULT_STOP && s.bit Fld.MEM_CTRL_SCRUB_EN

/-- Lines among the 128 of one turn of stack `k` that hold an error. -/
def scrubLines (s : State) (k : Nat) : List Nat :=
  let a := stackSize * k + 8192 * s.scrub.line
  ((s.ecc.filter fun e => decide (a / 16 ≤ e.1 ∧ e.1 < a / 16 + 512)).map fun e => e.1 / 4).eraseDups

/-- What the scrub finds in one line: an uncorrectable error is logged; a correctable one is counted and written back in the
next turn. -/
def scrubLine (s : State) (l : Nat) : State :=
  let k := 64 * l / stackSize
  let s := stackCorr k (s.corrCount (64 * l) 64) s
  if s.uncorr (64 * l) 64 then
    raise 16 { unit := 2, index := k, injected := s.uncorrInjected (64 * l) 64 } (leBytes 6 (64 * l))
      ((s.setFld (Fld.MEM_STATUS_SCRUB_UNCORR k) 1).setFld (Fld.MEM_ERR_ADDR_ADDR k) (64 * l))
  else { s with scrub := { s.scrub with back := s.scrub.back ++ [l] } }

/-- Write a corrected line back; one written since holds no error and is left as it is. -/
def scrubBack (s : State) (l : Nat) : State :=
  { s with ecc := s.ecc.filter fun e => decide (e.1 / 4 ≠ l ∨ e.2 ≠ .corr) }

/-- SCRUB_READ (R233): in one turn, corrected lines of the last turn are written back and the next line of every channel of
every stack is read. -/
def execScrubRead (s : State) : Out :=
  .next (if scrubOn s then
    let turn := max (turnFrom 2 s.sinceCue) s.scrub.turn
    let s := advanceTo (s.cueCycleAt (turnCycle turn 2)) s
    let s := s.scrub.back.foldl scrubBack s
    let s := { s with scrub := { s.scrub with back := [], turn := turn + 1 } }
    let s := ((List.range s.nStacks).flatMap (scrubLines s)).foldl scrubLine s
    if s.scrub.line + 1 < 2 ^ 24 then { s with scrub := { s.scrub with line := s.scrub.line + 1 } }
    else (List.range s.nStacks).foldl (fun s k => s.addSat (Fld.MEM_SCRUB_PASSES k) 1) { s with scrub := { s.scrub with line := 0 } }
  else s)

end Sys2Proof.Machine
end

