-- ==== Sys2Proof/Machine/SetCheck.lean ====
section
/-! DEFINITION. The checks of a prompt book set that are made at its load and again when the device is asked to leave PS2:
CAP (R74), speculation (R147), reservations (R264) and power (R317), and the budget of its programs (R27, R28). -/

namespace Sys2Proof

/-- Energy of one scene program in nJ, by the figures that the firmware holds for the part (R317): a free value of the
program's code. -/
opaque Config.programEnergy : List Byte → Nat

/-- Fixed power of the stacks, the link dies and the service die in W for a variant (R317): a free value. -/
opaque Config.fixedPower : Nat → Nat

end Sys2Proof

namespace Sys2Proof.Machine

/-- What the loader reports of a rejected set (R125): code, core, scene program and bundle. -/
structure Reject where
  code : Nat
  core : Nat
  program : Nat := 0xFFFF
  bundle : Nat := 0xFFFFFFFF
  deriving DecidableEq, Repr

/-- A set as the checks see it: the book of every core, in core order, with its code section. -/
abbrev BookSet := List (Book × List Byte)

/-- A layer declares a level above CFG_NC.CAP (R74). -/
def capBroken (s : State) (b : Book) : Bool := b.layers.any fun l => decide (s.fld Fld.CFG_NC_CAP < l.2)

/-- Speculation marks while CFG_SPEC.EN is 0 (R147). -/
def specBroken (s : State) (b : Book) : Bool := b.usesSpec && !s.bit Fld.CFG_SPEC_EN

/-- Reservation `r` is VALID with LINK 0x3F: the device's own end of a transfer (R264). -/
def resOut (s : State) (r : Nat) : Bool := s.bit (Fld.FAB_RES_VALID r) && decide (s.fld (Fld.FAB_RES_LINK r) = 0x3F)

/-- Reservation `r` is VALID with a LINK on a link die (R264). -/
def resIn (s : State) (r die : Nat) : Bool :=
  s.bit (Fld.FAB_RES_VALID r) && decide (s.fld (Fld.FAB_RES_LINK r) / 12 = die ∧ s.fld (Fld.FAB_RES_LINK r) < 48)

/-- The reservations of a transfer table entry are not as R264, R279 and R281 ask: its own, an XRED's RES_IN and a GATHER's
REPLY_RES. -/
def xferBroken (s : State) (e : XferEntry) : Bool :=
  match e.kind with
  | 1 => !resOut s (e.res % 1024)
  | 2 => !resIn s (e.res % 1024) e.linkDie
  | 3 => !resOut s (e.res % 1024) || !resIn s e.replyRes e.linkDie
  | 4 => !resOut s (e.res % 1024) || (decide (0 < e.inCount) && !resIn s e.resIn e.linkDie)
  | _ => false

/-- Energy of the program that a book runs at a position of the sequence. -/
def energyAt (b : Book × List Byte) (pos : Nat) : Nat :=
  match b.1.seq[pos]? with
  | some (p, _) => match b.1.progs[p]? with
    | some e => Config.programEnergy ((b.2.drop e.off).take (32 * e.count))
    | none => 0
  | none => 0

/-- A position of the sequence exceeds PWR_BUDGET (R317): energy in nJ over the scene's duration in ns, and the fixed
power. -/
def powerBroken (s : State) (bs : BookSet) : Bool :=
  let len := s.fld Fld.SCN_LEN_LEN
  let most := s.fld Fld.PWR_BUDGET_WATTS
  (List.range ((bs.head?.map fun b => b.1.seq.length).getD 0)).any fun pos =>
    decide (most * len * 5 < (bs.map fun b => energyAt b pos).sum * 18 + Config.fixedPower (s.fld Fld.CFG_ASSEMBLY_VARIANT) * len * 5)

/-- The first of these checks that one book fails. -/
def bookRecheck (s : State) (n : Nat) (b : Book) : Option Reject :=
  if b.xfers.any (xferBroken s) then some { code := 0x0B, core := n }
  else if specBroken s b then some { code := 0x0C, core := n }
  else if capBroken s b then some { code := 0x10, core := n }
  else none

/-- The set that is loaded. -/
def loadedSet (s : State) : BookSet :=
  allCores.filterMap fun c => (s.core c).book.map fun b => (b, s.bytes (scrBase c + (s.core c).bookOff) b.bookSize)

/-- The checks made again when the device is asked to leave PS2. -/
def setRecheck (s : State) : Option Reject :=
  let bs := loadedSet s
  match bs.zipIdx.findSome? fun (b : (Book × List Byte) × Nat) => bookRecheck s b.2 b.1.1 with
  | some r => some r
  | none => if powerBroken s bs then some { code := 0x11, core := 0 } else none

/-- Put the loader's report into SCN_LOAD_STATUS. -/
def showReject (r : Reject) (s : State) : State :=
  (((s.setFld Fld.SCN_LOAD_STATUS_CODE r.code).setFld Fld.SCN_LOAD_STATUS_CORE r.core).setFld Fld.SCN_LOAD_STATUS_PROGRAM
    r.program).setFld Fld.SCN_LOAD_STATUS_BUNDLE r.bundle

/-- Every declared W of the loaded set lies within the budget of a scene length and divider (R27, R28). -/
def budgetOk (s : State) (len d : Nat) : Bool :=
  allCores.all fun c => match (s.core c).book with
    | some b => b.progs.all fun p => decide (p.w ≤ budgetOf len d)
    | none => true

end Sys2Proof.Machine
end

