-- ==== Sys2Proof/Machine/Power.lean ====
section
/-! DEFINITION. Power states: SET_POWER, its steps and its refusals (R28, R44, R244, R314 to R317, R321, R348, R364, R389,
R402, R403). -/

namespace Sys2Proof.Machine

/-! ### What a reset and PS4 keep (R397) -/

/-- Fields that fuses and the boot flash hold. -/
def fusedFields : List Fld :=
  [Fld.CFG_ASSEMBLY_STACKS, Fld.CFG_ASSEMBLY_LINK_DIES, Fld.CFG_ASSEMBLY_VARIANT, Fld.CFG_ASSEMBLY_CORES,
    Fld.CFG_ASSEMBLY_MODULE_STEP, Fld.FLT_FUSE_COUNT, Fld.SDR_STATUS_LIFECYCLE, Fld.SDR_STATUS_ZEROISED, Fld.SDR_STATUS_IDKEY,
    Fld.SDR_FW_FUSED_SVN, Fld.SDR_FW_ACTIVE, Fld.SDR_KEY_REVOKE_FW, Fld.SDR_KEY_REVOKE_TOKEN, Fld.SDR_UID_LO_UID,
    Fld.SDR_UID_HI_UID]

/-- The device as a reset leaves it: only the fuses and the boot flash are kept (R397); an interrupted zeroisation is
remembered by its fuse (R395). -/
def coldState (s : State) : State :=
  let z := { State.reset with
    pending := s.pending, out := s.out, freeCtr := s.freeCtr
    rhs := { State.reset.rhs with seed0 := s.rhs.seed0 }
    frost := { State.reset.frost with prior := s.frost.prior }
    door := { State.reset.door with
      zeroStarted := s.door.zeroStarted, keyArea := s.door.keyArea, key := s.door.key, certs := s.door.certs
      fwKeys := s.door.fwKeys, tokenKeys := s.door.tokenKeys, flashSm := s.door.flashSm, flashMc := s.door.flashMc } }
  (fusedFields.foldl (fun t f => t.setFld f (s.fld f)) z).setReg Reg.RHS_SEED s.rhs.seed0

/-- PS4 (R314, R416): every rail is off, and only fuses and flash remain. -/
def enterPs4 (s : State) : State := pairOut 0 ((coldState s).setFld Fld.PWR_STATE_PS 4)

/-! ### Refusals (R316) -/

/-- Out of PS2: WRONG_STATE by the restore state (R364). -/
def restoreHolds (s : State) : Bool := decide (1 ≤ s.fld Fld.SCN_RESTORE_STATE ∧ s.fld Fld.SCN_RESTORE_STATE ≤ 3)

/-- Into PS0 or PS1 from any state: WRONG_STATE for a suspect device (R348) and while a token's SMG scope is in force (R389). The scopes
that stand open without token in MANUFACTURE and RETIRED refuse nothing: such a device runs scenes (R394, R408). -/
def entryHolds (s : State) : Bool :=
  s.bit Fld.FLT_STATUS_SUSPECT || (decide (s.fld Fld.SDR_STATUS_LIFECYCLE = 1) && (s.fld Fld.SDR_DEBUG_SCOPE).testBit 2)

/-- Out of PS2 into PS0 or PS1: WRONG_STATE by R37, R348, R389 and R402. -/
def runHolds (s : State) : Bool :=
  !s.bit Fld.SCN_LOAD_STATUS_LOADED || !s.seedSet || entryHolds s || s.bit Fld.SCN_STATUS_LEN_MISMATCH

/-- The cue root announces cues: it leaves neither PS2 nor PS3 downwards (R32, R316). -/
def rootHolds (s : State) : Bool := s.bit Fld.TIM_ROLE_ROOT && s.bit Fld.TIM_CTRL_CUE_EN

/-- Admission has been decided for every core (R402). -/
def admissionDone (s : State) : Bool := decide (96 ≤ s.rhs.decided.length)

/-! ### Steps -/

/-- A SET_POWER has reached a state since it was taken: the third of its words. -/
def powerMoved (s : State) : Bool := match s.host.long with | some l => decide (l.words.getD 2 0 = 1) | none => false

/-- A SET_POWER completes. One that is refused before it has reached any state had no effect (R304). -/
def powerEnds (status detail : Nat) (s : State) : State :=
  completeLongAt status (if status = 0 || powerMoved s then s.fld Fld.SCN_COUNT_SCENE else 0) detail
    { s with pwr := { s.pwr with step := none, waits := false } }

/-- Begin a step that ends after `ms` milliseconds, or with the next cue or idle tick. -/
def beginStep (ps div : Nat) (ms : Option Nat) (s : State) : State :=
  { s with pwr := { s.pwr with waits := false, step := some ⟨ps, div, ms.map fun n => s.tim.now + n * 1000000 * unitNs⟩ } }

/-- The next step towards the state that the running SET_POWER asks for, its completion, or its refusal (R316). -/
def powerGo (s : State) : State :=
  match s.host.long with
  | none => s
  | some l =>
    if l.op ≠ 4 then s
    else
      let target := l.words.getD 0 0
      let div := l.words.getD 1 0
      let ps := s.fld Fld.PWR_STATE_PS
      let rootOn := rootHolds s
      let d := if target = 1 then div else 1
      if s.bit Fld.PWR_STATE_FAULT_STOP then beginStep 4 1 (some 5) s
      else if ps = target ∧ (target ≠ 1 ∨ s.fld Fld.PWR_STATE_DIVIDER = div) then powerEnds 0 0 s
      else if ps ≤ 1 then
        if 2 ≤ target then beginStep 2 1 none s
        else if s.div < d ∧ !budgetOk s (s.fld Fld.SCN_LEN_LEN) d then powerEnds 6 0 s
        else beginStep target d none s
      else if ps = 2 then
        if restoreHolds s then powerEnds 3 0 s
        else if 3 ≤ target then
          if rootOn then powerEnds 3 0 s else beginStep target 1 (some (if target = 3 then 3 else 5)) s
        else if !admissionDone s then { s with pwr := { s.pwr with waits := true } }
        else if runHolds s then powerEnds 3 0 s
        else match setRecheck s with
          | some r =>
            let s := showReject r s
            powerEnds 5 (s.reg Reg.SCN_LOAD_STATUS).toNat s
          | none =>
            if 1 < d ∧ !budgetOk s (s.fld Fld.SCN_LEN_LEN) d then powerEnds 6 0 s else beginStep target d none s
      else if target = 4 then (if rootOn then powerEnds 3 0 s else beginStep 4 1 (some 5) s)
      else beginStep 2 1 (some 2) s

/-- A trace record of kind 5 (R310). -/
def tracePower (ps : Nat) (s : State) : State := traceRec 5 ps 0 0 0 s

/-- Every core's stores lose their contents, and read as zero once PS2 is reached again (R314). -/
def clearCores (s : State) : State :=
  { s with
    mem := s.mem.filter fun c => decide (c.1 < 0xF00000000000)
    ecc := s.ecc.filter fun e => decide (e.1 < 0xF0000000000)
    cores := (allCores.foldl (fun m c =>
      SMap.set {} m c.val { phases := (s.core c).phases, phaseLost := (s.core c).phaseLost }) ([] : SMap Core)) }

/-- What PS3 does on its entry (R44, R244, R308, R314, R345, R405): the loaded set and the cores' contents are lost, debug halt
ends, time is kept in holdover, and links rest. -/
def enterPs3 (s : State) : State :=
  let s := clearCores s
  let s := ((s.setFld Fld.SCN_LOAD_STATUS_LOADED 0).setFld Fld.SCN_BOOK_SET_SET_ID 0).setFld Fld.HST_STATUS_TEL_PAUSED 1
  let s := ((s.setFld Fld.SCN_DBG_HALT0_CORES 0).setFld Fld.SCN_DBG_HALT1_CORES 0).setFld Fld.TIM_STATUS_LOCKED 0
  let s := allCores.foldl (fun s c => s.setFld (Fld.RHS_CORE_ADMITTED c.val) 0) (s.setFld Fld.TIM_STATUS_HOLDOVER 1)
  let s := (List.range 48).foldl (fun s k => if s.bit (Fld.KL_STATUS_UP k) then linkSay k 6 1 s else s) s
  { s with
    seedSet := false
    rhs := { s.rhs with decided := [], running := [], opp := false, forced := [] }
    tim := { s.tim with
      cuesRun := false, sceneOn := false, lockRun := 0, announced := none
      idleDue := s.tim.now + 16384 * unitNs } }

/-- What PS2 does on its entry from PS3: the links carry packets again, and the streams resume (R244, R308). -/
def leavePs3 (s : State) : State :=
  let s := clearCores s
  (List.range 48).foldl (fun s k => if s.bit (Fld.KL_STATUS_UP k) then linkSay k 6 0 s else s) (s.setFld Fld.HST_STATUS_TEL_PAUSED 0)

/-- The SET_POWER that runs has reached a state. -/
def noteMoved (s : State) : State :=
  { s with host := { s.host with long := s.host.long.map fun l => if l.op = 4 then { l with words := l.words.take 2 ++ [1] } else l } }

/-- A step ends in PS0 to PS3: the state is reached (R316). -/
def reachState (p : PwrStep) (s : State) : State :=
  let from_ := s.fld Fld.PWR_STATE_PS
  let s := noteMoved { s with pwr := { s.pwr with step := none } }
  let s := (s.setFld Fld.PWR_STATE_PS p.ps).setFld Fld.PWR_STATE_DIVIDER p.div
  let s := if p.ps = 3 then enterPs3 s else if from_ = 3 then leavePs3 s else s
  let s := if from_ = 2 ∧ s.fld Fld.SCN_RESTORE_STATE = 4 then
      { s with eng := { s.eng with table := [], last := [], restored := none } }.setFld Fld.SCN_RESTORE_STATE 0
    else s
  tracePower p.ps s

/-- The step in progress ends: the state is reached, and the next step or the completion follows (R316). -/
def endStep (s : State) : State :=
  match s.pwr.step with
  | none => s
  | some p =>
    if p.ps = 4 then enterPs4 (powerEnds 0 0 { s with pwr := { s.pwr with step := none } }) else powerGo (reachState p s)

/-- A step that ends with a cue or an idle tick reaches its state there. -/
def stepAtCue (s : State) : State :=
  match s.pwr.step with
  | some p => if p.due.isNone then reachState p s else s
  | none => s

/-- The next step or the completion of a SET_POWER whose step ended with this cue or idle tick. -/
def powerAtCue (s : State) : State :=
  if s.pwr.step.isNone && !s.pwr.waits && !s.controlHalted then powerGo s else s

/-- POWER_STEP_DONE (R316): the step's latency has passed. A step that waits for the next cue ends with it. -/
def execPowerStepDone (s : State) : Out :=
  .next (match s.pwr.step with
    | some p => match p.due with
      | some t => if s.controlHalted then s else endStep (advanceTo t s)
      | none => s
    | none => s)

/-- The present state allows a SET_POWER to `target` to begin: in FAULT_STOP only to PS4 (R321), and otherwise unless its first step is
refused with WRONG_STATE (R316, R348, R364, R389, R402). -/
def powerAllowed (s : State) (target : Nat) : Bool :=
  let ps := s.fld Fld.PWR_STATE_PS
  if s.bit Fld.PWR_STATE_FAULT_STOP then decide (ps ≤ 3 ∧ target = 4)
  else
    decide (ps ≤ 3) && !(decide (target ≤ 1) && entryHolds s) &&
      (if ps = 2 ∧ target ≤ 4 ∧ target ≠ 2 then
        !restoreHolds s && (if 3 ≤ target then !rootHolds s else !(admissionDone s && runHolds s))
      else !(decide (ps = 3 ∧ target = 4) && rootHolds s))

/-- SET_POWER (R300, R316). -/
def setPowerRule : CmdRule :=
  ⟨4, [(16, 1), (17, 1)], noPayload, true, fun s t => powerAllowed s (t.at 16 1),
    fun _ t => decide (t.at 16 1 ≤ 4) &&
      (if t.at 16 1 = 1 then decide (2 ≤ t.at 17 1 ∧ t.at 17 1 ≤ 8) else decide (t.at 17 1 = 0))⟩

/-- SET_POWER (R316): TARGET shows the state that is asked for. -/
def execSetPower (s : State) : Out :=
  .next (command setPowerRule (fun t s =>
    scanNext (powerGo ((beginLong t [t.at 16 1, t.at 17 1] s).setFld Fld.PWR_STATE_TARGET (t.at 16 1)))) s)

end Sys2Proof.Machine
end

