-- ==== Sys2Proof/Machine/Boot.lean ====
section
/-! DEFINITION. Supplies, PERST# and start-up (R397 to R401, R415, R416, R422, R425), the PCIe function's reset, D3hot and link
(R294, R417), the levels of the timing outputs (R43), and the JTAG port (R389, R421). -/

namespace Sys2Proof

/-- The IDCODE of the JTAG port (R421): a free value. -/
opaque Config.idcode : BitVec 32

end Sys2Proof

namespace Sys2Proof.Machine

/-! ### Supplies and PERST# -/

/-- Held in reset: PERST# is asserted, or what acts as if it were (R415, R416). -/
def holdReset (s : State) : State := pairOut 0 { coldState s with pwr := { State.reset.pwr with perst := true } }

/-- The service die leaves reset: the fuses are read and the straps are sampled (R398 step 1, R422). SCOPE is all ones outside
DEPLOYED (R396). -/
def leaveReset (mfg wp spare : Bool) (s : State) : State :=
  let s := coldState s
  let s := ((s.setFld Fld.CFG_STRAP_MFG (b2n mfg)).setFld Fld.CFG_STRAP_FLASH_WP (b2n wp)).setFld Fld.CFG_STRAP_SPARE (b2n spare)
  pairOut 0 (if s.fld Fld.SDR_STATUS_LIFECYCLE = 1 then s else s.setFld Fld.SDR_DEBUG_SCOPE 7)

/-- PERST_ASSERT (R416): at any time, in any state. -/
def execPerstAssert (s : State) : Out := .next (if s.pwr.supplied then holdReset s else s)

/-- AUX_UNDERVOLTAGE (R415): while VIN_MAIN is present, the device acts as if PERST# were asserted. -/
def execAuxUndervoltage (s : State) : Out := .next (if s.pwr.supplied then holdReset s else s)

/-- PERST_DEASSERT (R397, R416): start-up begins. -/
def execPerstDeassert (mfg wp spare : Bool) (s : State) : Out :=
  .next (if s.pwr.supplied && s.pwr.perst then leaveReset mfg wp spare s else s)

/-- POWER_LOSS (R321, R414, R416): the device is off. -/
def execPowerLoss (s : State) : Out := .next (pairOut 0 { coldState s with pwr := { State.reset.pwr with supplied := false } })

/-- POWER_UP (R397): both supplies reach regulation with PERST# deasserted. -/
def execPowerUp (mfg wp spare : Bool) (s : State) : Out := .next (if s.pwr.supplied then s else leaveReset mfg wp spare s)

/-! ### The Stage Door's boot (R382) -/

/-- A copy holds a valid image of a KIND (R381). -/
def copyValid (s : State) (kind : Nat) (c : FlashCopy) : Bool := decide (leAt c 10 1 = kind ∧ imageResult s c = 1)

/-- The copy of a KIND that boots: the active one, else the other (R382). -/
def bootCopy (s : State) (kind : Nat) (b : Bool) (p : FlashCopy × FlashCopy) : Option FlashCopy :=
  let first := if b then p.2 else p.1
  let other := if b then p.1 else p.2
  if copyValid s kind first then some first else if copyValid s kind other then some other else none

/-- Firmware and microcode are loaded and run: their SVNs, version and digests are reported, and the Stage Manager is released (R382 step
5). -/
def release (sm mc : FlashCopy) (s : State) : State :=
  let s := ((s.setFld Fld.SDR_FW_SM_SVN (leAt sm 12 4)).setFld Fld.SDR_FW_MC_SVN (leAt mc 12 4)).setFld Fld.SMG_STATUS_FW_VERSION
    (leAt sm 20 2)
  let s := { s with
    door := { s.door with
      tcm := imageBody sm, microcode := imageBody mc, smDigest := sha256 (sm.take (imageLen sm))
      mcDigest := sha256 (mc.take (imageLen mc)) }
    pwr := { s.pwr with released := true } }
  (drawNonce (seedDrbg s)).setFld Fld.SDR_STATUS_STATE 1

/-- A unit of R22: fitted by the fuses, and whether it answers; numbers of SMG_BOOT.UNIT. -/
def units (s : State) (answers : Nat) : List (Nat × Bool × Bool) :=
  ((List.range 12).map fun i => (i, decide (i < s.nStacks), answers.testBit i)) ++
    (List.range 4).map fun i => (16 + i, decide (i < s.linkDies), answers.testBit (12 + i))

/-- VARIANT agrees with STACKS and LINK_DIES (R21). -/
def variantOk (s : State) : Bool :=
  decide ((s.fld Fld.CFG_ASSEMBLY_VARIANT, s.nStacks, s.linkDies) ∈ [(1, 12, 4), (2, 12, 2), (3, 8, 4)])

/-- CAUSE and UNIT of the assembly check (R22, R410), if it fails. -/
def assemblyFault (s : State) (answers : Nat) : Option (Nat × Nat) :=
  match (units s answers).find? fun u => decide (u.2.1 ≠ u.2.2) with
  | some u => some (if u.2.1 then 1 else 2, u.1)
  | none => if variantOk s then none else some (3, 0xFF)

/-- Steps 3 and 4 of R398: the assembly check (R401), the fault pair, and the condition on the sensors (R425): one that reads less than
10 °C below its trip holds the ramp. -/
def assemble (answers : Nat) (s : State) : State :=
  match assemblyFault s answers with
  | some (cause, unit) =>
    pairFault ((((s.setFld Fld.SMG_BOOT_STAGE 5).setFld Fld.SMG_BOOT_CAUSE cause).setFld Fld.SMG_BOOT_UNIT unit).setFld
      Fld.PWR_STATE_PS 7)
  | none =>
    let s := (pairClear s).setFld Fld.SMG_BOOT_STAGE 2
    match tripOf s s.pwr.readings 159 with
    | some (cause, rail) => trip cause rail (s.setFld Fld.PWR_THERM_RAMP_HELD 1)
    | none => { s with pwr := { s.pwr with ramping := true } }

/-- STAGE_DOOR_BOOT_DONE (R382, R384, R398, R401): self-tests, an interrupted zeroisation, the images, the release, then the
assembly check; without a valid image or after a failed test the Stage Manager is never released. -/
def execStageDoorBootDone (fails : BitVec 8) (answers : BitVec 16) (s : State) : Out :=
  .next (if s.awake && !s.pwr.released && decide (s.fld Fld.SDR_STATUS_STATE = 0) then
    let s := showTests 0x7F fails.toNat s
    if fails.toNat &&& 0x7F ≠ 0 then doorError 1 s
    else
      let s := if s.door.zeroStarted && decide (s.fld Fld.SDR_STATUS_LIFECYCLE ≠ 2) then
          endZero (decide (s.door.zeroing = some true)) s
        else s
      let active := s.fld Fld.SDR_FW_ACTIVE
      match bootCopy s 1 (active.testBit 0) s.door.flashSm, bootCopy s 2 (active.testBit 1) s.door.flashMc with
      | some sm, some mc => assemble answers.toNat ((release sm mc s).setFld Fld.SMG_BOOT_STAGE 1)
      | _, _ => doorError 2 s
  else s)

/-! ### Rails and memories (R398 steps 4 to 6) -/

/-- RAIL_RAMP_DONE: the rails of the fitted units regulate, the memory clear begins, and enabled K-links start at DETECT. -/
def execRailRampDone (s : State) : Out :=
  .next (if s.awake && s.pwr.ramping then
    let s := (s.setFld Fld.SMG_BOOT_STAGE 3).setFld Fld.PWR_THERM_RAMP_HELD 0
    let s := { s with pwr := { s.pwr with ramping := false, clearing := true } }
    let s := (sensors s).foldl (fun s i => s.setFld (Fld.PWR_RAIL_ON i) 1) s
    (List.range 48).foldl (fun s k =>
      (s.setFld (Fld.KL_STATUS_STATE k) (restState s k)).setLink k { s.link k with due := s.tim.now, since := s.tim.now }) s
  else s)

/-- MEMORY_CLEAR_DONE (R398, R401): memories hold zeros, PWR_STATE reads PS2, and the first idle tick follows; a stack that fails
to clear makes the device suspect. -/
def execMemoryClearDone (failed : BitVec 12) (s : State) : Out :=
  .next (if s.awake && s.pwr.clearing then
    let bad := failed.toNat % 2 ^ s.nStacks
    let s := { s with mem := [], ecc := [], pwr := { s.pwr with clearing := false }, tim := { s.tim with idleDue := s.tim.now } }
    let s := ((s.setFld Fld.SMG_BOOT_STAGE 4).setFld Fld.SMG_BOOT_STACK_INIT bad).setFld Fld.PWR_STATE_PS 2
    (List.range 12).foldl (fun s i =>
      if bad.testBit i then severeEvent 14 { unit := 2, index := i } (s.bit (Fld.FLT_SRC_CFG_PIN 14)) true s else s) s
  else s)

/-! ### The PCIe function (R294) -/

/-- A register of the HST_ block outside the telemetry window. -/
def flrClears (a : Nat) : Bool :=
  decide (0xFF0000040000 ≤ a ∧ a < 0xFF0000050000) &&
    !decide (a ∈ [Reg.HST_TEL_BASE, Reg.HST_TEL_PHASE, Reg.HST_TEL_EVENT, Reg.HST_TEL_TRACE, Reg.HST_TEL_LOST])

/-- The bits of HST_STATUS that an FLR leaves: the link as it trained and the pause of the streams. -/
def liveStatus : List Fld :=
  [Fld.HST_STATUS_RATE, Fld.HST_STATUS_WIDTH, Fld.HST_STATUS_FLIT, Fld.HST_STATUS_CAPT_EXACT, Fld.HST_STATUS_TEL_PAUSED]

/-- FLR (R294): the HST_ block but telemetry, the command window and the MSI-X table are reset; a long command runs on and its
completion is discarded; waiting notices are kept. -/
def execFlr (s : State) : Out :=
  .next (if s.awake && s.pwr.released then
    let keep := fun (p : PendW) => !flrClears p.reg
    let z := { s with
      regs := s.regs.filter fun e => !flrClears e.1
      win := [], pendT := s.pendT.filter keep, pendQ := s.pendQ.filter keep
      host := { notices := s.host.notices, long := s.host.long.map fun l => { l with seq := 0 } } }
    traceRec 6 0 0 0 0 (liveStatus.foldl (fun t f => t.setFld f (s.fld f)) z)
  else s)

/-- D3HOT (R294): the function enters or leaves D3hot. -/
def execD3hot (enter : Bool) (s : State) : Out :=
  .next (if s.awake && s.pwr.released then s.setFld Fld.HST_STATUS_D3HOT (b2n enter) else s)

/-- A rate and width that the link supports; 64 GT/s is in FLIT mode (R292). -/
def pcieOk (rate width : Nat) (flit : Bool) : Bool :=
  decide (1 ≤ rate ∧ rate ≤ 6 ∧ (width = 1 ∨ width = 2 ∨ width = 4)) && (flit || decide (rate ≠ 6))

/-- PCIE_LINK_TRAINING (R292, R294, R399). -/
def execPcieLinkTraining (rate width : BitVec 3) (flit : Bool) (s : State) : Out :=
  .next (if s.awake && pcieOk rate.toNat width.toNat flit then
    (((s.setFld Fld.HST_STATUS_RATE rate.toNat).setFld Fld.HST_STATUS_WIDTH width.toNat).setFld Fld.HST_STATUS_FLIT (b2n flit)).setFld
      Fld.HST_STATUS_CAPT_EXACT (b2n (decide (rate = 6) && flit))
  else s)

/-! ### JTAG (R389, R421) -/

/-- Something leaves by TDO. -/
def tdo (what value : Nat) (s : State) : State := { s with out := s.out ++ [.jtag what value] }

/-- Time is locked to a cue root, or this device is one. -/
def timeGood (s : State) : Bool := s.bit Fld.TIM_STATUS_LOCKED || s.bit Fld.TIM_ROLE_ROOT

/-- Level of PPS_OUT. -/
def ppsOut (s : State) : Bool :=
  s.ready && s.bit Fld.TIM_OUT_EN_PPS && timeGood s && s.bit Fld.TIM_STATUS_EPOCH_VALID && decide (s.ns % 1000000000 < 10000000)

/-- Level of REF10M_OUT. -/
def refOut (s : State) : Bool := s.ready && s.bit Fld.TIM_OUT_EN_REF && timeGood s && decide (s.ns % 100 < 50)

/-- The lands as boundary scan captures them: PERST#, PPS_OUT, REF10M_OUT, FLT_T, FLT_C and the straps. -/
def lands (s : State) : Nat :=
  b2n (!s.pwr.perst) + 2 * b2n (ppsOut s) + 4 * b2n (refOut s) +
    8 * (if s.flt.driven then b2n (s.bit Fld.FLT_STATUS_PIN) else 0) + 16 * (if s.flt.driven then b2n (!s.bit Fld.FLT_STATUS_PIN) else 0) +
    32 * s.fld Fld.CFG_STRAP_MFG + 64 * s.fld Fld.CFG_STRAP_FLASH_WP + 128 * s.fld Fld.CFG_STRAP_SPARE

/-- The SMG scope is in force on a Stage Manager that runs. -/
def smgScope (s : State) : Bool := s.awake && s.pwr.released && (s.fld Fld.SDR_DEBUG_SCOPE).testBit 2

/-- The operation itself. -/
def jtagAct (op : JtagOp) (s : State) : State :=
  match op with
  | .idcode => tdo 0 Config.idcode.toNat s
  | .scan bits => tdo 1 (lands s) { s with tap := { s.tap with scan := bits } }
  | .status => if s.awake then tdo 2 (readReg s Reg.SDR_STATUS).toNat s else s
  | .halt pair =>
    if smgScope s && !s.tap.halted.contains pair then { s with tap := { s.tap with halted := pair :: s.tap.halted } } else s
  | .resume pair => if smgScope s then { s with tap := { s.tap with halted := s.tap.halted.filter fun h => h != pair } } else s
  | .single pair => if smgScope s && s.tap.halted.contains pair then { s with tap := { s.tap with steps := s.tap.steps + 1 } } else s

/-- JTAG_DEBUG (R421): on a device that is supplied. -/
def execJtagDebug (op : JtagOp) (s : State) : Out :=
  .next (if s.pwr.supplied then jtagAct op { s with tap := { s.tap with active := true } } else s)

/-- TRST (R397, R421): only the test access port is reset. -/
def execTrst (s : State) : Out := .next { s with tap := { s.tap with active := false, scan := 0 } }

end Sys2Proof.Machine
end

