-- ==== Sys2Proof/Machine/Rehearsal.lean ====
section
/-! DEFINITION. Rehearsal: rounds, opportunities, forced runs, outcomes and admission (R340 to R345, R402, R407). -/

namespace Sys2Proof.Machine

/-- The core with which core `n` is paired in the current round (R341). -/
def partner (s : State) (n : Nat) : Nat := (2 * s.fld Fld.RHS_ROUND_ROUND + 1 + 96 * n - n) % 96

/-- The pair of core `n`, lower core first. -/
def pairOf (s : State) (n : Nat) : Nat × Nat := (min n (partner s n), max n (partner s n))

/-- Length of a Rehearsal in units of `tim.now`: 57,600 cycles (R340). -/
def rhsLength (s : State) : Nat := 57600 * s.div * 327680

/-- REHEARSAL_DUE (R342, R344): the next round begins; cores that have not passed in the round that ends have DEFER
incremented, and those that reach 16 are forced. -/
def execRehearsalDue (s : State) : Out :=
  .next (
    let due := s.fld Fld.RHS_DUE_SCENE + s.fld Fld.RHS_CTRL_INTERVAL
    if s.rhs.d0 && !s.healthHalted && decide (due ≤ s.fld Fld.SCN_COUNT_SCENE ∧ s.fld Fld.PWR_STATE_PS ≤ 2) then
      let s := (s.setFld Fld.RHS_ROUND_ROUND (s.fld Fld.RHS_ROUND_ROUND + 1)).setFld Fld.RHS_DUE_SCENE due
      let s := { s with rhs := { s.rhs with ran := [], again := [] } }
      allCores.foldl (fun s c =>
        if s.bit (Fld.RHS_CORE_DONE c.val) then s.setFld (Fld.RHS_CORE_DONE c.val) 0
        else
          let n := min 16 (s.fld (Fld.RHS_CORE_DEFER c.val) + 1)
          let s := s.setFld (Fld.RHS_CORE_DEFER c.val) n
          let s := logEvent 0x4A { unit := 1, index := c.val } (leBytes 4 (s.fld Fld.RHS_ROUND_ROUND) ++ leBytes 1 n) s
          if n = 16 then
            { s with rhs := { s.rhs with forced :=
                (s.rhs.forced.filter fun f => decide (f.1 ≠ c.val)) ++ [(c.val, s.fld Fld.SCN_COUNT_SCENE)] } }
          else s) s
    else s)

/-- The pair has not run in the current round, is due again, or awaits admission (R342, R345). -/
def pairDue (s : State) (a b : Nat) : Bool :=
  !s.rhs.ran.contains a || s.rhs.again.contains a || s.rhs.again.contains b || !s.rhs.decided.contains a || !s.rhs.decided.contains b

/-- A Rehearsal may run on the pair: started up, PS0 to PS2, not in FAULT_STOP, no core in debug halt or in a Rehearsal. -/
def pairFree (s : State) (a b : Nat) : Bool :=
  s.live && !s.healthHalted && !dbgHalted s a && !dbgHalted s b &&
    !(s.rhs.running.any fun r => decide (r.a = a ∨ r.a = b ∨ r.b = a ∨ r.b = b))

/-- Core `n` stands at a cue-wait bundle or a rest entry. -/
def standsWaiting (s : State) (n : Nat) : Bool :=
  if h : n < 96 then (s.core ⟨n, h⟩).atCueWait && !(s.core ⟨n, h⟩).stopped else false

/-- The next cue, in ns: the one announced, or while cues run the one that would fire in holdover (R38). -/
def nextCueAt (s : State) : Option Nat :=
  match s.tim.announced.bind (·.nextCue) with
  | some c => some c
  | none => if s.tim.cuesRun then s.tim.lastCue.map (· + sceneNs (s.fld Fld.SCN_LEN_LEN)) else none

/-- A Rehearsal that ends at `t` ends before the next cue. -/
def beforeNext (s : State) (t : Nat) : Bool :=
  match nextCueAt s with
  | some c => decide (t ≤ c * unitNs)
  | none => true

/-- An opportunity for a pair (R342): a cue or idle tick at which no scene starts, or both cores wait and 16 µs × d + 2 µs are
left before TIM_NEXT_CUE. -/
def opportunity (s : State) (a b : Nat) : Bool :=
  (s.rhs.opp && beforeNext s (s.tim.now + rhsLength s)) ||
    (s.tim.sceneOn && standsWaiting s a && standsWaiting s b &&
      beforeNext s (s.tim.now + rhsLength s + 2000 * unitNs))

/-- The injections into core `n`'s Trellis that are armed. -/
def trellisArmed (s : State) (n : Nat) : List (Nat × Nat) :=
  if h : n < 96 then [(Reg.TRL_INJECT ⟨n, h⟩, 0), (Reg.TRL_INJECT ⟨n, h⟩, 1)].filter fun p => armed s p.1 p.2 else []

/-- Begin a Rehearsal: an armed digest injection acts on it (R337). Its test 1 writes granules and drains a tile on each core, which is the
first use of an injection armed there (DESIGN CHOICE, assumption 40). -/
def beginRun (a b due : Nat) (forced : Bool) (s : State) : State :=
  let inj := armed s Reg.RHS_INJECT 0
  let s := if inj then useInj Reg.RHS_INJECT 0 s else s
  let spoils := trellisArmed s a ++ trellisArmed s b
  let s := spoils.foldl (fun s p => useInj p.1 p.2 s) s
  { s with rhs := { s.rhs with
      running := s.rhs.running ++ [⟨a, b, due, s.fld Fld.RHS_ROUND_ROUND, forced, inj, !spoils.isEmpty⟩]
      ran := a :: s.rhs.ran
      again := s.rhs.again.filter fun n => decide (n ≠ a ∧ n ≠ b)
      forced := s.rhs.forced.filter fun f => decide (f.1 ≠ a ∧ f.1 ≠ b) } }

/-- REHEARSAL_START (R342): at an opportunity, the pair that core `c` is in starts its Rehearsal if it is due. -/
def execRehearsalStart (c : CoreId) (s : State) : Out :=
  .next (
    let (a, b) := pairOf s c.val
    if pairDue s a b && pairFree s a b && opportunity s a b then beginRun a b (s.tim.now + rhsLength s) false s else s)

/-- Hold a core's first bundle until cycle 57,856 of the scene (R344). -/
def holdForced (n : Nat) (s : State) : State :=
  if h : n < 96 then s.updCore ⟨n, h⟩ fun k => { k with holdUntil := max k.holdUntil 57600 } else s

/-- FORCED_REHEARSAL (R344, R407): the pair of a forced core runs in cycles 256 to 57,855 of the new scene, before either core
issues. -/
def execForcedRehearsal (c : CoreId) (s : State) : Out :=
  .next (
    let (a, b) := pairOf s c.val
    let asked := s.rhs.forced.any fun f => decide (f.1 = c.val ∧ f.2 < s.fld Fld.SCN_COUNT_SCENE)
    if asked && s.tim.sceneOn && pairFree s a b && decide (s.tim.now ≤ s.cycleAt 0) then
      holdForced a (holdForced b (beginRun a b (s.cycleAt 57600) true (s.setFld Fld.RHS_STATUS_FORCED 1)))
    else s)

/-- A pass of one core (R345). -/
def passCore (n : Nat) (s : State) : State :=
  let s := (s.setFld (Fld.RHS_CORE_LAST_PASS n) (s.fld Fld.SCN_COUNT_SCENE)).setFld (Fld.RHS_CORE_STEP_STEP n) (s.fld Fld.SCN_STEP_STEP)
  let s := (s.setFld (Fld.RHS_CORE_DONE n) 1).setFld (Fld.RHS_CORE_DEFER n) 0
  if s.rhs.decided.contains n then s else s.setFld (Fld.RHS_CORE_ADMITTED n) 1

/-- The Rehearsal of a pair passes: REHEARSAL_PASS for the lower core. -/
def passPair (r : RhsRun) (s : State) : State :=
  logEvent 0x49 { unit := 1, index := r.a } (leBytes 4 r.round ++ leBytes 1 r.b) (passCore r.b (passCore r.a s))

/-- The Rehearsal of a pair fails (R345): the lowest failing test, and whether an injection failed it. -/
def failPair (r : RhsRun) (test : Nat) (injected : Bool) (s : State) : State :=
  let s := ((s.setFld Fld.RHS_FAIL_INFO_CORE_A r.a).setFld Fld.RHS_FAIL_INFO_CORE_B r.b).setFld Fld.RHS_FAIL_INFO_TEST test
  let s := (s.setFld Fld.RHS_FAIL_SCENE_SCENE (s.fld Fld.SCN_COUNT_SCENE)).setFld Fld.RHS_STATUS_FAIL 1
  raise 23 { unit := 1, index := r.a, injected := injected } (leBytes 1 r.b ++ leBytes 1 test ++ leBytes 4 r.round) s

/-- Both cores' admission is decided; when the last core's is, D_0 is this scene, and a SET_POWER that waits is judged (R342,
R402). -/
def settle (a b : Nat) (s : State) : State :=
  let new := [a, b].filter fun n => !s.rhs.decided.contains n
  let s := { s with rhs := { s.rhs with decided := s.rhs.decided ++ new } }
  let s := if admissionDone s && !s.rhs.d0 then
      { s with rhs := { s.rhs with d0 := true } }.setFld Fld.RHS_DUE_SCENE (s.fld Fld.SCN_COUNT_SCENE)
    else s
  if admissionDone s && s.pwr.waits then powerGo s else s

/-! ### The tests and their digests (R340, R341) -/

/-- The operands of a Rehearsal at an index: a draw of purpose 0xC under RHS_SEED, by the round and the lower core (R341). -/
def rhsDraw (s : State) (r : RhsRun) (i : Nat) : BitVec 128 :=
  philox (s.reg Reg.RHS_SEED) (seedCounter (BitVec.ofNat 48 i) 0 0xC (BitVec.ofNat 16 r.a) (BitVec.ofNat 32 r.round))

/-- What one core of the pair captures in a test: the results of the operands, but for what a defect changes (R340). -/
def rhsCaptured (s : State) (r : RhsRun) (upsets : List (Bool × BitVec 3 × BitVec 24 × BitVec 32)) (high : Bool) (test : Nat) :
    List (BitVec 32) :=
  (Config.rehearsalTest test (rhsDraw s r)).zipIdx.map fun v =>
    upsets.foldl (fun x u => if u.1 = high ∧ u.2.1.toNat = test ∧ u.2.2.1.toNat = v.2 then x ^^^ u.2.2.2 else x) v.1

/-- The digest of a test: the sum of the witness mixes of its results (R341). -/
def rhsDigest (s : State) (r : RhsRun) (test : Nat) (results : List (BitVec 32)) : Word :=
  results.zipIdx.foldl (fun d v =>
    d + witnessMix (s.reg Reg.RHS_SEED) 0xFFFF (BitVec.ofNat 64 r.round) (BitVec.ofNat 24 test) (BitVec.ofNat 24 v.2) v.1) 0

/-- The tests whose digests differ on the two cores, lowest first; an injection inverts bit 0 of the lower core's digest of test 1
(R337, R341). -/
def rhsDiffers (s : State) (r : RhsRun) (upsets : List (Bool × BitVec 3 × BitVec 24 × BitVec 32)) (inj : Bool) : List Nat :=
  [1, 2, 3, 4, 5, 6].filter fun test =>
    decide ((rhsDigest s r test (rhsCaptured s r upsets false test) ^^^ (if inj && decide (test = 1) then 1 else 0)) ≠
      rhsDigest s r test (rhsCaptured s r upsets true test))

/-- The lowest failing test, 0 if none fails. -/
def lowestTest (l : List Nat) : Nat := match l with | [] => 0 | t :: ts => ts.foldl min t

/-- What a residue or an uncorrectable Trellis error fails. -/
def residueFails (residue : BitVec 3) : List Nat := if residue = 0 then [] else [residue.toNat]

/-- REHEARSAL_END (R345): after 57,600 cycles the digests of core `c`'s pair are compared test by test, and the Rehearsal passes, or fails
with its lowest failing test. -/
def execRehearsalEnd (c : CoreId) (found : RhsReport) (s : State) : Out :=
  .next (match s.rhs.running.find? fun r => decide (r.a = c.val ∨ r.b = c.val) with
    | none => s
    | some r =>
      if found.residue = 7 then s
      else
        let s := advanceTo r.due s
        let s := { s with rhs := { s.rhs with running := s.rhs.running.erase r } }
        let own := lowestTest (residueFails found.residue ++ rhsDiffers s r found.upsets false)
        let lowest := lowestTest (residueFails found.residue ++ (if r.spoil then [1] else []) ++ rhsDiffers s r found.upsets r.inj)
        settle r.a r.b (if lowest = 0 then passPair r s else failPair r lowest (decide (own = 0)) s))

end Sys2Proof.Machine
end

