-- ==== Sys2Proof/Machine/Clock.lean ====
section
/-! DEFINITION. Fabric time and the cue tree: timing packets made, received and forwarded, lock, the epoch, halt notices,
the capture register and the timing outputs (R25, R31 to R43, R48, R249). -/

namespace Sys2Proof.Machine

/-- Idle ticks and sync packets come every 16,384 ns, in units of `tim.now` (R34, R45). -/
def tickUnits : Nat := 16384 * unitNs

/-! ### Timing outputs (R43) -/

/-- CUE_OUT's pulse of 100 ns, from the local cue on; it ends as time passes (`runTo`). -/
def cuePulse (s : State) : State :=
  if s.bit Fld.TIM_OUT_EN_CUE then
    { s with out := s.out ++ [.pin 1 1], tim := { s.tim with pulse := some (s.tim.now + 100 * unitNs) } }
  else s

/-! ### Steps of time -/

/-- An instant moved by `d` units. -/
def shiftBy (d : Int) (t : Nat) : Nat := ((t : Int) + d).toNat

/-- Step local fabric time to instant `t` (R35, R39): what is due a stated time after an instant stays due then. -/
def stepTime (t : Nat) (s : State) : State :=
  let d : Int := (t : Int) - s.tim.now
  let sh := shiftBy d
  { s with
    tim := { s.tim with
      now := t, edge := sh s.tim.edge, slewLeft := 0, slewRate := 0, slewRoom := 0, syncSeen := sh s.tim.syncSeen
      idleDue := sh s.tim.idleDue, syncDue := sh s.tim.syncDue, pulse := s.tim.pulse.map sh, finalDue := s.tim.finalDue.map sh }
    pwr := { s.pwr with step := s.pwr.step.map fun p => { p with due := p.due.map sh } }
    rhs := { s.rhs with running := s.rhs.running.map fun r => { r with due := sh r.due } }
    eng := { s.eng with quiet := sh s.eng.quiet, reqs := s.eng.reqs.map fun r => { r with at_ := sh r.at_ } }
    links := SMap.mapVals {} (fun l => { l with due := sh l.due, since := sh l.since }) s.links }

/-- Time runs to the next edge of the 3.6 GHz clock (R35), one that a new slew has moved behind the present instant counting at once; a
device that is held in reset, off or in PS4 keeps no time (R44). -/
def passCycle (s : State) : State := if s.awake then runTo (max s.tim.now (s.tim.edgeIn 1)) s else s

/-! ### Packets of the cue tree (R34, R248, R249) -/

/-- A tree packet of this device. -/
def treePacket (kind : BitVec 4) (payload : List Byte) (s : State) : CtrlPkt :=
  { sub := false, epoch := false, ckind := kind, hops := 0, next := 0, dtype := 0, dest := 0, stype := 1
    src := BitVec.ofNat 16 (s.fld Fld.FAB_NODE_ID), route := 0, payload := payload }

/-- Send a tree packet on a K-link, if the link carries packets. -/
def treeSend (p : CtrlPkt) (s : State) (k : Nat) : State := if linkUsable s k then enqueue ⟨k, none, .ctrl p⟩ s else s

/-- The K-links to which timing packets go down. -/
def children (s : State) : List Nat := (List.range 48).filter fun k => (s.fld Fld.TIM_CUE_CHILD_MASK).testBit k

/-- The payload of a timing packet. -/
def timingPayload (origin : Nat) (corr : Int) (cue scene len flags depth : Nat) : List Byte :=
  leBytes 8 origin ++ leBytes 8 (corr % 2 ^ 64).toNat ++ leBytes 8 cue ++ leBytes 8 scene ++ leBytes 4 len ++ leBytes 1 flags ++
    leBytes 1 depth ++ List.replicate 10 0#8

/-- The cue root emits a timing packet on every child link: an announcement of a cue, or, with none, a sync packet or the
final announcement, whose NEXT_SCENE and LEN no rule states: they are free. -/
def emitTiming (kind : Bool) (a : Option Announce) (s : State) : State :=
  let flags := b2n kind + 2 * b2n (kind && s.tim.haltReq) + 4 * b2n (s.bit Fld.TIM_STATUS_EPOCH_VALID) +
    8 * b2n (s.bit Fld.TIM_STATUS_HOLDOVER)
  let (cue, scene, len, s) := match a.bind fun a => a.nextCue.map fun t => (t, a.scene, a.len) with
    | some (t, n, l) => (t, n, l, s)
    | none =>
      let (x, s) := drawWord s
      let (y, s) := drawWord s
      (2 ^ 64 - 1, x.toNat, y.toNat % 2 ^ 24, s)
  (children s).foldl (treeSend (treePacket 1 (timingPayload s.ns 0 cue scene len flags 0) s)) s

/-! ### Halt notices (R30, R31, R249) -/

/-- Forward a HALT to the parent: the first one received or made in a scene. -/
def haltUp (p : CtrlPkt) (s : State) : State :=
  let scene := s.fld Fld.SCN_COUNT_SCENE
  if s.fab.haltScene = some scene then s
  else treeSend p { s with fab := { s.fab with haltScene := some scene } } (s.fld Fld.TIM_CUE_PARENT_PORT)

/-- Send a halt notice with a cause; a cue root halts the system itself. -/
def sendHalt (cause : Nat) (s : State) : State :=
  if s.bit Fld.TIM_ROLE_ROOT then { s with tim := { s.tim with haltReq := true } }
  else haltUp (treePacket 2 (leBytes 8 (s.fld Fld.SCN_COUNT_SCENE) ++ leBytes 2 (s.fld Fld.FAB_NODE_ID) ++ leBytes 1 cause ++
    List.replicate 37 0#8) s) s

/-- HALT (R31, R249): from a child link; the cue root notes it, another device forwards the first one of a scene. -/
def execHalt (k : LinkId) (p : CtrlPkt) (s : State) : Out :=
  .next (if p.ckind ≠ 2 then s
    else if !(s.fld Fld.TIM_CUE_CHILD_MASK).testBit k.val then discardCtrl k (.ctrl p) s
    else if linkUsable s k.val then
      let s := intoLane (.ctrl p) (takeTree k.val (.ctrl p) s)
      if s.bit Fld.TIM_ROLE_ROOT then { s with tim := { s.tim with haltReq := true } } else haltUp p s
    else s)

/-- The cores in debug halt. -/
def debugMask (s : State) : Nat := s.fld Fld.SCN_DBG_HALT0_CORES + 2 ^ 64 * s.fld Fld.SCN_DBG_HALT1_CORES

/-- HALTED clears on the first announcement with HALT = 0 while OVERRUN and CUE_LOST are clear (R31) and no core is in debug halt
(R406). -/
def announcedHalt (halt : Bool) (s : State) : State :=
  if !halt && !s.bit Fld.SCN_STATUS_OVERRUN && !s.bit Fld.SCN_STATUS_CUE_LOST && decide (debugMask s = 0) then
    s.setFld Fld.SCN_STATUS_HALTED 0
  else s

/-! ### The cue root (R32, R34, R39, R40, R41) -/

/-- No cue is announced or placed, and idle ticks take the place of cues. -/
def stopCues (s : State) : State :=
  { s with tim := { s.tim with
    announced := none, placed := none, midDue := none, finalDue := none, rootLive := false, cuesRun := false, ended := false
    idleDue := if s.tim.cuesRun then s.tim.now + tickUnits else s.tim.idleDue } }

/-- The cue root announces a cue: its scene number is issued (R40), and the announcement holds for the root itself (R31). -/
def announce (a : Announce) (s : State) : State :=
  emitTiming true (some a) (announcedHalt a.halt { s with tim := { s.tim with
    announced := some a, placed := none, midDue := none, rootScene := a.scene + 1 } })

/-- CUE_EN changes from 0 to 1: the first cue is placed and announced at once. -/
def rootStart (s : State) : State :=
  let t := (s.tim.now + 100000 * unitNs + 1000000 * unitNs - 1) / (1000000 * unitNs) * 1000000
  let armed := s.bit Fld.TIM_SCENE_BASE_ARM
  let n := if armed then s.fld Fld.TIM_SCENE_BASE_SCENE else s.tim.rootScene
  let s := if armed then s.setFld Fld.TIM_SCENE_BASE_ARM 0 else s
  announce ⟨some t, n, s.fld Fld.SCN_LEN_LEN, s.tim.haltReq⟩ { s with tim := { s.tim with finalDue := none, rootLive := true } }

/-- SYNC_PACKET_EMIT (R34): every 16,384 ns of fabric time. -/
def execSyncPacketEmit (s : State) : Out :=
  .next (if s.ready && s.bit Fld.TIM_ROLE_ROOT then
    let s := advanceTo s.tim.syncDue s
    emitTiming false none { s with tim := { s.tim with syncDue := s.tim.syncDue + tickUnits } }
  else s)

/-- ANNOUNCEMENT_EMIT (R34, R40): at the midpoint of a scene the cue that ends it is announced. -/
def execAnnouncementEmit (s : State) : Out :=
  .next (if s.ready && s.bit Fld.TIM_ROLE_ROOT && !s.bit Fld.TIM_STATUS_ROOT_CONFLICT then
    match s.tim.midDue, s.tim.placed with
    | some t, some a =>
      let s := advanceTo t s
      announce { a with len := s.fld Fld.SCN_LEN_LEN, halt := s.tim.haltReq } s
    | _, _ => s
  else s)

/-- FINAL_ANNOUNCEMENT (R40): half an interval after the last cue. -/
def execFinalAnnouncement (s : State) : Out :=
  .next (if s.ready && s.bit Fld.TIM_ROLE_ROOT && !s.bit Fld.TIM_STATUS_ROOT_CONFLICT then
    match s.tim.finalDue with
    | some t =>
      let s := advanceTo t s
      emitTiming true none (announcedHalt s.tim.haltReq { s with tim := { s.tim with finalDue := none } })
    | none => s
  else s)

/-! ### Followers (R33, R35, R37 to R39, R41) -/

/-- Field of `n` bytes at payload byte `a` of a control packet. -/
def ctrlAt (p : CtrlPkt) (a n : Nat) : Nat := leNat ((p.payload.drop a).take n)

/-- A flag of a timing packet. -/
def timingFlag (p : CtrlPkt) (i : Nat) : Bool := (ctrlAt p 36 1).testBit i

/-- CORRECTION as a signed value. -/
def timingCorr (p : CtrlPkt) : Int :=
  let c := ctrlAt p 8 8
  if c < 2 ^ 63 then (c : Int) else (c : Int) - 2 ^ 64

/-- Fabric time at the cue root, in units of `tim.now`: ORIGIN_TIME, CORRECTION and the latency of the parent link. -/
def rootTime (k : Nat) (p : CtrlPkt) (s : State) : Int :=
  (ctrlAt p 0 8 : Int) * unitNs + (timingCorr p + (s.fld (Fld.KL_LATENCY_LAT k) : Int)) * 18

/-- Put an offset into TIM_OFFSET, in units of 2^-4 ns. Which way it is rounded, and what an offset beyond 32 bits reads as,
no rule states: both are free. -/
def showOffset (off : Int) (s : State) : State :=
  let (x, s) := drawWord s
  let q := off / 73728 + (if off % 73728 = 0 then 0 else ((x.toNat % 2 : Nat) : Int))
  s.setFld Fld.TIM_OFFSET_OFFSET
    (if -(2 ^ 31) ≤ q ∧ q < 2 ^ 31 then (q % 2 ^ 32).toNat else x.toNat / 2 % 2 ^ 32)

/-- The slew of one measured offset (R35), spread over the cycles until the next sync packet: at most 3.2 ns in one interval between
sync packets, and at most 65 units, 200 ppm, in one cycle. What an earlier packet of the interval has had corrected is part of the
3.2 ns. -/
def slewFor (sync : Bool) (off : Int) (s : State) : State :=
  let now := s.tim.now
  let start := if sync || decide (s.tim.syncSeen + tickUnits ≤ now) then now else s.tim.syncSeen
  let room := if start = now then 3774873 else s.tim.slewRoom + s.tim.slewLeft.natAbs
  let n := max 1 ((start + tickUnits - now) / 327680)
  let size := min off.natAbs (min room (65 * n))
  let sign : Int := if off < 0 then 1 else -1
  { s with tim := { s.tim with
      syncSeen := start, slewRoom := room - size, slewLeft := sign * size, slewRate := sign * ((size + n - 1) / n : Nat) } }

/-- LOCKED follows an offset (R35): 16 consecutive packets within 4 ns set it, one beyond 8 ns clears it. A parent link that is too slow
keeps it from being set (R33); a lock lost while cues run ends them at the next cue (R38). -/
def judgeLock (slow : Bool) (off : Int) (s : State) : State :=
  let n := if off.natAbs ≤ 4 * unitNs then s.tim.lockRun + 1 else 0
  let s := { s with tim := { s.tim with lockRun := n } }
  if s.bit Fld.TIM_STATUS_LOCKED then
    if 8 * unitNs < off.natAbs then
      let s := s.setFld Fld.TIM_STATUS_LOCKED 0
      if s.tim.cuesRun then { s with tim := { s.tim with lockLost := true } } else { s with tim := { s.tim with announced := none } }
    else s
  else if 16 ≤ n && !slow then { s.setFld Fld.TIM_STATUS_LOCKED 1 with tim := { s.tim with everLocked := true } }
  else s

/-- Steer local time by a packet: a step before the first lock and for the epoch, else a slew (R35, R39). -/
def steer (slow : Bool) (k : Nat) (p : CtrlPkt) (s : State) : State :=
  let t := rootTime k p s
  let off : Int := (s.tim.now : Int) - t
  let s := showOffset off s
  if timingFlag p 2 && !s.bit Fld.TIM_STATUS_EPOCH_VALID then stepTime t.toNat s
  else
    let first := !s.tim.everLocked
    let s := judgeLock slow off s
    if first then stepTime t.toNat s else slewFor (!timingFlag p 0) off s

/-- Residence of a copy without waiting, in 2^-16 ns (R252): within a link die, between the link dies of a compute die, or across
the bridge. -/
def transitTime (k j : Nat) : Nat := 65536 * (if k / 12 = j / 12 then 80 else if k / 12 % 2 = j / 12 % 2 then 110 else 140)

/-- Forward a timing packet to the children (R33, R34): DEPTH counts the hop, CORRECTION gains the link latency and the residence,
measured up to its departure. -/
def forwardTiming (k : Nat) (p : CtrlPkt) (depth : Nat) (s : State) : State :=
  let lat := s.fld (Fld.KL_LATENCY_LAT k)
  (children s).foldl (fun s j =>
    let q := addCorrection { p with payload := p.payload.take 37 ++ leBytes 1 depth ++ p.payload.drop 38 }
      ((lat : Int) + (transitTime k j : Nat) - (s.frac : Nat))
    treeSend q s j) s

/-- An announcement is heard (R35, R38): of a cue, by a device that is locked or whose cues run, or the final one. HALTED follows it
(R31). DESIGN CHOICE (assumption 59): an announcement whose instant has passed is kept like any other, and its cue fires at once. -/
def hear (p : CtrlPkt) (s : State) : State :=
  let s := announcedHalt (timingFlag p 1) s
  let cue := ctrlAt p 16 8
  if cue = 2 ^ 64 - 1 then
    if s.tim.announced.isSome then { s with tim := { s.tim with ended := true } }
    else
      { s with tim := { s.tim with
        ended := true, cuesRun := false, idleDue := if s.tim.cuesRun then s.tim.now + tickUnits else s.tim.idleDue } }
  else if s.bit Fld.TIM_STATUS_LOCKED || s.tim.cuesRun then
    { s with tim := { s.tim with
      announced := some ⟨some cue, ctrlAt p 24 8, ctrlAt p 32 3, timingFlag p 1⟩, ended := false } }
  else s

/-- TIMING (R32 to R35, R39, R41, R254): discarded by a cue root, off the parent link or too deep in the tree; otherwise it steers local
time, is forwarded, and an announcement is heard. DESIGN CHOICE (assumption 60): HOLDOVER clears at any packet that is not discarded,
TREE_SLOW follows each of them, and TREE_DEEP clears only at reset. -/
def execTiming (k : LinkId) (p : CtrlPkt) (s : State) : Out :=
  .next (if p.ckind ≠ 1 ∨ !linkUsable s k.val then s
    else
      let s := intoLane (.ctrl p) (takeTree k.val (.ctrl p) s)
      let stray := decide (s.fld Fld.TIM_CUE_PARENT_PORT ≠ k.val)
      let s := if stray then dropPkt 7 k.val (.ctrl p) (s.addSat Fld.TIM_STATUS_STRAY 1) else s
      if s.bit Fld.TIM_ROLE_ROOT then (stopCues s).setFld Fld.TIM_STATUS_ROOT_CONFLICT 1
      else if stray then s
      else
        let depth := ctrlAt p 37 1 + 1
        if 24 < depth then s.setFld Fld.TIM_STATUS_TREE_DEEP 1
        else
          let slow := decide (200 * 65536 < s.fld (Fld.KL_LATENCY_LAT k.val))
          let s := (s.setFld Fld.TIM_STATUS_DEPTH depth).setFld Fld.TIM_STATUS_TREE_SLOW (b2n slow)
          let s := (steer slow k.val p s).setFld Fld.TIM_STATUS_HOLDOVER 0
          let ev := timingFlag p 2
          let s := s.setFld Fld.TIM_STATUS_EPOCH_VALID (b2n ev)
          let s := if ev then s.setFld Fld.TIM_STATUS_EPOCH_LOCKED 1 else s
          let s := forwardTiming k.val p depth s
          if timingFlag p 0 then hear p s else s)

/-! ### The capture register (R42) -/

/-- TIM_CAPT_READ: 0 both halves and 1 the low half latch fabric time, 2 the high half returns the last latch. -/
def execTimCaptRead (part : BitVec 2) (s : State) : Out :=
  .next (if s.barOpen then
    let s := if part = 0 ∨ part = 1 then s.setFld Fld.TIM_CAPT_TIME s.ns else s
    let v := s.fld Fld.TIM_CAPT_TIME
    match part with
    | 0 => { s with out := s.out ++ [.completion v] }
    | 1 => { s with out := s.out ++ [.completion (v % 2 ^ 32)] }
    | 2 => { s with out := s.out ++ [.completion (v / 2 ^ 32)] }
    | _ => s
  else s)

end Sys2Proof.Machine
end

