-- ==== Sys2Proof/Machine/Apply.lean ====
section
/-! DEFINITION. Applying the writes held in shadow at a cue or idle tick, with what each field does as it applies (R28, R29, R32, R39 to
R41, R209, R213, R240, R255, R258, R259, R288, R302, R322, R323, R332, R336 to R338, R383, R387, R389, R395, R405). -/

namespace Sys2Proof.Machine

/-! ### Pending writes -/

/-- The field that a pending write is to. -/
def PendW.fld (p : PendW) : Fld := ⟨p.reg, p.lo, p.w⟩

/-- The write is to field `f`. -/
def PendW.is (p : PendW) (f : Fld) : Bool := decide (p.reg = f.reg ∧ p.lo = f.lo)

/-- The write is to a WO field: an action, not a value. -/
def PendW.action (p : PendW) : Bool :=
  match regAt p.reg with
  | some (r, _) => r.fields.any fun f => decide (f.lo = p.lo ∧ f.acc = .wo)
  | none => false

/-- The index of a sub-block of `size` bytes from `base`, `n` of them. -/
def blockIndex (base size n reg : Nat) : Option Nat := if base ≤ reg ∧ reg < base + size * n then some ((reg - base) / size) else none

/-- A hop-map write that R258 refuses at the cue of `scene`: its bank is in use. -/
def bankBusy (scene : Nat) (s : State) (p : PendW) : Bool :=
  match regIndex (Reg.FAB_HOPMAP 0) 128 p.reg with
  | none => false
  | some i =>
    let bank := i / 64
    !s.bit Fld.FAB_CTRL_QUIESCE &&
      (decide (bank = s.fld Fld.FAB_EPOCH_SRC) || decide (scene < s.fld Fld.FAB_SWITCH_SCENE_SCENE + 2) ||
        (decide (bank = s.fld Fld.FAB_EPOCH_KL1) &&
          (List.range 48).any fun k => s.bit (Fld.KL_STATUS_UP k) && decide (s.fld (Fld.KL_STATUS_REV k) = 1)))

/-! ### What Q-class fields do (R32, R39 to R41, R213, R240, R259, R356) -/

/-- TIM_ROLE.ROOT applies: a new root keeps its time and starts its sync packets; ROOT = 0 clears ROOT_CONFLICT. DESIGN CHOICE
(assumption 61): a device that becomes cue root while its CUE_EN already stands at 1 starts no cues until CUE_EN changes from 0 to 1. -/
def roleApplies (old : State) (root : Bool) (s : State) : State :=
  let was := old.bit Fld.TIM_ROLE_ROOT
  let s := if root = was then s else stopCues s
  if root then
    if was then s else { s.setFld Fld.TIM_STATUS_DEPTH 0 with tim := { s.tim with syncDue := s.tim.now } }
  else s.setFld Fld.TIM_STATUS_ROOT_CONFLICT 0

/-- TIM_EPOCH applies: once per reset, on the cue root, while CUE_EN was 0; otherwise the field keeps its value. -/
def epochApplies (old : State) (v : Nat) (s : State) : State :=
  if s.bit Fld.TIM_ROLE_ROOT && !old.bit Fld.TIM_CTRL_CUE_EN && !old.bit Fld.TIM_STATUS_EPOCH_LOCKED then
    ((stepTime (v * unitNs) s).setFld Fld.TIM_STATUS_EPOCH_VALID 1).setFld Fld.TIM_STATUS_EPOCH_LOCKED 1
  else s.setFld Fld.TIM_EPOCH_EPOCH (old.fld Fld.TIM_EPOCH_EPOCH)

/-- CUE_EN applies: a change to 1 on a root without conflict starts cues, and 0 ends them with the scene that runs. -/
def cueEnApplies (old : State) (en : Bool) (s : State) : State :=
  if en then
    if !old.bit Fld.TIM_CTRL_CUE_EN && s.bit Fld.TIM_ROLE_ROOT && !s.bit Fld.TIM_STATUS_ROOT_CONFLICT then rootStart s else s
  else { s with tim := { s.tim with rootLive := false } }

/-- What one Q-class field does as it applies, but for CUE_EN. -/
def qActs (old : State) (p : PendW) (s : State) : State :=
  if p.is Fld.TIM_ROLE_ROOT then roleApplies old (decide (p.val = 1)) s
  else if p.is Fld.FAB_CTRL_QUIESCE then
    if p.val = old.fld Fld.FAB_CTRL_QUIESCE then s else engQuiesce (decide (p.val = 1)) s
  else if p.reg = Reg.CFG_HIST_BASE ∨ p.reg = Reg.CFG_HIST then { s with hist := { due := true, filled := [] } }
  else match blockIndex (Reg.KL_CTRL 0) 0x100 48 p.reg with
    | some k => if p.is (Fld.KL_CTRL_ENABLE k) && decide (p.val ≠ old.fld (Fld.KL_CTRL_ENABLE k)) then startTraining k s else s
    | none => s

/-- The power step that ends with this cue or idle tick. -/
def stepNow (s : State) : Option PwrStep := s.pwr.step.filter fun p => p.due.isNone

/-- The divider in force after this cue or idle tick. -/
def divNext (s : State) : Nat := match stepNow s with | some p => p.div | none => s.div

/-- A pending SCN_LEN write that would leave a loaded program with W above B is withdrawn (R28). -/
def withdrawLen (s : State) : State :=
  if s.pendQ.any fun p => p.is Fld.SCN_LEN_LEN && !budgetOk s p.val (divNext s) then
    { s with pendQ := s.pendQ.filter fun p => !p.is Fld.SCN_LEN_LEN }.setFld Fld.SCN_STATUS_LEN_BUDGET 1
  else s

/-- Q-class fields apply here: the device is in PS2 or PS3, or this cue takes it to PS2 (R323). -/
def qApplies (s : State) : Bool :=
  decide (s.fld Fld.PWR_STATE_PS = 2 ∨ s.fld Fld.PWR_STATE_PS = 3) ||
    (match stepNow s with | some p => decide (p.ps = 2) | none => false)

/-- Q-class fields apply all or none, in PS2 and PS3 (R323). -/
def applyQ (scene : Nat) (s : State) : State :=
  if qApplies s then
    let s := withdrawLen s
    let ps := s.pendQ
    if ps.isEmpty then s
    else
      let old := s
      let s := ps.foldl (fun s p => s.setFld p.fld p.val) ({ s with pendQ := [] }.setFld Fld.SMG_APPLY_SCENE_SCENE scene)
      let s := ps.foldl (fun s p => qActs old p s) s
      let s := ps.foldl (fun s p => if p.is Fld.TIM_EPOCH_EPOCH then epochApplies old p.val s else s) s
      ps.foldl (fun s p => if p.is Fld.TIM_CTRL_CUE_EN then cueEnApplies old (decide (p.val = 1)) s else s) s
  else s

/-! ### What T-class fields do -/

/-- Arm an injection if INJ_EN is 1 after this cue's fields (R337, R338). -/
def armInj (p : PendW) (s : State) : State :=
  if s.bit Fld.FLT_CTRL_INJ_EN then
    { s with inj := if s.inj.contains (p.reg, p.lo) then s.inj else s.inj ++ [(p.reg, p.lo)] }.setFld Fld.FLT_STATUS_INJ_ARMED 1
  else s

/-- The write is to an injection register. -/
def PendW.injects (p : PendW) : Bool :=
  decide (p.reg = Reg.XCL_INJECT ∨ p.reg = Reg.RHS_INJECT) ||
    (match coreReg p.reg with
     | some (c, _) => decide (p.reg = Reg.TRL_INJECT c ∨ p.reg = Reg.CFR_INJECT c ∨ p.reg = Reg.SPD_INJECT c)
     | none =>
       (match blockIndex (Reg.MEM_INJECT 0) 0x100 12 p.reg with | some i => decide (p.reg = Reg.MEM_INJECT i) | none => false) ||
       (match blockIndex (Reg.KL_INJECT 0) 0x100 48 p.reg with | some k => decide (p.reg = Reg.KL_INJECT k) | none => false))

/-- HST_CPL_HEAD applies: the entries up to it are consumed (R302). -/
def headApplies (s : State) : State :=
  let n := cplEntries s
  let d := if n = 0 then 0 else (s.fld Fld.HST_CPL_TAIL_TAIL + n - s.fld Fld.HST_CPL_HEAD_HEAD % n) % n
  { s with host := { s.host with posted := d } }

/-- HST_CPL_CTRL.LOG2 applies: the ring is set up anew (R302). -/
def ringApplies (s : State) : State :=
  { (s.setFld Fld.HST_CPL_TAIL_TAIL 0).setFld Fld.HST_CPL_TAIL_PHASE 1 with host := { s.host with posted := 0 } }

/-- An SDR_CTRL action: in the error state only ZEROISE is taken (R384), and that needs the key as it now stands (R395). -/
def doorActs (p : PendW) (s : State) : State :=
  if p.is Fld.SDR_CTRL_ZEROISE then if s.fld Fld.SDR_ZEROISE_KEY_KEY = 0x5A45524F then startZero false s else s
  else if s.fld Fld.SDR_STATUS_STATE ≠ 1 then s
  else if p.is Fld.SDR_CTRL_SELFTEST then startTests s
  else if p.is Fld.SDR_CTRL_DEBUG_LOCK then relock s
  else if p.is Fld.SDR_CTRL_FW_COMMIT then startCommit s
  else if p.is Fld.SDR_CTRL_SVN_ADVANCE then svnAdvance s
  else s

/-- What one T-class field does as it applies. -/
def tActs (old : State) (scene : Nat) (p : PendW) (s : State) : State :=
  if p.is Fld.SCN_CTRL_CLEAR_HALT then
    if s.bit Fld.TIM_ROLE_ROOT then { s with tim := { s.tim with haltReq := false } } else s
  else if p.is Fld.FAB_EPOCH_SRC then
    if p.val = old.fld Fld.FAB_EPOCH_SRC then s else s.setFld Fld.FAB_SWITCH_SCENE_SCENE scene
  else if p.is Fld.HST_CPL_CTRL_LOG2 then ringApplies s
  else if p.is Fld.HST_CPL_HEAD_HEAD then if p.val = old.fld Fld.HST_CPL_HEAD_HEAD then s else headApplies s
  else if p.is Fld.FLT_CTRL_PIN_CLEAR then pairClearWritten s
  else if p.is Fld.FLT_CTRL_PIN_TEST then pairTest s
  else if p.reg = Fld.SDR_CTRL_ZEROISE.reg then doorActs p s
  else if p.injects then armInj p s
  else match regIndex (Reg.WLT_TAG 0) 256 p.reg with
    | some i => { s with wlt := SMap.set {} s.wlt i {} }.setFld (Fld.WLT_COUNT_COUNT i) 0
    | none =>
      match blockIndex (Reg.FLT_SRC_CFG 1) 16 25 p.reg with
      | some i =>
        { s.setFld (Fld.FLT_SRC_STATE_COUNT (i + 1)) 0 with flt := { s.flt with wstart := SMap.set 0 s.flt.wstart (i + 1) 0 } }
      | none =>
        match blockIndex (Reg.XCL_WIT_CTRL 0) 0x40 32 p.reg with
        | some w => if s.bit (Fld.XCL_WIT_STATE_RUNNING w) then abandonWit w s else s
        | none =>
          match blockIndex (Reg.KL_CTRL 0) 0x100 48 p.reg with
          | some k => if p.is (Fld.KL_CTRL_RETRAIN k) then startTraining k s else s
          | none => s

/-- T-class fields apply together (R29, R322); a hop-map write whose bank is in use is left out (R258). `n` fields that commands write
apply with them and count in the trace record (R299, R310). -/
def applyT (n scene : Nat) (s : State) : State :=
  let ps := s.pendT.filter fun p => !bankBusy scene s p
  let s := if s.pendT.length = ps.length then s else s.setFld Fld.FAB_STATUS_BANK_BUSY 1
  if s.pendT.isEmpty && decide (n = 0) then s
  else
    let old := s
    let s := ps.foldl (fun s p => if p.action then s else s.setFld p.fld p.val)
      ({ s with pendT := [] }.setFld Fld.SMG_APPLY_SCENE_SCENE scene)
    let s := ps.foldl (fun s p => tActs old scene p s) s
    traceRec 4 0 0 0 (ps.length + n) s

/-! ### Commands taken at the last scan (R144, R299, R301, R366) -/

/-- The POSADD sums of the scene that ends, on bound slots; a slot that is bound now discards them (R145, R301). -/
def applyPosadd (s : State) : State :=
  let bound := s.cmdEff.filterMap fun e => match e with | .bind i _ _ => some i | _ => none
  let s' := s.posadd.foldl (fun s (a : BitVec 6 × Nat) =>
    let f := Fld.SCN_SLOT_POS_POS a.1.toNat
    if s.bit (Fld.SCN_SLOT_ID_BOUND a.1.toNat) && !bound.contains a.1 then s.setFld f ((s.fld f + a.2) % 2 ^ 32) else s) s
  { s' with posadd := [] }

/-- START_RUN returns the restore state to IDLE, which discards the restore table (R364, R368); a RESTORE taken after it has made its own
state. -/
def runIdle (s : State) : State :=
  if s.fld Fld.SCN_RESTORE_STATE = 1 then s
  else { s with eng := { s.eng with table := [], last := [], restored := none } }.setFld Fld.SCN_RESTORE_STATE 0

/-- RESTORE_ALIGN applies (R366): WINNER 0 keeps STEP and retags the record, unless a DATAPOS has come since; WINNER 1 takes DATAPOS_STEP
as the step and makes the scale history cold. A RESTORE taken after it has made its own state. -/
def alignApplies (winner dp : Nat) (s : State) : State :=
  if s.fld Fld.SCN_RESTORE_STATE ≠ 3 then s
  else
    let s := { s with seedSet := true }.setFld Fld.SCN_RESTORE_STATE 4
    if winner = 0 then
      if s.fld Fld.SCN_DATAPOS_STEP = dp then s.setFld Fld.SCN_DATAPOS_STEP (s.fld Fld.SCN_STEP_STEP) else s
    else
      { s with
        wlt := [], hist := { due := true, filled := [] }
        eng := { s.eng with restored := s.eng.restored.map fun (r : Nat × Nat × Word) => (dp, r.2) } }.setFld Fld.SCN_STEP_STEP dp

/-- Register fields that the commands taken at the last scan write (R299, R310). -/
def cmdFields (s : State) : Nat :=
  (s.cmdEff.map fun e => match e with
    | .bind .. => 3
    | .unbind .. => 3
    | .run .. => 3
    | .align .. => 2).foldl (· + ·) 0

/-- One effect of a taken command. A new step counter begins a step: Wilt Watch counts of the step left unfinished are dropped (R208). -/
def applyCmd (s : State) : CmdEff → State
  | .bind i id pos =>
    let n := i.toNat
    let s := ((s.setFld (Fld.SCN_SLOT_ID_SEQ_ID n) id).setFld (Fld.SCN_SLOT_ID_BOUND n) 1).setFld (Fld.SCN_SLOT_POS_POS n) pos
    { s with subkeys := SMap.set 0 s.subkeys n (slotSubkey s.seed (BitVec.ofNat 48 id)) }
  | .unbind i =>
    let n := i.toNat
    ((s.setFld (Fld.SCN_SLOT_ID_SEQ_ID n) 0).setFld (Fld.SCN_SLOT_ID_BOUND n) 0).setFld (Fld.SCN_SLOT_POS_POS n) 0
  | .run step pos => runIdle (({ s with wlt := [] }.setFld Fld.SCN_STEP_STEP step).setFld Fld.SCN_SEQ_POS pos)
  | .align winner dp => alignApplies winner dp s

/-- What the commands taken at the last scan write, in SEQ order. -/
def applyCmds (s : State) : State :=
  if s.controlHalted then s else s.cmdEff.foldl applyCmd { s with cmdEff := [] }

end Sys2Proof.Machine
end

