-- ==== Sys2Proof/Machine/Speculation.lean ====
section
/-! DEFINITION. Speculative regions: CONFIRM, SQUASH, ADMIT, their outcomes and notices (R132 to R141, R283, R284). -/

namespace Sys2Proof.Machine

/-! ### Notices -/

/-- Record a notice at a peer core (R138). -/
def recordNotice (o : CoreId) (dev core region outcome : Nat) (counts : List (Nat × Nat)) (s : State) : State :=
  s.updCore o fun k => touchSource dev core region (fun r => { r with notice := some (outcome, counts) }) k

/-- The payload of a routed NOTICE (R283). -/
def noticePayload (s : State) (c : CoreId) (region outcome dcore : Nat) (counts : List (Nat × Nat)) : List Byte :=
  leBytes 8 (s.fld Fld.SCN_COUNT_SCENE) ++ leBytes 2 region ++ leBytes 1 c.val ++ leBytes 1 outcome ++ leBytes 1 dcore ++
    leBytes 1 counts.length ++ leBytes 2 0 ++
    ((counts.flatMap fun t => leBytes 4 (t.1 + t.2 * 1024)) ++ List.replicate 32 0#8).take 32

/-- A routed control packet made here (R248). -/
def mkNotice (s : State) (r : SentRec) (payload : List Byte) : Pkt :=
  .ctrl
    { sub := false, epoch := false, ckind := 3, hops := BitVec.ofNat 4 r.hops, next := 0, dtype := r.dtype
      dest := BitVec.ofNat 16 r.dev, stype := 1, src := BitVec.ofNat 16 (s.fld Fld.FAB_NODE_ID)
      route := r.route.setWidth 72, payload := payload }

/-- Send the notice of a closed region to one peer: over the memory network to a core of this device, else on VL0 along
the first SEND's route; a launch that the source test refuses sends nothing (R137, R253, R283). -/
def sendNotice (c : CoreId) (region outcome : Nat) (sent : List SentRec) (r : SentRec) (s : State) : State :=
  if r.local_ then
    match (if h : r.core < 96 then some (⟨r.core, h⟩ : CoreId) else none) with
    | some o => recordNotice o (s.fld Fld.FAB_NODE_ID) c.val region outcome [] s
    | none => s
  else
    match launchTest s r.route r.hops 12 none with
    | .bad cause hop => routeIllegal c.val cause hop 0xFFFFFFFF false s
    | .ok port =>
      let counts := (sent.filter fun t => decide (t.dev = r.dev ∧ t.core = r.core ∧ !t.local_)).map fun t => (t.res, t.count)
      launch port [mkNotice s r (noticePayload s c region outcome r.core counts)] s

/-- One record per peer: the first of a region's records to it. -/
def peers (l : List SentRec) : List SentRec :=
  l.foldl (fun acc r => if acc.any fun t => decide (t.dev = r.dev ∧ t.core = r.core ∧ t.local_ = r.local_) then acc else acc ++ [r]) []

/-- Send the notices of a region. -/
def sendNotices (c : CoreId) (r : Region) (outcome : Nat) (s : State) : State :=
  (peers r.sent).foldl (fun s p => sendNotice c r.ord outcome r.sent p s) s

/-! ### Closing a region (R137) -/

/-- Lines pending with a given mark become unwritten: they read as zero until rewritten (R137, R139). -/
def unwrite (o : CoreId) (mark : Pend → Bool) (s : State) : State :=
  let ls := (s.core o).pend.filterMap fun e => match e.2 with | some p => if mark p then some e.1 else none | none => none
  let s := ls.foldl (fun s l => s.write (64 * l) (List.replicate 64 0#8)) s
  s.updCore o fun k => { k with pend := ls.foldl (fun m l => SMap.set none m l none) k.pend }

/-- Lines pending with a given mark become ordinary. -/
def ordinary (o : CoreId) (mark : Pend → Bool) (s : State) : State :=
  s.updCore o fun k => { k with pend := k.pend.filter fun e => match e.2 with | some p => !mark p | none => false }

/-- The Cold Frame as it stood when the region opened, its groups released (R186). -/
def restoreFrame (shadow now : SMap CfEntry) : SMap CfEntry :=
  ((shadow ++ now).map (·.1)).foldl (fun m p =>
    let a := SMap.get {} shadow p
    let b := SMap.get {} now p
    SMap.set {} m p { a with pages := b.pages.take a.pages.length }) now

/-- The pages that the region's UNSTASHes emptied are freed at a confirm (R186). -/
def sweepFrame (now : SMap CfEntry) : SMap CfEntry :=
  now.foldl (fun m e => SMap.set {} m e.1 e.2.sweep) now

/-- The squash effects of R137 on the core itself. -/
def squashCore (r : Region) (k : Core) : Core :=
  let mine := fun (o : Option Nat) => decide (o = some r.ord)
  let gone := (k.tiles.filter fun t => mine t.region).map (·.granule)
  let keep := fun (q : List QEntry) => q.filter fun e => !mine e.region
  { k with
    regs := r.shadow, region := none, confirm := none
    uM := keep k.uM, uT := keep k.uT, uV := keep k.uV, uD := keep k.uD, uF := keep k.uF, uC := keep k.uC
    tiles := k.tiles.filter fun t => !mine t.region
    inflight := k.inflight.filter fun p => !gone.contains p.granule
    tWait := k.tWait.filter fun w => !mine w.entry.region
    cmps := k.cmps.filter fun m => !mine m.region
    dm := k.dm.filter fun t => !mine t.region
    port := k.port.filter fun w => !mine w.region
    cf := restoreFrame r.cfShadow k.cf }

/-- Squash the open region of a core (R137). -/
def squash (c : CoreId) (outcome : Nat) (s : State) : State :=
  match (s.core c).region with
  | none => s
  | some r =>
    let s := s.updCore c (squashCore r)
    let s := unwrite c (fun p => decide (p = .own)) s
    sendNotices c r outcome (s.addSat Fld.SCN_SPEC_COUNT_SQUASHED 1)

/-- The confirm effects of R137. -/
def confirmRegion (c : CoreId) (r : Region) (s : State) : State :=
  let s := s.updCore c fun k =>
    { k with
      region := none, confirm := none, cf := sweepFrame k.cf
      tiles := k.tiles.map fun t => if t.region = some r.ord then { t with region := none } else t }
  let s := ordinary c (fun p => decide (p = .own)) s
  let s := { s with
    posadd := s.posadd ++ r.posadd
    wlt := r.wilt.foldl (fun m (t : Nat × WiltCnt) =>
      let o : WiltCnt := SMap.get {} m t.1
      SMap.set {} m t.1 { e := o.e + t.2.e, z := o.z + t.2.z, u := o.u + t.2.u }) s.wlt }
  sendNotices c r 0 (s.addSat Fld.SCN_SPEC_COUNT_CONFIRMED 1)

/-- The region's drains are compared, its packets have left and its instructions have completed (R136). -/
def regionDone (k : Core) (r : Region) : Bool :=
  let mine := fun (o : Option Nat) => decide (o = some r.ord)
  !(k.queued.any fun e => mine e.region) && !(k.tWait.any fun w => mine w.entry.region) &&
    !(k.cmps.any fun m => mine m.region && !m.done) && !(k.dm.any fun t => mine t.region) &&
    !(k.port.any fun w => mine w.region) && !(k.inflight.any fun p => mine p.region)

/-- The outcome code of a CONFIRM (R136). -/
def outcomeOf (r : Region) : Nat := if r.trigs ≠ [] then 1 else if r.fault then 2 else 0

/-- CONFIRM (R136): begins to close the open region; where no region is open it has no effect. -/
def execConfirm (c : CoreId) (gd : BitVec 6) (s : State) : Out :=
  .next (runUnit c .c (.confirm c gd) s fun x s =>
    match (s.core c).region with
    | none => some s
    | some _ => some (s.updCore c fun k =>
        { k with confirm := some (⟨.confirm c gd, x.regs, x.bundle, none, x.seq, x.at_⟩, gd) }))

/-- The CYCLE at which a CONFIRM closes its region: 2 cycles after its issue and after the region's last comparison (R136, R137). -/
def confirmAt (k : Core) (e : QEntry) (r : Region) : Nat :=
  ((k.cmps.filter fun m => decide (m.region = some r.ord)).map (·.at_)).foldl max e.at_ + 2

/-- CONFIRM_OUTCOME (R136, R137, R200): once the wait ends, the outcome is written and acts. -/
def execConfirmOutcome (c : CoreId) (s : State) : Out :=
  .next (if s.live then
    match (s.core c).confirm, (s.core c).region with
    | some (e, gd), some r =>
      if regionDone (s.core c) r then
        let s := advanceTo (s.cycleAt (confirmAt (s.core c) e r)) s
        let o := outcomeOf r
        let s := if o = 0 then confirmRegion c r s else squash c o s
        let s := if o = 1 then repotEvent c r.ord r.trigs e.bundle 5 true (s.addSat (Fld.TRL_REPOT_FORMAT c) 1) else s
        s.updCore c fun k => { k with regs := k.regs.setG gd (BitVec.ofNat 64 o), confirm := none }
      else s
    | _, _ => s
  else s)

/-- SQUASH (R137): abandons the open region at once. -/
def execSquash (c : CoreId) (s : State) : Out :=
  .next (runUnit c .c (.squash c) s fun _ s => some (squash c 3 s))

/-! ### ADMIT (R139, R284) -/

/-- ADMIT (R139): the core waits for the source region that entry X names. -/
def execAdmit (c : CoreId) (gd : BitVec 6) (x : BitVec 12) (s : State) : Out :=
  guardXfer c x 5 s (runUnit c .c (.admitRegion c gd x) s fun t s =>
    some (s.updCore c fun k => { k with admitOp := some (⟨.admitRegion c gd x, t.regs, t.bundle, t.region, t.seq, t.at_⟩, gd, x.toNat) }))

/-- The source region's notice has come and every packet that it counts is written. -/
def SrcRegion.settled (r : SrcRegion) : Option Nat :=
  match r.notice with
  | none => none
  | some (o, counts) =>
    if counts.all fun t => decide (t.2 ≤ ((r.written.find? fun w => decide (w.1 = t.1)).map (·.2)).getD 0) then some o else none

/-- ADMIT_COMPLETE (R139): the admitted lines become ordinary or unwritten, and the outcome is written. What is known of the source
region stays until the cue: an ADMIT of it on another reservation finds it too (R284). -/
def execAdmitComplete (c : CoreId) (s : State) : Out :=
  .next (if s.live then
    match (s.core c).admitOp with
    | none => s
    | some (e, gd, x) =>
      match (s.core c).xfer x with
      | none => s
      | some t =>
        let same := fun (r : SrcRegion) => decide (r.dev = t.peer ∧ r.core = t.peerCore ∧ r.region = t.region)
        match ((s.core c).sources.find? same).bind SrcRegion.settled with
        | none => s
        | some o =>
          let mark := fun p => decide (p = Pend.src t.peer t.peerCore t.region)
          let s := if o = 0 then ordinary c mark s else unwrite c mark s
          s.updCore c fun k =>
            { k.writeRegs (e.ctx c .c) (fun r => r.setG gd (BitVec.ofNat 64 o)) with
              admitOp := none }
  else s)

/-- NOTICE (R283): a routed notice reaches the peer and is recorded for its ADMIT; one of another scene is of no region
that an ADMIT of this scene names. -/
def execNotice (k : LinkId) (p : CtrlPkt) (s : State) : Out :=
  .next (if p.ckind = 3 then
    handle k (.ctrl p) (fun s =>
      let b := p.payload
      let nres := min 8 (leNat ((b.drop 13).take 1))
      let counts := (List.range nres).map fun i =>
        let v := leNat ((b.drop (16 + 4 * i)).take 4)
        (v % 1024, v / 1024)
      let dcore := leNat ((b.drop 12).take 1)
      match (if h : dcore < 96 then some (⟨dcore, h⟩ : CoreId) else none) with
      | some o =>
        if leNat (b.take 8) = s.fld Fld.SCN_COUNT_SCENE then
          some (recordNotice o p.src.toNat (leNat ((b.drop 10).take 1)) (leNat ((b.drop 8).take 2))
            (leNat ((b.drop 11).take 1)) counts s)
        else some s
      | none => some s) s
  else s)

end Sys2Proof.Machine
end

