-- ==== Sys2Proof/Machine/Cue.lean ====
section
/-! DEFINITION. Cues and idle ticks: overruns, abandoned regions, the end of a step, shadows applied, the scene number, halts, the
scene start and the command scan (R29 to R31, R35 to R38, R45, R116, R131, R139, R140, R145, R178, R209, R213, R263, R276, R298, R307,
R318, R342, R349, R373, R405, R406). -/

namespace Sys2Proof.Machine

/-! ### The end of a scene -/

/-- A transfer at the port that must complete in its scene and has not (R239, R265, R276, R278, R282). A SEND that is still there has
sent nothing: its receiver overruns. -/
def stuckXfer (k : Core) (w : PortXfer) : Bool :=
  match w.instr with
  | .send .. => false
  | .xred .. => match k.xfer w.x with
    | some e => !w.complete e
    | none => true
  | _ => !w.allWritten

/-- An UNSTASH waits for a read-back for which no frame page has become free (R182). -/
def stuckUnstash (k : Core) : Bool :=
  match k.uD with
  | [] => false
  | e :: _ => match e.instr with
    | .unstash _ _ _ _ plan =>
      let f := k.cfEntry plan.toNat
      k.pickFrame.isNone && (match f.pages[f.rd / perPage f.enc f.ff]? with | some (.ovf _) => true | _ => false)
    | _ => false

/-- The core overruns: it ran in the scene and does not stand at its cue-wait bundle (R29), a promotion replay of it runs (R104), or a
transfer or read-back of it never completed (R182, R276, R278, R282). -/
def Core.overruns (k : Core) : Bool :=
  k.ranScene && (!k.atCueWait || k.stopped || (k.tWait.any fun w => w.replay.isSome) || k.port.any (stuckXfer k) ||
    stuckUnstash k)

/-- The lowest-numbered overrunning core: one of the scene, or the one a suspect device or a twin mismatch names (R30, R348, R374). -/
def overrunCore (s : State) : Option Nat :=
  match (allCores.find? fun c => (s.core c).overruns).map Fin.val, s.tim.overrunDue with
  | some a, some b => some (min a b)
  | some a, none => some a
  | none, b => b

/-- Record an overrun (R30 step 1). LATE counts from this cue until the core's issued work is complete (R47). -/
def noteOverrun (n : Nat) (s : State) : State :=
  let s := { s with tim := { s.tim with late := some ⟨n, s.tim.ticks, s.div, s.tim.ticks⟩ } }
  let s := (s.setFld Fld.SCN_STATUS_OVERRUN 1).setFld Fld.SCN_OVR_INFO_CORE n
  raise 1 { unit := 1, index := n } [] (s.setFld Fld.SCN_OVR_SCENE_SCENE (s.fld Fld.SCN_COUNT_SCENE))

/-- Cycles from a core's cue-wait to the cue; none for an overrunning core (R47). -/
def marginAt (s : State) (k : Core) : Nat :=
  if k.overruns then 0
  else s.cycle - (if k.ranScene then k.slip + k.compiled - 1 else 0)

/-- Slip and margin of the scene that ends (R47, R131). With no core admitted SCN_MARGIN shows 2^24 − 1, and of cores with one slip, or
with none, SCN_SLIP_MAX names the lowest-numbered that ran (DESIGN CHOICE, assumption 66). -/
def sceneStats (s : State) : State :=
  if s.tim.sceneOn then
    let on := allCores.filter fun c => s.bit (Fld.RHS_CORE_ADMITTED c.val) && !dbgHalted s c.val
    let margin := (on.map fun c => marginAt s (s.core c)).foldl min (2 ^ 24 - 1)
    let waits := allCores.filter fun c => (s.core c).ranScene && !(s.core c).overruns
    let most := waits.foldl (fun (b : Nat × Nat) c => if b.1 < (s.core c).slip then ((s.core c).slip, c.val) else b)
      (0, ((waits.head?).map Fin.val).getD 0)
    ((s.setFld Fld.SCN_MARGIN_MIN margin).setFld Fld.SCN_SLIP_MAX_CYCLES (min (2 ^ 24 - 1) most.1)).setFld
      Fld.SCN_SLIP_MAX_CORE most.2
  else s

/-- TRL_SLIP after a cue: the fence slip of the scene that ends, 0 for a core that ran none (R111). -/
def fenceStats (s : State) : State :=
  allCores.foldl (fun s c =>
    let n := if s.tim.sceneOn && (s.core c).ranScene then (s.core c).fenceSlip else 0
    s.setFld (Fld.TRL_SLIP_CYCLES c) (min (2 ^ (Fld.TRL_SLIP_CYCLES c).w - 1) n)) s

/-- A region open at the cue is squashed, and logged (R29, R140). -/
def abandonRegion (s : State) (c : CoreId) : State :=
  match (s.core c).region with
  | none => s
  | some r =>
    let first := s.fld Fld.SCN_SPEC_STATUS_ABANDON + s.fld Fld.SCN_SPEC_STATUS_ESCAPE + s.fld Fld.SCN_SPEC_STATUS_EARLY = 0
    let s := if first then s.setFld Fld.SCN_SPEC_STATUS_CORE c.val else s
    squash c 3 (logEvent 0x48 { unit := 1, index := c.val, wings := true } (leBytes 2 r.ord) (s.setFld Fld.SCN_SPEC_STATUS_ABANDON 1))

/-- Lines pending for source regions are discarded, and what was held of those regions is forgotten (R140, R141): also of a region whose
notice has come and that no ADMIT has taken, of which R140 says nothing (DESIGN CHOICE, assumption 67). -/
def dropSources (s : State) (c : CoreId) : State :=
  let k := s.core c
  if k.pend.isEmpty && k.sources.isEmpty && k.admitOp.isNone then s
  else (unwrite c (fun p => decide (p ≠ Pend.own)) s).updCore c fun k => { k with sources := [], admitOp := none }

/-- The sequence entry at a position ends a step. -/
def stepEndAt (s : State) (pos : Nat) : Bool :=
  match (s.core 0).book with
  | some b => (b.seq.getD pos (0xFFFF, false)).2
  | none => false

/-- A core's Cold Frame at the end of a step: every entry is emptied, and groups not returned are reported (R178). -/
def endFrame (s : State) (c : CoreId) : State :=
  let k := s.core c
  if k.cf.isEmpty then s
  else
    let stale := (k.cf.find? fun e => decide ((e.2.st = .filling ∨ e.2.st = .reading) ∧ e.2.rd < e.2.n)).map (·.1)
    let s := s.updCore c fun k => { k with cf := [] }
    match stale with
    | some p => logEvent 0x43 { unit := 1, index := c.val } (leBytes 2 p) (s.setFld (Fld.CFR_STATUS_STALE c) 1)
    | none => s

/-- The cue that ends a scene that started: the end of a step, and the next position (R116, R178, R209). -/
def endScene (s : State) : State :=
  if s.tim.sceneOn then
    let pos := s.fld Fld.SCN_SEQ_POS
    let n := seqLen s
    let stepEnd := stepEndAt s pos
    let s := if stepEnd then
        let s := allCores.foldl endFrame s
        let s := if s.controlHalted then s else wiltUpdate s
        s.setFld Fld.SCN_STEP_STEP (s.fld Fld.SCN_STEP_STEP + 1)
      else s
    let s := applyPosadd (s.setFld Fld.SCN_SEQ_POS (if n = 0 then 0 else (pos + 1) % n))
    let s := applyCmds s
    let s := if stepEnd then latchSnap s else s
    { s with tim := { s.tim with sceneOn := false } }
  else applyCmds (applyPosadd s)

/-- The tile of a replay that a cue cuts short: its state is undefined (R104), so its granules hold free bytes. -/
def cutTile (c : CoreId) (s : State) (t : Tile) : State :=
  (tileRanges c t.granule t.c160 (t.rows * t.cols)).foldl (fun s r => let (bs, s) := drawBytes r.2 s; s.write r.1 bs)
    (s.updCore c fun k => k.updTile t.granule fun t => { t with promoted := false, wovf := false, recs := [] })

/-- Promotion replays that run at a cue stop (R104). -/
def cutReplays (s : State) (c : CoreId) : State :=
  let cut := (s.core c).tWait.filter fun w => w.replay.isSome
  if cut.isEmpty then s
  else ((cut.filterMap FenceOp.granule).filterMap (s.core c).tile).foldl (cutTile c)
    (s.updCore c fun k => { k with tWait := k.tWait.filter fun w => w.replay.isNone })

/-- What waits at the fence when no transfer of the scene is left: an XRED's wait goes with its transfer. -/
def keepsWait (w : FenceOp) : Bool := match w.entry.instr with | .xred .. => false | _ => true

/-- The core's part in the scene ends: its transfers are over (R276, R278, R282), and its units' CYCLEs count from the scene that `n`
cycles on begins. -/
def Core.rebase (n : Nat) (k : Core) : Core :=
  let q (l : List QEntry) : List QEntry := l.map fun e => { e with at_ := e.at_ - n }
  { k with
    uM := q k.uM, uT := q k.uT, uV := q k.uV, uD := q k.uD, uF := q k.uF, uC := q k.uC
    tiles := k.tiles.map fun t => { t with settled := t.settled - n }
    inflight := k.inflight.map fun p => { p with at_ := p.at_ - n }
    tWait := (k.tWait.filter keepsWait).map fun w => { w with entry := { w.entry with at_ := w.entry.at_ - n } }
    cmps := k.cmps.map fun m => { m with open_ := m.open_ - n, at_ := m.at_ - n }
    dm := k.dm.map fun t => { t with start := t.start - n, lands := t.lands - n }
    landing := k.landing.map fun l => { l with at_ := l.at_ - n }
    wheel := [], port := [], mFree := k.mFree - n, tNext := k.tNext - n, tFree := k.tFree - n }

/-- No core runs a scene until one starts. -/
def leaveScene (s : State) (c : CoreId) : State :=
  (cutReplays s c).updCore c fun k =>
    let k := k.rebase s.sinceCue
    if k.ranScene || k.prog.isSome then { k with ranScene := false, prog := none, atCueWait := true } else k

/-! ### Shadows -/

/-- What applies at a cue or idle tick, in order: a debug scope, Q-class fields, a power step and T-class fields; the zeroise key falls to 0
(R316, R322, R323, R389, R395). The fields and the step wait while JTAG halts the control pair (R312). -/
def applyShadows (n scene : Nat) (s : State) : State :=
  let s := applyScope s
  let s := if s.controlHalted then s else applyT n scene (stepAtCue (applyQ scene s))
  twinEdge (s.setFld Fld.SDR_ZEROISE_KEY_KEY 0)

/-! ### The scene start -/

/-- Records of the scale history that a restore has not filled become cold, at the first scene start after CFG_HIST was written or after
a restore (R213). Which tag is named where no record had one, no rule states: it is free. -/
def coldRecords (s : State) : State :=
  if s.hist.due && !s.controlHalted then
    let base := s.fld Fld.CFG_HIST_BASE_BASE
    let cold := (List.range (s.fld Fld.CFG_HIST_COUNT)).filter fun i => !s.hist.filled.contains i
    let tags := (cold.filter fun i => decide (s.le (base + 128 * i) 4 ≠ 0)).map fun i => s.le (base + 128 * i + 4) 2
    let s := cold.foldl (fun s i => s.store (base + 128 * i) (leBytes 4 0)) { s with hist := {} }
    let (tag, s) := match tags with
      | [] => let (x, s) := drawWord s; (x.toNat % 2 ^ 16, s)
      | t :: ts => (ts.foldl min t, s)
    logEvent 0x46 {} (leBytes 4 cold.length ++ leBytes 2 tag) s
  else s

/-- One core at the start of a scene: an admitted core that is not in debug halt runs its program at POS from cycle 0; at a rest entry, or
otherwise, it waits (R29, R116, R132, R406). -/
def startCore (pos : Nat) (s : State) (c : CoreId) : State :=
  let k := s.core c
  let prog := if s.bit (Fld.RHS_CORE_ADMITTED c.val) && !dbgHalted s c.val then
      k.book.bind fun b =>
        let e := (b.seq.getD pos (0xFFFF, false)).1
        if e = 0xFFFF then none else (b.progs[e]?).map fun p => (e, p)
    else none
  let k0 : Core := { k with
    loops := [], ready := [], holdUntil := 0, compiled := 0, nextOrd := 0, slip := 0, fenceSlip := 0, sources := [], confirm := none, admitOp := none }
  match prog with
  | some (e, p) => s.setCore c { k0 with prog := some e, pc := p.off / 32, atCueWait := false, ranScene := true }
  | none => if k = { k0 with prog := none, atCueWait := true, ranScene := false } then s
      else s.setCore c { k0 with prog := none, atCueWait := true, ranScene := false }

/-- A scene starts (R29, R116). -/
def startScene (s : State) : State :=
  let s := coldRecords s
  let s := allCores.foldl (startCore (s.fld Fld.SCN_SEQ_POS)) s
  { s with
    tim := { s.tim with sceneOn := true, started := true }
    rhs := { s.rhs with opp := false } }

/-! ### The cue -/

/-- What every cue and idle tick ends with: the inbox of twin mode, messages of the vectors whose cause has occurred (in D3hot none, and
the causes stand), and the scan of the command ring (R294, R298, R307, R373). -/
def tickEnds (s : State) : State :=
  let s := twinTick s
  if s.bit Fld.HST_STATUS_D3HOT then scan s
  else
    let vs := [0, 1, 2, 3, 4].filter fun v => s.host.causes.contains v
    let s := { s with host := { s.host with causes := [] } }
    scan (vs.foldl (fun s v => sendMsix v s) s)

/-- The pair leaves the level that PIN_TEST gave it (R336). -/
def endPinTest (s : State) : State := if s.flt.pinTest then pairClear s else s

/-- The announced scene number is out of sequence (R37): the device has started a scene, and it is not one more than SCN_COUNT. -/
def outOfSeq (s : State) (scene : Nat) : Bool := s.tim.started && decide (scene ≠ s.fld Fld.SCN_COUNT_SCENE + 1)

/-- HALTED after a cue (R30, R31, R38, R406): set by a failure of this device, by its entry into debug halt or by the announcement of the
cue; only an announcement with HALT = 0 clears it (`announcedHalt`). -/
def haltedNow (fails entry hold halt : Bool) (s : State) : Bool :=
  fails || entry || (!hold && halt) || s.bit Fld.SCN_STATUS_HALTED

/-- The root places the cue that ends the scene now running, or sets when the final announcement is due (R34, R40). -/
def placeNext (t len scene : Nat) (s : State) : State :=
  if s.bit Fld.TIM_ROLE_ROOT then
    if s.tim.rootLive then
      { s with tim := { s.tim with
        placed := some ⟨some (t + sceneNs len), scene + 1, len, false⟩
        midDue := some ((t + sceneNs len / 2) * unitNs) } }
    else { s with tim := { s.tim with finalDue := some ((t + sceneNs len / 2) * unitNs) } }
  else s

/-- The state at which a cue looks for the core that overran (R29, R128). -/
def cueSettled (s : State) : State := resetReducers (leftovers (endPinTest s))

/-- The scene that ends is closed: its statistics, the overrun, its regions and its cores (R29, R128, R139). -/
def cueCloses (who : Option Nat) (s : State) : State :=
  let s := fenceStats (sceneStats s)
  let s := match who with | some n => noteOverrun n s | none => s
  let s := allCores.foldl dropSources (allCores.foldl abandonRegion s)
  allCores.foldl leaveScene (endScene s)

/-- The status bits of a cue loss, a scene out of sequence and a length that differs (R36, R38). -/
def cueMarks (lost seqBad lenOk : Bool) (s : State) : State :=
  let s := if lost || seqBad then raise 2 {} [] (s.setFld Fld.SCN_STATUS_CUE_LOST 1) else s
  let s := if seqBad then s.setFld Fld.SCN_STATUS_CUE_SEQ 1 else s
  s.setFld Fld.SCN_STATUS_LEN_MISMATCH (b2n !lenOk)

/-- HALT leaves for the mesh where this device halts it (R46). -/
def cueSendsHalt (send : Bool) (who lost seqBad : Bool) (s : State) : State :=
  if send then sendHalt (if who then 1 else if lost then 2 else if seqBad then 3 else 4) s else s

/-- SCN_STATUS.HALTED of the scene that starts, and its notice (R46, R306). -/
def cueHalts (halted : Bool) (s : State) : State :=
  let was := s.bit Fld.SCN_STATUS_HALTED
  let s := s.setFld Fld.SCN_STATUS_HALTED (b2n halted)
  if halted && !was then postNotice 2 (s.reg Reg.SCN_STATUS).toNat s else s

/-- What the health pair measures at a cue: power and the Frost Watch score (R312, R318, R349). -/
def cueHealth (s : State) : State := if s.healthHalted then s else frostUpdate (measurePower s)

/-- The cores start the scene (R29, R36, R44). -/
def cueStarts (hold lost seqBad halted lenOk : Bool) (s : State) : Bool :=
  decide (s.fld Fld.PWR_STATE_PS ≤ 1) && s.bit Fld.SCN_LOAD_STATUS_LOADED && s.seedSet && !halted && lenOk &&
    (timeGood s || hold) && !lost && !seqBad

/-- What a cue leaves for the scene: its start, the turns of the stack wheel, a twin exchange that is due and a Rehearsal opportunity (R29,
R226, R342, R372). -/
def cueOpens (scene : Nat) (s : State) : State :=
  { s with
    tim := { s.tim with overrunDue := none, sceneTick := s.tim.ticks }
    scrub := { s.scrub with turn := 0, share := [] }
    twin := { s.twin with due := s.bit Fld.XCL_TWIN_CTRL_EN && decide (scene % s.fld Fld.XCL_TWIN_CTRL_K = 0) }
    rhs := { s.rhs with opp := decide (s.fld Fld.PWR_STATE_PS ≤ 2) } }

/-- The steps of a cue that fires at `t` for scene `a.scene` (R29): `hold` in holdover, `lost` a cue loss (R38). -/
def cueSteps (t : Nat) (a : Announce) (hold lost : Bool) (s : State) : State :=
  let s := cueSettled s
  let n := cmdFields s
  let who := overrunCore s
  let s := cueCloses who s
  let seqBad := !lost && outOfSeq s a.scene
  let lenOk := decide (a.len = s.fld Fld.SCN_LEN_LEN)
  let scene := if seqBad then s.fld Fld.SCN_COUNT_SCENE else a.scene
  let s := placeNext t a.len a.scene (cueMarks lost seqBad lenOk s)
  let mask := debugMask s
  let s := applyShadows n scene s
  let entry := decide (debugMask s &&& mask ≠ debugMask s) && decide (s.fld Fld.PWR_STATE_PS ≤ 1)
  let fails := who.isSome || lost || seqBad
  let s := cueSendsHalt (fails || entry) who.isSome lost seqBad (powerAtCue (s.setFld Fld.SCN_COUNT_SCENE scene))
  let halted := haltedNow fails entry hold a.halt s
  let s := cueHealth (cueHalts halted s)
  let starts := cueStarts hold lost seqBad halted lenOk s
  let s := cueOpens scene s
  tickEnds (if starts then startScene s else s)

/-- A cue fires (R35, R36): at the first edge of the 3.6 GHz clock at which local time has reached `t`. After a cue loss, a lost lock, an
announced scene out of sequence or a final announcement no further cue fires, and idle ticks follow (R38, R45). -/
def fireCue (t : Nat) (a : Announce) (hold lost : Bool) (s : State) : State :=
  let s := advanceTo (s.tim.edgeFrom (max s.tim.now (t * unitNs))) s
  let ends := lost || (!lost && outOfSeq s a.scene) || s.tim.ended || (s.bit Fld.TIM_ROLE_ROOT && !s.tim.rootLive)
  let s := { s with tim := { s.tim with
    announced := none, lastCue := some t, missed := if hold then s.tim.missed + 1 else 0, lockLost := false, ended := false
    cuesRun := !ends, idleDue := s.tim.now + tickUnits } }
  cueSteps t a hold lost (cuePulse s)

/-- Cues can fire: start-up is over, the device is in PS0 to PS2 and not in FAULT_STOP (R44, R321). -/
def cueReady (s : State) : Bool := s.ready && decide (s.fld Fld.PWR_STATE_PS ≤ 2) && !s.bit Fld.PWR_STATE_FAULT_STOP

/-- CUE (R29): the announced cue. A lock lost while cues ran makes it a cue loss (R38). -/
def execCue (s : State) : Out :=
  .next (if cueReady s then
    match s.tim.announced with
    | some a => match a.nextCue with
      | some t => fireCue t a false s.tim.lockLost s
      | none => s
    | none => s
  else s)

/-- CUE_HOLDOVER (R38): a cue falls due on a follower without an announcement. The first two are fired in holdover; the third is a cue loss. -/
def execCueHoldover (s : State) : Out :=
  .next (if cueReady s && s.tim.cuesRun && s.tim.announced.isNone && !s.bit Fld.TIM_ROLE_ROOT && !s.tim.ended then
    match s.tim.lastCue with
    | some p =>
      let len := s.fld Fld.SCN_LEN_LEN
      let a : Announce := ⟨none, s.fld Fld.SCN_COUNT_SCENE + 1, len, false⟩
      let lost := decide (2 ≤ s.tim.missed) || s.tim.lockLost
      let s := if 2 ≤ s.tim.missed then s else (s.setFld Fld.TIM_STATUS_HOLDOVER 1).setFld Fld.SCN_STATUS_CUE_MISSED 1
      fireCue (p + sceneNs len) a true lost s
    | none => s
  else s)

/-! ### Idle ticks (R45) -/

/-- IDLE_TICK: every 16,384 ns while no cues run; shadows apply, no scene starts, and the ring is scanned. -/
def execIdleTick (s : State) : Out :=
  .next (if s.ready && !s.tim.cuesRun then
    let s := advanceTo s.tim.idleDue s
    let s := { s with tim := { s.tim with idleDue := s.tim.idleDue + tickUnits } }
    let s := powerAtCue (applyShadows (cmdFields s) (s.fld Fld.SCN_COUNT_SCENE) (applyCmds (applyPosadd s)))
    if s.ready then tickEnds { s with rhs := { s.rhs with opp := decide (s.fld Fld.PWR_STATE_PS ≤ 2) } } else s
  else s)

end Sys2Proof.Machine
end

