-- ==== Sys2Proof/Decode.lean ====
section
/-! DEFINITION. Decoding. No row of the opcode table gives bits, so `decodeTableWord` reads no command from a word. The
Ocran-3 slots of a bundle (R148 to R151, R158 to R167) are decoded here for BUNDLE_ISSUE and the loader. -/

namespace Sys2Proof

/-- The command that a word spells by the opcode table's bits: the table gives no row any bits. -/
def decodeTableWord (_nbits _w : Nat) : Option Instr := none

/-- What a slot holds (R151, R172): a NOP, an instruction, or an unassigned opcode or nonzero reserved bit. -/
inductive SlotWord where
  | nop
  | ins (i : Instr)
  | bad
  deriving DecidableEq, Repr

/-- Operand field of `n` bits from bit `lo`. -/
def slotField (w : BitVec 40) (lo n : Nat) : BitVec n := w.extractLsb' lo n

/-- One-bit operand field. -/
def slotFlag (w : BitVec 40) (i : Nat) : Bool := w.getLsbD i

/-- An instruction whose fields end below bit `top`: every bit above is reserved and zero (R151). -/
def slotIns (w : BitVec 40) (top : Nat) (i : Instr) : SlotWord := if w >>> top = 0 then .ins i else .bad

/-- An all-zero slot is a NOP; opcode 0 with other bits set breaks R151. -/
def slotNop (w : BitVec 40) : SlotWord := if w = 0 then .nop else .bad

/-- The M slot (R158). -/
def decodeM (c : CoreId) (w : BitVec 40) : SlotWord :=
  match (slotField w 0 6).toNat with
  | 0x00 => slotNop w
  | 0x01 => slotIns w 19 (.mma c (slotField w 6 4) (slotField w 10 4) (slotField w 14 4) (slotFlag w 18))
  | 0x02 => slotIns w 20 (.mmat c (slotField w 6 4) (slotField w 10 4) (slotField w 14 4) (slotFlag w 18) (slotFlag w 19))
  | _ => .bad

/-- The T slot (R160). -/
def decodeT (c : CoreId) (w : BitVec 40) : SlotWord :=
  match (slotField w 0 6).toNat with
  | 0x00 => slotNop w
  | 0x01 => slotIns w 30 (.drain c (slotField w 6 4) (slotField w 10 4) (slotField w 14 4) (slotField w 18 4)
      (slotField w 22 4) (slotField w 26 2) (slotFlag w 28) (slotFlag w 29))
  | 0x02 => slotIns w 10 (.spill c (slotField w 6 4))
  | 0x03 => slotIns w 10 (.fill c (slotField w 6 4))
  | 0x04 => slotIns w 39 (.vxsum c (slotField w 6 4) (slotField w 10 5) (slotField w 15 3) (slotFlag w 18)
      (slotField w 19 7) (slotField w 26 7) (slotField w 33 6))
  | 0x05 => slotIns w 33 (.vxacc c (slotField w 6 4) (slotField w 10 5) (slotField w 15 3) (slotFlag w 18)
      (slotField w 19 7) (slotFlag w 26) (slotField w 27 6))
  | _ => .bad

/-- The V slot (R162). -/
def decodeV (c : CoreId) (w : BitVec 40) : SlotWord :=
  let vd := slotField w 6 5
  let va := slotField w 11 5
  let vb := slotField w 16 5
  match (slotField w 0 6).toNat with
  | 0x00 => slotNop w
  | 0x01 => slotIns w 35 (.vld c vd (slotField w 11 4) (slotField w 15 16) (slotField w 31 4))
  | 0x02 => slotIns w 40 (.vst c vd (slotField w 11 4) (slotField w 15 16) (slotField w 31 4) (slotField w 35 2) (slotField w 37 3))
  | 0x03 => slotIns w 26 (.vadd c vd va vb (slotField w 21 3) (slotField w 24 2))
  | 0x04 => slotIns w 26 (.vsub c vd va vb (slotField w 21 3) (slotField w 24 2))
  | 0x05 => slotIns w 26 (.vmul c vd va vb (slotField w 21 3) (slotField w 24 2))
  | 0x06 => slotIns w 31 (.vfma c vd va vb (slotField w 21 5) (slotField w 26 3) (slotField w 29 2))
  | 0x07 => slotIns w 24 (.vmax c vd va vb (slotField w 21 3))
  | 0x08 => slotIns w 24 (.vmin c vd va vb (slotField w 21 3))
  | 0x09 => slotIns w 19 (.vabs c vd va (slotField w 16 3))
  | 0x0A => slotIns w 19 (.vneg c vd va (slotField w 16 3))
  | 0x0B => slotIns w 21 (.vexp c vd va (slotField w 16 3) (slotField w 19 2))
  | 0x0C => slotIns w 21 (.vlog c vd va (slotField w 16 3) (slotField w 19 2))
  | 0x0D => slotIns w 21 (.vrcp c vd va (slotField w 16 3) (slotField w 19 2))
  | 0x0E => slotIns w 21 (.vrsq c vd va (slotField w 16 3) (slotField w 19 2))
  | 0x0F => slotIns w 25 (.vcmp c (slotField w 6 3) (slotField w 9 5) (slotField w 14 5) (slotField w 19 3) (slotField w 22 3))
  | 0x10 => slotIns w 24 (.vsel c vd va vb (slotField w 21 3))
  | 0x11 => slotIns w 25 (.vcvt c vd va (slotField w 16 4) (slotField w 20 2) (slotField w 22 3))
  | 0x12 => slotIns w 17 (.vsplat c vd (slotField w 11 6))
  | 0x13 => slotIns w 20 (.vamax c (slotField w 6 6) (slotField w 12 5) (slotField w 17 3))
  | 0x14 => slotIns w 40 (.seed c vd (slotField w 11 6) (slotField w 17 16) (slotField w 33 4) (slotField w 37 2) (slotFlag w 39))
  | _ => .bad

/-- The D slot (R165). -/
def decodeD (c : CoreId) (w : BitVec 40) : SlotWord :=
  match (slotField w 0 6).toNat with
  | 0x00 => slotNop w
  | 0x01 => slotIns w 20 (.dmov c (slotField w 6 4) (slotField w 10 4) (slotField w 14 6))
  | 0x02 => slotIns w 30 (.dmovi c (slotField w 6 4) (slotField w 10 4) (slotField w 14 16))
  | 0x03 => slotIns w 32 (.stash c (slotField w 6 5) (slotField w 11 2) (slotFlag w 13) (slotField w 14 6) (slotField w 20 12))
  | 0x04 => slotIns w 26 (.unstash c (slotField w 6 5) (slotField w 11 2) (slotFlag w 13) (slotField w 14 12))
  | _ => .bad

/-- The F slot (R166). -/
def decodeF (c : CoreId) (w : BitVec 40) : SlotWord :=
  let x := slotField w 6 12
  let p := slotField w 18 4
  match (slotField w 0 6).toNat with
  | 0x00 => slotNop w
  | 0x01 => slotIns w 22 (.send c x p)
  | 0x02 => slotIns w 22 (.recv c x p)
  | 0x03 => slotIns w 22 (.gather c x p)
  | 0x04 => slotIns w 22 (.xred c x p)
  | _ => .bad

/-- The C slot (R167). -/
def decodeC (c : CoreId) (w : BitVec 40) : SlotWord :=
  let gd := slotField w 6 6
  let ga := slotField w 12 6
  let gb := slotField w 18 6
  match (slotField w 0 6).toNat with
  | 0x00 => slotNop w
  | 0x01 => slotIns w 34 (.loop c (slotField w 6 16) (slotField w 22 12))
  | 0x02 => slotIns w 26 (.jmp c (slotField w 6 3) (slotFlag w 9) (slotField w 10 16))
  | 0x03 => slotIns w 22 (.wait c (slotField w 6 16))
  | 0x04 => slotIns w 22 (.phase c (slotField w 6 16))
  | 0x05 => slotIns w 12 (.confirm c gd)
  | 0x06 => slotIns w 6 (.squash c)
  | 0x07 => slotIns w 24 (.admitRegion c gd (slotField w 12 12))
  | 0x08 => slotIns w 12 (.slot c gd)
  | 0x09 => slotIns w 16 (.gets c gd (slotField w 12 4))
  | 0x0A => slotIns w 22 (.posadd c (slotField w 6 16))
  | 0x0B => slotIns w 31 (.movi c gd (slotField w 12 16) (slotField w 28 2) (slotFlag w 30))
  | 0x0C => slotIns w 34 (.addi c gd ga (slotField w 18 16))
  | 0x0D => slotIns w 24 (.add c gd ga gb)
  | 0x0E => slotIns w 24 (.sub c gd ga gb)
  | 0x0F => slotIns w 24 (.and c gd ga gb)
  | 0x10 => slotIns w 24 (.or c gd ga gb)
  | 0x11 => slotIns w 24 (.xor c gd ga gb)
  | 0x12 => slotIns w 24 (.shl c gd ga gb)
  | 0x13 => slotIns w 24 (.shr c gd ga gb)
  | 0x14 => slotIns w 24 (.sar c gd ga gb)
  | 0x15 => slotIns w 24 (.mul c gd ga gb)
  | 0x16 => slotIns w 24 (.cmp c (slotField w 6 3) (slotField w 9 6) (slotField w 15 6) (slotField w 21 3))
  | 0x17 => slotIns w 20 (.padd c (slotField w 6 4) (slotField w 10 4) (slotField w 14 6))
  | 0x18 => slotIns w 16 (.pset c (slotField w 6 4) (slotField w 10 6))
  | 0x19 => slotIns w 16 (.pget c gd (slotField w 12 4))
  | 0x1A => slotIns w 20 (.tld c (slotField w 6 4) (slotField w 10 10))
  | 0x1B => slotIns w 19 (.tadj c (slotField w 6 4) (slotField w 10 3) (slotField w 13 6))
  | _ => .bad

/-- A bundle's header fields (R149). -/
structure Header where
  pq : BitVec 3
  pneg : Bool
  spec : Bool
  phase : Bool
  cue : Bool
  rsv : BitVec 9
  deriving DecidableEq, Repr

/-- A bundle (R148): header and the six slots M, T, V, D, F, C. -/
structure Bundle where
  hdr : Header
  m : SlotWord
  t : SlotWord
  v : SlotWord
  d : SlotWord
  f : SlotWord
  c : SlotWord
  deriving DecidableEq, Repr

/-- Decode the 256 bits of a bundle of core `c` (R148, R149). -/
def decodeBundle (c : CoreId) (w : BitVec 256) : Bundle where
  hdr := ⟨w.extractLsb' 0 3, w.getLsbD 3, w.getLsbD 4, w.getLsbD 5, w.getLsbD 6, w.extractLsb' 7 9⟩
  m := decodeM c (w.extractLsb' 16 40)
  t := decodeT c (w.extractLsb' 56 40)
  v := decodeV c (w.extractLsb' 96 40)
  d := decodeD c (w.extractLsb' 136 40)
  f := decodeF c (w.extractLsb' 176 40)
  c := decodeC c (w.extractLsb' 216 40)

end Sys2Proof
end

