-- ==== Sys2Proof/Machine/Issue.lean ====
section
/-! DEFINITION. Bundle issue and control flow: BUNDLE_ISSUE, LOOP, JMP, WAIT and PHASE (R115 to R121, R128, R131, R135,
R142, R143, R148 to R150, R170, R173). -/

namespace Sys2Proof.Machine

/-! ### Phase records -/

/-- The core's slip in this scene up to now (R128, R143). -/
def slipNow (s : State) (k : Core) : Nat := s.cycle - k.compiled

/-- Stamp a phase record (R142, R143): index into the phase tag table, and whether the predicate failed. -/
def stampPhase (c : CoreId) (idx : Nat) (predOff : Bool) (s : State) : State :=
  let k := s.core c
  if 256 ≤ k.phases.length then
    (s.updCore c fun k => { k with phaseLost := true }).addSat Fld.SCN_PHASE_LOST_COUNT 1
  else
    let tag := match k.book with | some b => b.phases.getD idx 0 | none => 0
    let r := leBytes 8 (s.fld Fld.SCN_COUNT_SCENE) ++ leBytes 4 s.cycle ++ leBytes 4 (slipNow s k) ++ leBytes 2 tag ++
      leBytes 2 (k.prog.getD 0xFFFF) ++ leBytes 1 c.val ++
      leBytes 1 (b2n predOff + 2 * b2n k.region.isSome + 4 * b2n k.phaseLost) ++ leBytes 1 k.regs.slot.toNat ++
      leBytes 1 0 ++ leBytes 8 (s.fld Fld.SCN_STEP_STEP)
    s.updCore c fun k => { k with phases := k.phases ++ [r], phaseLost := false }

/-- PHASE (R142): stamps a phase record. A bundle's PHASE is stamped as the bundle issues. -/
def execPhase (c : CoreId) (tag : BitVec 16) (s : State) : Out :=
  .next (runUnit c .c (.phase c tag) s fun _ s => some (stampPhase c tag.toNat false s))

/-! ### Control flow -/

/-- The bundle address an instruction counts from. -/
def Ctx.base (x : Ctx) (k : Core) : Nat := if x.bundle = 0xFFFFFFFF then k.pc else x.bundle

/-- LOOP (R119, R167, R169): the LEN + 1 bundles that follow run N + 1 times. -/
def execLoop (c : CoreId) (n : BitVec 16) (len : BitVec 12) (s : State) : Out :=
  .next (runUnit c .c (.loop c n len) s fun x s =>
    some (s.updCore c fun k =>
      { k with loops := ⟨x.base k + 1, x.base k + 1 + len.toNat, n.toNat⟩ :: k.loops }))

/-- JMP (R119, R167): taken, it continues at its bundle address + OFF and costs one cycle more. OFF 0 is illegal. -/
def execJmp (c : CoreId) (q : BitVec 3) (neg : Bool) (off : BitVec 16) (s : State) : Out :=
  let i := Instr.jmp c q neg off
  guardWf i (runUnit c .c i s fun x s =>
    if (x.regs.qr q).getLsbD 0 != neg then
      some (s.updCore c fun k =>
        { k with pc := x.base k + off.toNat, holdUntil := k.holdUntil + 1, compiled := k.compiled + 1 })
    else some s)

/-- WAIT (R119, R167): holds issue for N + 1 cycles. -/
def execWait (c : CoreId) (n : BitVec 16) (s : State) : Out :=
  .next (runUnit c .c (.wait c n) s fun _ s =>
    some (s.updCore c fun k =>
      { k with holdUntil := k.holdUntil + n.toNat + 1, compiled := k.compiled + n.toNat + 1 }))

/-- The bundle after `pc` with its loop frames: at the last bundle of a body the loop goes round or ends (R119). -/
def nextPc : List LoopFrame → Nat → Nat × List LoopFrame
  | [], pc => (pc + 1, [])
  | f :: fs, pc =>
    if pc = f.last then
      if f.left = 0 then nextPc fs pc else (f.first, { f with left := f.left - 1 } :: fs)
    else (pc + 1, f :: fs)

/-! ### Issue -/

/-- The instruction in a slot; none for a NOP, and none at all where the slot is illegal. -/
def SlotWord.get? : SlotWord → Option (Option Instr)
  | .nop => some none
  | .ins i => some (some i)
  | .bad => none

/-- A slot's own field values can issue: none is an illegal encoding, but for a TADJ, whose unit answers every FLD (R157, R172). -/
def slotOk : Instr → Bool
  | .tadj .. => true
  | i => i.wellFormed

/-- The slots of a bundle with their units; none where a slot, the header or the cue-wait rules are broken (R172). -/
def bundleSlots (b : Bundle) : Option (List (UnitId × Instr)) :=
  let slots := [(UnitId.m, b.m), (.t, b.t), (.v, b.v), (.d, b.d), (.f, b.f), (.c, b.c)]
  if slots.any fun p => (SlotWord.get? p.2).isNone then none
  else
    let ins := slots.filterMap fun p => match SlotWord.get? p.2 with | some (some i) => some (p.1, i) | _ => none
    let hasPhase := ins.any fun p => match p.2 with | .phase .. => true | _ => false
    let onlyPhase := ins.all fun p => match p.2 with | .phase .. => true | _ => false
    if b.hdr.rsv ≠ 0 ∨ (b.hdr.pneg ∧ b.hdr.pq = 0) ∨ b.hdr.phase ≠ hasPhase ∨ !(ins.all fun p => slotOk p.2) then none
    else if b.hdr.cue ∧ (!onlyPhase ∨ b.hdr.spec ∨ b.hdr.pq ≠ 0) then none
    else some ins

/-- Two slots of a bundle write one register (R170). -/
def doubleWrite (ins : List (UnitId × Instr)) : Bool :=
  let ws := ins.flatMap fun p => instrWrites p.2
  decide (ws.eraseDups.length ≠ ws.length)

/-- A bundle must wait: a register that it reads or writes is not delivered, or the queue of a unit, of any unit, is full (R118, R170). -/
def issueWaits (k : Core) (ins : List (UnitId × Instr)) : Bool :=
  (ins.any fun p => (instrReads p.2 ++ instrWrites p.2).any fun r => k.pendingRegs.contains r) ||
    [UnitId.m, .t, .v, .d, .f, .c].any fun u => decide (8 ≤ (k.queue u).length)

/-- The core can issue: a scene runs on it and the C unit has finished (assumption 12). -/
def canIssue (s : State) (k : Core) : Bool :=
  s.live && !k.atCueWait && !k.stopped && k.uC.isEmpty && k.confirm.isNone && k.admitOp.isNone

/-- Address of bundle `pc` in the book area (R115, R150). -/
def bundleAddr (c : CoreId) (k : Core) (pc : Nat) : Nat := scrBase c + k.bookOff + 32 * pc

/-- FETCH_UNCORR (R173): the bundle does not issue, and the core stops. -/
def fetchUncorr (c : CoreId) (pc : Nat) (injected : Bool) (s : State) : State :=
  stopCore c (raise 9 (coreOrigin c pc 0xFF injected (s.core c).region.isSome) [] s)

/-- Open a region (R132, R135): the shadow, and the ordinal. -/
def openRegion (k : Core) : Core :=
  { k with
    region := some ⟨k.nextOrd, k.regs, k.cf, [], false, [], [], []⟩
    nextOrd := k.nextOrd + 1 }

/-- Give the slots of a bundle that issues at CYCLE `n` to their units (R118, R156). -/
def enqueueSlots (pc n : Nat) (ins : List (UnitId × Instr)) (k : Core) : Core :=
  ins.foldl (fun k p =>
    k.setQueue p.1 (k.queue p.1 ++ [⟨p.2, k.regs, pc, k.region.map (·.ord), k.issued, n⟩])) k

/-- A bundle's PHASE is stamped as it issues (R142). -/
def issueStamps (c : CoreId) (ins : List (UnitId × Instr)) (pass : Bool) (s : State) : State :=
  match ins.findSome? fun p => match p.2 with | .phase _ t => some t | _ => none with
  | some t => stampPhase c t.toNat (!pass) s
  | none => s

/-- The slots that go to a unit: a PHASE does not (R142). -/
def unitSlots (ins : List (UnitId × Instr)) : List (UnitId × Instr) := ins.filter fun p => match p.2 with | .phase .. => false | _ => true

/-- The core as a bundle at `pc` leaves it: its slots queued where its predicate holds, and the next bundle (R118, R119, R131). -/
def issueCore (hdr : Header) (pc slip now : Nat) (pass : Bool) (ins : List (UnitId × Instr)) (k : Core) : Core :=
  let k := if pass then enqueueSlots pc now ins k else k
  { k with
    pc := (nextPc k.loops pc).1, loops := (nextPc k.loops pc).2
    holdUntil := now + 1, compiled := k.compiled + 1, issued := k.issued + 1
    atCueWait := hdr.cue, slip := if hdr.cue then slip else k.slip }

/-- Issue one decoded bundle. -/
def issue (c : CoreId) (b : Bundle) (ins : List (UnitId × Instr)) (s : State) : State :=
  let k := s.core c
  let pass := (k.regs.qr b.hdr.pq).getLsbD 0 != b.hdr.pneg
  let s := issueStamps c ins pass (if b.hdr.spec then s.updCore c openRegion else s)
  s.updCore c (issueCore b.hdr k.pc (slipNow s k) s.cycle pass (unitSlots ins))

/-- The CYCLE at which a bundle issues: issue is not held, and the results that it reads are available (R119, R170). -/
def issueAt (k : Core) (b : Bundle) (ins : List (UnitId × Instr)) : Nat :=
  max k.holdUntil (k.readyAt (.q b.hdr.pq.toNat :: ins.flatMap fun p => sourceRegs p.2))

/-- BUNDLE_ISSUE (R118): the core's next bundle is fetched, checked, decoded and issued at the first cycle at which it may
issue; it waits where a register has not been written or a queue is full. -/
def execBundleIssue (c : CoreId) (s : State) : Out :=
  let k := s.core c
  if !canIssue s k then .next s
  else
    let a := bundleAddr c k k.pc
    if s.uncorr a 32 then .next (fetchUncorr c k.pc (s.uncorrInjected a 32) (advanceTo (s.cycleAt k.holdUntil) s))
    else
      let b := decodeBundle c (BitVec.ofNat 256 (s.le a 32))
      match bundleSlots b with
      | none => .fault .illegalEncoding
      | some ins =>
        if doubleWrite ins || (b.hdr.spec && k.region.isSome) then .fault .illegalEncoding
        else if k.pendingRegs.contains (.q b.hdr.pq.toNat) || issueWaits k ins then .next s
        else
          let s1 := advanceTo (s.cycleAt (issueAt k b ins)) s
          .next (issue c b ins (sramCorr c (s1.corrCount a 32) s1))

end Sys2Proof.Machine
end

