-- ==== Sys2Proof/Machine/LoadParse.lean ====
section
/-! DEFINITION. Prompt book images (R113, R114, R152, R264): reading their tables, and the checks that lie in no scene
program: IMAGE, VARIANT, AREA, LEVEL, the descriptor pool and the transfer table (R125). -/

namespace Sys2Proof.Machine

/-! ### The image -/

/-- The little-endian number in bytes `a` to `a + n - 1` of an image. -/
def imgAt (b : List Byte) (a n : Nat) : Nat := leNat ((b.drop a).take n)

/-- Bytes `a` to `e - 1` of an image are zero. -/
def imgZero (b : List Byte) (a e : Nat) : Bool := ((b.drop a).take (e - a)).all fun x => decide (x = 0)

/-- Offset of section `k` (R113). -/
def imgSect (b : List Byte) (k : Nat) : Nat := imgAt b (80 + 4 * k) 4
/-- PROGRAMS. -/
def imgProgs (b : List Byte) : Nat := imgAt b 14 2
/-- SEQ_LEN. -/
def imgSeqLen (b : List Byte) : Nat := imgAt b 16 4
/-- LAYERS. -/
def imgLayers (b : List Byte) : Nat := imgAt b 32 2
/-- PHASES. -/
def imgPhases (b : List Byte) : Nat := imgAt b 34 2
/-- IMAGE_SIZE. -/
def imgSize (b : List Byte) : Nat := imgAt b 36 4
/-- COUNT of the transfer table (R264). -/
def imgXfers (b : List Byte) : Nat := imgAt b (imgSect b 4) 4
/-- DESC_COUNT of the descriptor pool (R152). -/
def imgDescs (b : List Byte) : Nat := imgAt b (imgSect b 7) 4

/-- The magic of R113: SVTBOOK3. -/
def bookMagic : List Byte := [0x53, 0x56, 0x54, 0x42, 0x4F, 0x4F, 0x4B, 0x33]

/-- The 256-byte header is as R113 says, apart from VARIANT, GENERATION and the areas. -/
def bookHeaderOk (c : CoreId) (h : List Byte) : Bool :=
  decide (h.take 8 = bookMagic ∧ imgAt h 8 2 = 1 ∧ imgAt h 12 1 = c.val ∧ imgAt h 13 1 < 4) && imgZero h 112 256 &&
    decide (1 ≤ imgProgs h ∧ imgProgs h ≤ 1024 ∧ 1 ≤ imgSeqLen h ∧ imgSeqLen h ≤ 65536 ∧ 1 ≤ imgLayers h ∧
      imgLayers h ≤ 4096 ∧ imgPhases h ≤ 16384 ∧ imgSize h % 32 = 0 ∧ imgSect h 7 + 32 ≤ imgSize h) &&
    (List.range 8).all (fun k => decide (imgSect h k % 64 = 0 ∧ 256 ≤ imgSect h k ∧ (k = 0 ∨ imgSect h (k - 1) ≤ imgSect h k)))

/-- What each of the first seven sections holds, in bytes (R113). -/
def sectNeed (b : List Byte) (k : Nat) : Nat :=
  match k with
  | 0 => 16 * imgProgs b
  | 1 => 4 * imgSeqLen b
  | 2 => 4 * imgLayers b
  | 3 => 4 * imgPhases b
  | 4 => 64 + 64 * imgXfers b
  | _ => 0

/-- Every section spans its contents and fewer than 64 bytes of zero padding (R113). -/
def spansOk (b : List Byte) : Bool :=
  (List.range 7).all fun k =>
    let a := imgSect b k
    let e := imgSect b (k + 1)
    decide (a + sectNeed b k ≤ e ∧ e < a + sectNeed b k + 64) && imgZero b (a + sectNeed b k) e

/-- End of the descriptor pool in the code section (R152). -/
def poolEnd (b : List Byte) : Nat := 32 + 64 * imgDescs b

/-- The tables hold only what R113, R114, R152 and R264 allow in them. -/
def tablesOk (b : List Byte) : Bool :=
  let code := imgSect b 7
  decide (imgXfers b ≤ 4096) && imgZero b (imgSect b 4 + 4) (imgSect b 4 + 64) &&
    decide (imgDescs b ≤ 1024 ∧ code + poolEnd b ≤ imgSize b) && imgZero b (code + 4) (code + 32) &&
    (List.range (imgProgs b)).all (fun i =>
      let a := imgSect b 0 + 16 * i
      decide (imgAt b a 4 % 32 = 0 ∧ poolEnd b ≤ imgAt b a 4 ∧ code + imgAt b a 4 + 32 * imgAt b (a + 4) 4 ≤ imgSize b ∧
        imgAt b (a + 12) 4 = 0)) &&
    (List.range (imgSeqLen b)).all (fun i =>
      let e := imgAt b (imgSect b 1 + 4 * i) 4
      decide (e < 2 ^ 17 ∧ (e % 2 ^ 16 < imgProgs b ∨ e % 2 ^ 16 = 0xFFFF))) &&
    (List.range (imgLayers b)).all (fun i => decide (imgAt b (imgSect b 2 + 4 * i + 3) 1 = 0)) &&
    (List.range (imgPhases b)).all (fun i => decide (imgAt b (imgSect b 3 + 4 * i + 2) 2 = 0))

/-- A transfer table entry from its 64 bytes (R264). -/
def XferEntry.decode (e : List Byte) : XferEntry :=
  { kind := imgAt e 0 1, hops := imgAt e 1 1, dest := imgAt e 2 2, dtype := imgAt e 4 1, dcore := imgAt e 5 1, res := imgAt e 6 2
    bytes := imgAt e 8 4, anchor := imgAt e 12 4, route := BitVec.ofNat 144 (imgAt e 16 18), linkDie := imgAt e 34 1
    peer := imgAt e 36 2, peerCore := imgAt e 38 1, region := imgAt e 40 2, xdata := (e.drop 42).take 22 }

/-- Bytes of transfer table entry `i`. -/
def imgXfer (b : List Byte) (i : Nat) : List Byte := (b.drop (imgSect b 4 + 64 + 64 * i)).take 64

/-- The bundles of a program of `n` bundles at offset `off` of the code section. -/
def progBundles (c : CoreId) (code : List Byte) (off n : Nat) : List Bundle :=
  (List.range n).map fun i => decodeBundle c (BitVec.ofNat 256 (imgAt code (off + 32 * i) 32))

/-- The instructions in the slots of a bundle that decode to one. -/
def bundleInstrs (b : Bundle) : List (UnitId × Instr) :=
  [(UnitId.m, b.m), (.t, b.t), (.v, b.v), (.d, b.d), (.f, b.f), (.c, b.c)].filterMap fun p =>
    match p.2 with
    | .ins i => some (p.1, i)
    | _ => none

/-- The transfer table entry that an F-slot or C-slot instruction names, with the kind it needs (R166). -/
def xferUse : Instr → Option (Nat × Nat)
  | .send _ x _ => some (x.toNat, 1)
  | .recv _ x _ => some (x.toNat, 2)
  | .gather _ x _ => some (x.toNat, 3)
  | .xred _ x _ => some (x.toNat, 4)
  | .admitRegion _ _ x => some (x.toNat, 5)
  | _ => none

/-- An image as the loader works with it: the book, its code section, its pool and the bundles of its programs. -/
structure LBook where
  core : CoreId
  image : List Byte
  book : Book
  code : List Byte
  pool : List (BitVec 512)
  progs : List (List Bundle)

/-- Read the tables of an image whose header, spans and tables are right. -/
def LBook.ofImage (c : CoreId) (b : List Byte) : LBook :=
  let code := b.drop (imgSect b 7)
  let progs := (List.range (imgProgs b)).map fun i =>
    let a := imgSect b 0 + 16 * i
    (progBundles c code (imgAt b a 4) (imgAt b (a + 4) 4), imgAt b a 4, imgAt b (a + 4) 4, imgAt b (a + 8) 4)
  { core := c
    image := b
    code := code
    pool := (List.range (imgDescs b)).map fun i => BitVec.ofNat 512 (imgAt code (32 + 64 * i) 64)
    progs := progs.map fun p => p.1
    book :=
      { setId := imgAt b 40 8, digest := (b.drop 48).take 32, usesSpec := (imgAt b 13 1).testBit 0, bookSize := imgAt b 20 4
        wingsBase := imgAt b 24 4, wingsSize := imgAt b 28 4
        progs := progs.map fun p =>
          { off := p.2.1, count := p.2.2.1, w := p.2.2.2
            uses := (p.1.flatMap fun u => (bundleInstrs u).filterMap fun i => (xferUse i.2).map (·.1)).eraseDups }
        seq := (List.range (imgSeqLen b)).map fun i =>
          let e := imgAt b (imgSect b 1 + 4 * i) 4
          (e % 2 ^ 16, e.testBit 16)
        layers := (List.range (imgLayers b)).map fun i =>
          let a := imgSect b 2 + 4 * i
          (imgAt b a 2, imgAt b (a + 2) 1)
        phases := (List.range (imgPhases b)).map fun i => imgAt b (imgSect b 3 + 4 * i) 2
        xfers := (List.range (imgXfers b)).map fun i => XferEntry.decode (imgXfer b i)
        descs := imgDescs b } }

/-! ### Descriptors (R152 to R157, R188, R221) -/

/-- Codes for a static range that an M-slot or T-slot instruction would reach (R115, R219, R221). -/
def rangeCodes (c : CoreId) (bookSize : Nat) (r : Nat × Nat) : List Nat :=
  if scrBase c ≤ r.1 ∧ r.1 + r.2 ≤ scrBase c + scrSize then
    if r.1 + r.2 ≤ scrBase c + scrSize - bookSize then [] else [0x0E]
  else [0x04]

/-- Every field that the role does not use is zero (R154). -/
def Desc.unusedZero (d : Desc) : Bool :=
  match d.role.toNat with
  | 0 => decide (d.cols = 0 ∧ !d.acc ∧ !d.frzMode ∧ d.f = 0 ∧ d.row0 = 0 ∧ d.col0 = 0 ∧ d.freeze = 0)
  | 1 => decide (d.fmt = 0 ∧ !d.bdim ∧ d.klen = 0 ∧ d.xaddr.toNat < 512 ∧ d.stride = 0 ∧ d.xstride = 0 ∧ d.scale = 0 ∧
      d.k0 = 0)
  | 2 => decide (!d.acc ∧ !d.frzMode ∧ d.klen = 0 ∧ d.tag = 0 ∧ d.f = 0 ∧ d.scale = 0 ∧ d.row0 = 0 ∧ d.col0 = 0 ∧
      d.k0 = 0 ∧ d.freeze = 0)
  | _ => false

/-- Alignment and line rules of R155 for an operand or a destination. -/
def Desc.layoutOk (d : Desc) : Bool :=
  match fmtElem d.fmt with
  | none => false
  | some el =>
    let line := if d.isOperand then (if d.bdim then d.nRows else d.kLen) else d.nCols
    decide (d.addr.toNat % 32 = 0 ∧ d.xaddr.toNat % 32 = 0 ∧ d.stride.toNat % 32 = 0 ∧ d.xstride.toNat % 32 = 0 ∧
      lineBytes el line ≤ d.stride.toNat ∧ (d.isOperand → fmtBlock d.fmt = 0 → d.xaddr = 0 ∧ d.xstride = 0))

/-- Freeze bits at or above the tile's rows, or its row blocks, are zero (R153, R188). -/
def Desc.freezeOk (d : Desc) : Bool := decide (d.freeze.toNat / 2 ^ (if d.frzMode then d.nRows / 16 else d.nRows) = 0)

/-- What is wrong with one 64-byte pool descriptor. -/
def descCodes (c : CoreId) (bookSize : Nat) (b : BitVec 512) : List Nat :=
  let d := Desc.decode b
  if d.encode ≠ b ∨ !d.unusedZero ∨ !d.inRange then [0x04]
  else if d.isAcc then
    (if d.addr.toNat % 32 = 0 ∧ d.freezeOk then [] else [0x04]) ++
      (if d.acc ∧ ¬(-300 ≤ d.floor ∧ d.floor ≤ 180) then [0x09] else []) ++
      rangeCodes c bookSize (d.addr.toNat, d.spillBytes)
  else if d.layoutOk then
    (if d.isOperand then d.operandRanges d.bdim else d.dstRanges).flatMap (rangeCodes c bookSize)
  else [0x04]

/-! ### The transfer table (R264, R277, R279, R281) -/

/-- A reserved bit or byte of an entry is not zero. -/
def xferReserved (b : List Byte) (e : XferEntry) : Bool :=
  decide (16 ≤ e.dtype ∨ 1024 ≤ e.res ∨ imgAt b 35 1 ≠ 0 ∨ imgAt b 39 1 ≠ 0 ∨ (e.kind ≠ 5 ∧ e.region ≠ 0)) ||
    (match e.kind with
    | 3 => decide (1024 ≤ e.xd 0 2 ∨ 2 ^ 15 ≤ e.xd 2 2)
    | 4 => decide (1024 ≤ e.xd 10 2 ∨ e.xd 20 2 ≠ 0)
    | _ => decide (e.xd 0 22 ≠ 0))

/-- An entry holds a value that R264 or R277 does not give. -/
def xferIllegal (e : XferEntry) : Bool :=
  !decide (1 ≤ e.kind ∧ e.kind ≤ 5 ∧ (e.dcore < 96 ∨ e.dcore = 0x7F)) ||
    (decide (e.kind ≠ 5) && !decide (e.bytes % 64 = 0 ∧ 64 ≤ e.bytes ∧ e.bytes ≤ 2 ^ 26)) ||
    (decide (e.kind = 2 ∨ e.kind = 5) && decide (e.hops ≠ 0)) ||
    (decide (e.kind = 4) && !decide (1 ≤ e.outCount ∧ e.outCount ≤ 16384 ∧ e.inCount ≤ 16384 ∧ e.inStreams ≤ 15 ∧
      (e.inStreams = 0 ↔ e.inCount = 0) ∧ 1 ≤ e.xd 9 1 ∧ e.xd 9 1 ≤ 10))

/-- A route breaks the turn rules (R251). -/
def routeBroken (r : BitVec 144) (hops : Nat) : Bool := !routeRule1 r hops 24 || (routeRules r hops).isSome

/-- Payload bytes that the budget of R279 asks for `n` elements of `limbs` limbs. -/
def xpBudget (n limbs : Nat) : Nat := 4096 * ((n + 4088 / (1 + 8 * limbs) - 1) / (4088 / (1 + 8 * limbs)))

/-- What is wrong with one transfer table entry. -/
def xferCodes (s : State) (b : List Byte) : List Nat :=
  let e := XferEntry.decode b
  (if xferReserved b e then [0x01] else []) ++ (if xferIllegal e then [0x04] else []) ++
    (if decide (s.linkDies ≤ e.linkDie) || xferBroken s e ||
        (decide (e.kind = 1 ∨ e.kind = 3 ∨ e.kind = 4) && routeBroken e.route e.hops) ||
        (decide (e.kind = 3) && routeBroken e.replyRoute e.replyHops) ||
        (decide (e.kind = 4) && decide (e.bytes < xpBudget e.outCount (e.xd 9 1) ∨
          e.inBytes < e.inStreams * xpBudget e.inCount (e.xd 9 1)))
      then [0x0B] else [])

/-! ### Checks of one image -/

/-- The book and wings areas break R113 or R115, or the code is larger than the book area. -/
def areaBroken (lb : LBook) : Bool :=
  let k := lb.book
  decide (k.bookSize % 0x40000 ≠ 0 ∨ k.bookSize < 0x40000 ∨ 0x200000 < k.bookSize ∨ k.wingsBase % 0x10000 ≠ 0 ∨
    k.wingsSize % 0x10000 ≠ 0 ∨ 0x800000 < k.wingsSize ∨ scrSize < k.bookSize + k.wingsBase + k.wingsSize ∨
    k.bookSize < lb.code.length)

/-- The layer table breaks R73. -/
def layersBroken (s : State) (ls : List (Nat × Nat)) : Bool :=
  ls.any fun l => decide (l.2 = 0 ∨ 3 < l.2 ∨ s.fld Fld.CFG_NC_CAP < l.2) || ls.any fun m => decide (m.1 = l.1 ∧ m.2 ≠ l.2)

/-- The header words of every bundle of the code section, whether or not a program covers it (R113). -/
def codeHeaders (lb : LBook) : List Nat :=
  (List.range ((lb.code.length - poolEnd lb.image) / 32)).map fun i => imgAt lb.code (poolEnd lb.image + 32 * i) 2

/-- FLAGS as the contents of the book require them (R113). Bit 4 of a header is the speculation mark (R149). -/
def flagsWanted (lb : LBook) : Nat :=
  b2n ((codeHeaders lb).any fun h => h.testBit 4) +
    2 * b2n (lb.pool.any fun b => (Desc.decode b).isAcc && (Desc.decode b).acc)

/-- The failures of an image that lie in no scene program, once its tables can be read. -/
def bookCodes (s : State) (lb : LBook) : List Nat :=
  (if imgAt lb.image 10 1 ≠ 3 ∨ imgAt lb.image 11 1 ≠ s.fld Fld.CFG_ASSEMBLY_VARIANT then [0x02] else []) ++
    (if areaBroken lb then [0x0E] else []) ++ (if layersBroken s lb.book.layers then [0x03] else []) ++
    (if imgAt lb.image 13 1 ≠ flagsWanted lb then [0x01] else []) ++
    lb.pool.flatMap (descCodes lb.core lb.book.bookSize) ++
    (List.range (imgXfers lb.image)).flatMap (fun i => xferCodes s (imgXfer lb.image i))

/-- An image read whole: its digest is that of its header, and its tables can be read (R113, R125). -/
def imageOk (b : List Byte) : Bool := decide (sha256 (b.drop 256) = (b.drop 48).take 32) && spansOk b && tablesOk b

end Sys2Proof.Machine
end

