-- ==== Sys2Proof/Machine/LoadWalk.lean ====
section
/-! DEFINITION. The loader's replay of scene programs (R119 to R121, R125, R132, R142, R158 to R172, R428): checks of single
bundles, of control flow and W, and of every path from every state in which a program can start. -/

namespace Sys2Proof.Machine

/-! ### Checks of single bundles -/

/-- What the loader's checks of one book rest on. -/
structure LCx where
  lb : LBook
  spec : Bool
  pool : List Desc

/-- A bundle's STASH encodings by plan (R165). -/
def stashUses (b : Bundle) : List (Nat × BitVec 2 × Bool) :=
  (bundleInstrs b).filterMap fun i => match i.2 with
    | .stash _ _ enc ff _ plan => some (plan.toNat, enc, ff)
    | _ => none

/-- The failures of one instruction that need no path (R142, R165, R166, R172, R177). -/
def instrCodes (cx : LCx) : Instr → List Nat
  | .tld _ _ idx => if idx.toNat < cx.pool.length then [] else [0x04]
  | .phase _ tag => if tag.toNat < cx.lb.book.phases.length then [] else [0x0F]
  | .stash _ _ _ _ _ plan => if plan.toNat < cx.lb.book.layers.length then [] else [0x04]
  | .unstash _ _ enc ff plan =>
    if plan.toNat < cx.lb.book.layers.length ∧
        (cx.lb.progs.all fun p => p.all fun u => (stashUses u).all fun e => decide (e.1 = plan.toNat → e.2 = (enc, ff)))
    then [] else [0x04]
  | _ => []

/-- The failures of one bundle that need no path (R120, R132, R142, R147, R166, R170 to R172). -/
def bundleCodes (cx : LCx) (b : Bundle) : List Nat :=
  let ins := bundleInstrs b
  let bad := [b.m, b.t, b.v, b.d, b.f, b.c].any fun w => decide (w = .bad)
  let hasPhase := ins.any fun p => match p.2 with | .phase .. => true | _ => false
  let onlyPhase := ins.all fun p => match p.2 with | .phase .. => true | _ => false
  (if bad || decide (b.hdr.rsv ≠ 0) || (b.hdr.pneg && decide (b.hdr.pq = 0)) || (ins.any fun p => !p.2.wellFormed) || doubleWrite ins ||
      (b.hdr.cue && (b.hdr.spec || bad || !onlyPhase)) then [0x04] else []) ++
    (if b.hdr.cue && (decide (b.hdr.pq ≠ 0) || b.hdr.pneg) then [0x06] else []) ++
    (if b.hdr.phase != hasPhase then [0x0F] else []) ++
    (if b.hdr.spec && (!cx.spec || decide (cx.lb.book.wingsSize = 0)) then [0x0C] else []) ++
    (ins.flatMap fun p => instrCodes cx p.2) ++
    (ins.flatMap fun p => match xferUse p.2 with
      | some (x, k) => if (cx.lb.book.xfers[x]?.map (·.kind)) = some k then [] else [0x0B]
      | none => [])

/-- The RES of an entry that reserves one (R264). -/
def xferRes (e : XferEntry) : Option Nat := if e.kind = 5 then none else some (e.res % 1024)

/-- Two entries of a program name one RES, or the RES_IN of one is the RES of the other (R264, R279). -/
def resMeet (e f : XferEntry) : Bool :=
  let resIn (x : XferEntry) : Option Nat := if x.kind = 4 ∧ 0 < x.inCount then some x.resIn else none
  let same (a b : Option Nat) : Bool := a.isSome && decide (a = b)
  same (xferRes e) (xferRes f) || same (resIn e) (xferRes f) || same (xferRes e) (resIn f)

/-- Bundles that name an entry whose reservations meet those of an entry of an earlier bundle, or of another of the same bundle. -/
def resClashes (xs : List XferEntry) (bs : List Bundle) : List Nat :=
  let uses := bs.zipIdx.flatMap fun b => (bundleInstrs b.1).filterMap fun i => (xferUse i.2).map fun u => (b.2, u.1)
  (uses.filter fun u => uses.any fun v => decide (v.1 ≤ u.1 ∧ v.2 ≠ u.2) &&
    (match xs[u.2]?, xs[v.2]? with
      | some e, some f => resMeet e f
      | _, _ => false)).map fun u => u.1

/-! ### Control flow (R119 to R121, R169) -/

/-- The LOOP in a bundle: repetitions after the first, and bundles of the body after the first. -/
def loopOf (b : Bundle) : Option (Nat × Nat) :=
  match b.c with
  | .ins (.loop _ n len) => some (n.toNat, len.toNat)
  | _ => none

/-- The JMP in a bundle: its Q, NEG and OFF. -/
def jmpOf (b : Bundle) : Option (BitVec 3 × Bool × Nat) :=
  match b.c with
  | .ins (.jmp _ q neg off) => some (q, neg, off.toNat)
  | _ => none

/-- The loop bodies of a program: first and last bundle. -/
def loopBodies (bs : List Bundle) : List (Nat × Nat) :=
  bs.zipIdx.filterMap fun b => (loopOf b.1).map fun l => (b.2 + 1, b.2 + 1 + l.2)

/-- The bodies that hold a bundle. -/
def bodiesAt (bodies : List (Nat × Nat)) (i : Nat) : List (Nat × Nat) := bodies.filter fun l => decide (l.1 ≤ i ∧ i ≤ l.2)

/-- Bundles that break the rules of control flow. A missing, early or repeated cue-wait bundle is laid to the last bundle. -/
def controlFaults (bs : List Bundle) : List Nat :=
  let n := bs.length
  let bodies := loopBodies bs
  (if (bs.zipIdx.filter fun b => b.1.hdr.cue).map (·.2) = [n - 1] then [] else [n - 1]) ++
    (bs.zipIdx.filter fun b =>
      (match loopOf b.1 with
        | some l =>
          let last := b.2 + 1 + l.2
          decide (n - 1 ≤ last) || decide (4 ≤ (bodiesAt bodies b.2).length) ||
            (bodiesAt bodies b.2).any fun o => decide (o.2 < last)
        | none => false) ||
      (match jmpOf b.1 with
        | some (_, _, off) => decide (off = 0 ∨ n ≤ b.2 + off ∨ bodiesAt bodies (b.2 + off) ≠ bodiesAt bodies b.2)
        | none => false)).map fun b => b.2

/-- Issue cycles of the costliest path from bundle `i` to bundle `e` within one body (R119, R120). -/
def pathCost (bs : List Bundle) : Nat → Nat → Nat → Nat
  | 0, _, _ => 0
  | fuel + 1, i, e =>
    if e ≤ i then 0
    else match bs[i]? with
      | none => 0
      | some b =>
        let always := decide (b.hdr.pq = 0)
        match b.c with
        | .ins (.loop _ n len) =>
          let end_ := i + 2 + len.toNat
          1 + (n.toNat + 1) * pathCost bs fuel (i + 1) end_ + pathCost bs fuel end_ e
        | .ins (.wait _ n) => n.toNat + 2 + pathCost bs fuel (i + 1) e
        | .ins (.jmp _ q neg off) =>
          let stay := if always && decide (q = 0) && !neg then 0 else 1 + pathCost bs fuel (i + 1) e
          let go := if decide (q = 0) && neg then 0 else 2 + pathCost bs fuel (i + off.toNat) e
          max stay go
        | _ => 1 + pathCost bs fuel (i + 1) e

/-- W of a program whose control flow is legal (R120). -/
def programW (bs : List Bundle) : Nat := pathCost bs (bs.length + 1) 0 (bs.length - 1)

/-! ### What the loader follows along a path (R428) -/

/-- A tile in progress as the loader follows it: its store, format, floor and mask, whether it has been neither drained nor
spilled since its last add, the MMAs of its pass with the ranges they read, the ranges that other instructions have written since its
fill point (R102), the region that started it, the cycle at which its fence is open, the cycle at which a FILL has loaded it, and the
ranges of its XREDs. -/
structure LTile where
  granule : Nat
  n : Nat
  c160 : Bool
  f : Int
  frz : Bool × BitVec 128
  opn : Bool := true
  mmas : Nat := 0
  reads : List (Nat × Nat) := []
  writes : List (Nat × Nat) := []
  region : Option Nat := none
  free : Nat := 0
  usable : Nat := 0
  xred : List (Nat × Nat) := []
  deriving DecidableEq, Repr

/-- A t register as the loader follows it: the pool descriptor, and whether a TADJ has moved its address. -/
abbrev LDesc := Option (Nat × Bool)

/-- What the loader follows: place, cycle, loops, t registers, the cycles at which registers are ready, tiles, spilled
images by address, the mesh, the drain port, the cycle until which a DRAIN or SPILL holds the T unit at the fence with the instructions
queued behind it, the open region with the registers at its opening, regions opened, the
sequence slot, transfers used, speculative sends of the region (destination, core, reservation) and POSADDs (slot, bundle). -/
structure LState where
  pc : Nat := 0
  cyc : Nat := 0
  loops : List LoopFrame := []
  t : List LDesc := List.replicate 16 none
  ready : List (RegName × Nat) := []
  tiles : List LTile := []
  spilled : List (Nat × Bool × Int × Bool × BitVec 128) := []
  mesh : Nat := 0
  port : Nat := 0
  hold : Nat := 0
  behind : Nat := 0
  region : Option (Nat × List LDesc × Nat) := none
  nreg : Nat := 0
  slot : Nat := 0
  used : List Nat := []
  sends : List (Nat × Nat × Nat) := []
  adds : List (Nat × Nat) := []
  deriving DecidableEq, Repr

/-- The state in which the next program starts from the state at a cue-wait bundle: the t registers, and the tiles in progress with their
store, format, floor and mask (R124, R428); whether a tile is drained (R97), and the sequence slot (R145). -/
def LState.carry (st : LState) : LState :=
  { t := st.t, slot := st.slot
    tiles := st.tiles.map fun t =>
      { granule := t.granule, n := t.n, c160 := t.c160, f := t.f, frz := t.frz, opn := t.opn } }

/-- The descriptor in a t register, and whether its address is still that of the pool. -/
def LState.desc (cx : LCx) (st : LState) (t : BitVec 4) : Option (Desc × Bool) :=
  match st.t.getD t.toNat none with
  | some (i, moved) => cx.pool[i]?.map fun d => (d, moved)
  | none => none

/-- The tile at a base granule. -/
def LState.tile (st : LState) (g : Nat) : Option LTile := st.tiles.find? fun t => decide (t.granule = g)

/-- Change the tile at a base granule. -/
def LState.updTile (st : LState) (g : Nat) (f : LTile → LTile) : LState :=
  { st with tiles := st.tiles.map fun t => if t.granule = g then f t else t }

/-- Take the tile at a base granule away. -/
def LState.dropTile (st : LState) (g : Nat) : LState := { st with tiles := st.tiles.filter fun t => decide (t.granule ≠ g) }

/-- Ordinal of the open region. -/
def LState.ord (st : LState) : Option Nat := st.region.map (·.1)

/-- Freeze mask of an accumulator with its mode (R188). -/
def Desc.mask (d : Desc) : Bool × BitVec 128 := (d.frzMode, d.freeze)

/-- A descriptor agrees with a tile in format and, for C160, in f (R97). -/
def LTile.agrees (t : LTile) (d : Desc) : Bool := decide (t.c160 = d.acc ∧ (d.acc → t.f = d.floor))

/-- Start a tile where the stores have room (R95). -/
def LState.place (st : LState) (d : Desc) (region : Option Nat) : Option LState :=
  let rest := st.tiles.filter fun t => decide (t.granule ≠ d.granule)
  let n := granulesOf d.acc d.nRows d.nCols
  if 64 ≤ rest.length ∨ 512 < d.granule + n ∨ 512 < (rest.map (·.n)).sum + n ∨
      (rest.any fun t => overlaps (t.granule, t.n) (d.granule, n)) then none
  else some { st with
    tiles := { granule := d.granule, n := n, c160 := d.acc, f := d.floor, frz := d.mask, region := region : LTile } :: rest }

/-- Open or continue an accumulation (R95, R97, R98, R102, R189, R279); none where code 0x09 applies. -/
def LState.accumulate (st : LState) (d : Desc) (ovw mma : Bool) (reads : List (Nat × Nat)) : Option LState :=
  let st' : Option LState :=
    match st.tile d.granule with
    | none => if ovw then st.place d st.ord else none
    | some t =>
      if !t.xred.isEmpty then none
      else if ovw then if t.opn then none else st.place d st.ord
      else if t.agrees d && decide (t.usable ≤ st.cyc) && (!mma || decide (t.frz = d.mask)) &&
          (!mma || st.region.isNone || decide (t.region = st.ord)) then some st
      else none
  match st' with
  | none => none
  | some s =>
    let s := s.updTile d.granule fun t =>
      { t with opn := true, mmas := t.mmas + b2n mma, reads := if d.acc && mma then t.reads ++ reads else t.reads }
    if s.tiles.any fun t => decide (t.granule = d.granule) && t.c160 &&
        (decide (64 < t.mmas) || reads.any fun r => t.writes.any (overlaps r)) then none else some s

/-! ### Levels (R73) -/

/-- Codes where a layer's level does not allow what an instruction needs, or no layer has the accumulator's TAG. -/
def levelCodes (cx : LCx) (acc : Desc) (need : Nat) : List Nat :=
  match cx.lb.book.layers.find? fun l => decide (l.1 = acc.tag.toNat) with
  | some l => if max need (if acc.acc then 2 else 1) ≤ l.2 then [] else [0x03]
  | none => [0x03]

/-! ### One instruction on a path: the codes it breaks, and the state after it where it breaks none -/

/-- An instruction's outcome on a path. -/
abbrev LOut := List Nat × LState

/-- MMA and MMAT (R73, R86, R97, R98, R102, R125, R158). -/
def loadMma (cx : LCx) (st : LState) (acc a b : BitVec 4) (ovw : Bool) (ts : Option Bool) : LOut :=
  match st.desc cx acc, st.desc cx a, st.desc cx b with
  | some (d, _), some (x, mx), some (y, my) =>
    let shape := d.isAcc && x.isOperand && y.isOperand && decide (x.rows = d.rows ∧ y.rows = d.cols ∧ x.klen = y.klen) &&
      decide (x.bdim = decide (ts = some false) ∧ y.bdim = decide (ts = some true))
    let wide := decide (x.fmt.toNat ≤ 1 ∨ y.fmt.toNat ≤ 1)
    let codes := (if shape then [] else [0x04]) ++
      (if d.isAcc && x.isOperand && y.isOperand then
        levelCodes cx d (max (fmtLevel x.fmt) (fmtLevel y.fmt)) ++ (if d.acc && wide then [0x09] else [])
      else [])
    if codes ≠ [] then (codes, st)
    else if st.cyc < st.mesh then ([0x08], st)
    else
      let reads := (if mx then [] else x.operandRanges x.bdim) ++ (if my then [] else y.operandRanges y.bdim)
      match st.accumulate d ovw true reads with
      | none => ([0x09], st)
      | some s =>
        ([], { s.updTile d.granule fun t => { t with free := max t.free (lastPartial d x y st.cyc) } with
          mesh := st.cyc + meshCycles d x y })
  | some (d, _), x, y =>
    let need (o : Option (Desc × Bool)) : Nat := match o with | some (x, _) => if x.isOperand then fmtLevel x.fmt else 1 | none => 1
    (0x04 :: (if d.isAcc then levelCodes cx d (max (need x) (need y)) else []), st)
  | none, _, _ => ([0x04], st)

/-- A write of static ranges meets a range that the recorded MMAs of a C160 tile read (R102). -/
def LState.spoils (st : LState) (but : Option Nat) (rs : List (Nat × Nat)) : Bool :=
  st.tiles.any fun t => t.c160 && decide (some t.granule ≠ but) && t.reads.any fun r => rs.any fun w => overlaps r w

/-- Static ranges are written: the C160 tiles whose pass is open note them (R102). -/
def LState.wrote (st : LState) (but : Option Nat) (rs : List (Nat × Nat)) : LState :=
  { st with tiles := st.tiles.map fun t => if t.c160 && decide (some t.granule ≠ but) then { t with writes := rs ++ t.writes } else t }

/-- The cycle at which the T unit starts an instruction that issues now: behind a DRAIN or SPILL it waits for the fence (R107, R118). -/
def LState.tStart (st : LState) : Nat := max st.cyc st.hold

/-- The drain fence of R107: the release cycle of a DRAIN or SPILL that issues now. -/
def LState.release (st : LState) (t : Option LTile) : Nat := match t with | some t => max st.tStart t.free | none => st.tStart

/-- A DRAIN or SPILL holds the T unit until its release. -/
def LState.holdT (st : LState) (rel : Nat) : LState := if st.cyc < rel then { st with hold := rel } else st

/-- A T-slot instruction queues behind one that waits at the fence: the eighth would fill the queue with no slip (R118, R125). -/
def queueT (st : LState) : LOut :=
  if st.cyc < st.hold then (if 7 ≤ st.behind then [0x08] else [], { st with behind := st.behind + 1 })
  else ([], { st with behind := 0 })

/-- The lines that a DRAIN writes in one cycle, from element `i`: `rho` elements in row-major order (R107, R155). -/
def drainLines (d : Desc) (w rho i : Nat) : List Nat :=
  ((List.range rho).map fun k =>
    (d.addr.toNat + (i + k) / d.nCols * d.stride.toNat + (i + k) % d.nCols * w / 8) / 64).eraseDups

/-- Two lines that a DRAIN writes in one cycle lie in one bank of the scratchpad (R107, R222). -/
def drainBanks (d : Desc) (rho : Nat) : Bool :=
  match fmtElem d.fmt with
  | none => false
  | some el => (List.range ((d.nRows * d.nCols + rho - 1) / rho)).any fun c =>
    let ls := (drainLines d el.width rho (c * rho)).map fun l => bankOf (64 * l)
    decide (ls.eraseDups.length ≠ ls.length)

/-- DRAIN (R73, R97, R102, R160). -/
def loadDrain (cx : LCx) (st : LState) (acc dst sa sb fmt : BitVec 4) (scl keep : Bool) : LOut :=
  match st.desc cx acc with
  | none => ([0x04], st)
  | some (d, _) =>
    let t := st.tile d.granule
    let rel := st.release t
    let scaled := !scl || ((st.desc cx sa).isSome && (st.desc cx sb).isSome)
    let dd := st.desc cx dst
    let shape := d.isAcc && scaled && (match dd with
      | some (y, _) => y.isDst && decide (y.rows = d.rows ∧ y.cols = d.cols ∧ y.fmt = fmt)
      | none => false)
    let writes := match dd with | some (y, false) => y.dstRanges | _ => []
    let but := if keep then none else some d.granule
    let rho := if d.acc then 256 else 128
    let codes := (if shape then [] else [0x04]) ++ (if d.isAcc then levelCodes cx d (fmtLevel fmt) else []) ++
      (if d.isAcc && !((t.map fun t => t.agrees d).getD false) then [0x09] else []) ++
      (if rel < st.port ∨ st.spoils but writes then [0x09] else []) ++
      (if shape && (match dd with | some (y, false) => drainBanks y rho | _ => false) then [0x07] else [])
    let n := d.nRows * d.nCols
    if codes ≠ [] then (codes, st)
    else
      let s := if keep then st.updTile d.granule fun t => { t with opn := false, xred := [] } else st.dropTile d.granule
      ([], { (s.wrote but writes).holdT rel with port := rel + (n + (if d.acc then 255 else 127)) / (if d.acc then 256 else 128) + 2 })

/-- Cycles that a SPILL or FILL occupies the drain port (R160). -/
def imageCycles (d : Desc) : Nat := (d.nRows * d.nCols * (if d.acc then 32 else 96) + 511) / 512

/-- The spill area lies in the wings area (R101), where its address is static. -/
def spillInWings (cx : LCx) (d : Desc) (moved : Bool) : Bool :=
  let b := scrBase cx.lb.core + cx.lb.book.wingsBase
  moved || decide (b ≤ d.addr.toNat ∧ d.addr.toNat + d.spillBytes ≤ b + cx.lb.book.wingsSize)

/-- SPILL (R73, R97, R101, R102, R160). -/
def loadSpill (cx : LCx) (st : LState) (acc : BitVec 4) : LOut :=
  match st.desc cx acc with
  | none => ([0x04], st)
  | some (d, moved) =>
    if !d.isAcc then ([0x04], st)
    else
      let t := st.tile d.granule
      let rel := st.release t
      let codes := levelCodes cx d 1 ++ (if !((t.map fun t => t.agrees d).getD false) || decide (rel < st.port) ||
          (st.region.isSome && !spillInWings cx d moved) ||
          st.spoils (some d.granule) (if moved then [] else [(d.addr.toNat, d.spillBytes)]) then [0x09] else [])
      if codes ≠ [] then (codes, st)
      else
        let mask := (t.map (·.frz)).getD d.mask
        ([], { ((st.dropTile d.granule).wrote none (if moved then [] else [(d.addr.toNat, d.spillBytes)])).holdT rel with
          port := rel + imageCycles d
          spilled := if moved then st.spilled
            else (d.addr.toNat, d.acc, d.floor, mask) :: st.spilled.filter fun e => decide (e.1 ≠ d.addr.toNat) })

/-- FILL (R73, R95, R97, R101, R160, R189). -/
def loadFill (cx : LCx) (st : LState) (acc : BitVec 4) : LOut :=
  match st.desc cx acc with
  | none => ([0x04], st)
  | some (d, moved) =>
    if !d.isAcc then ([0x04], st)
    else
      let old := if moved then none else st.spilled.find? fun e => decide (e.1 = d.addr.toNat)
      let differs := match old with
        | some (_, c160, f, mask) => !decide (c160 = d.acc ∧ (d.acc → f = d.floor) ∧ mask = d.mask)
        | none => false
      let codes := levelCodes cx d 1 ++ (if (st.tile d.granule).isSome || decide (st.tStart < st.port) || differs ||
          (st.region.isSome && !spillInWings cx d moved) then [0x09] else [])
      if codes ≠ [] then (codes, st)
      else match st.place d none with
        | none => ([0x09], st)
        | some s =>
          let e := st.tStart + imageCycles d
          ([], { s.updTile d.granule fun t => { t with usable := e, free := e } with port := e })

/-- VXSUM and VXACC (R73, R97, R161): ROW and the first column within the tile, and an F640 tile. -/
def loadVx (cx : LCx) (st : LState) (acc : BitVec 4) (ovw : Bool) (row col : Nat) : LOut :=
  match st.desc cx acc with
  | none => ([0x04], st)
  | some (d, _) =>
    if !d.isAcc then ([0x04], st)
    else
      let codes := levelCodes cx d 1 ++ (if row < d.nRows ∧ col < d.nCols then [] else [0x04]) ++ (if d.acc then [0x09] else [])
      if codes ≠ [] then (codes, st)
      else match st.accumulate d ovw false [] with
        | none => ([0x09], st)
        | some s => ([], s.updTile d.granule fun t => { t with free := max t.free (st.tStart + 17) })

/-- XRED (R73, R97, R133, R166, R279). -/
def loadXred (cx : LCx) (st : LState) (e : XferEntry) (acc : BitVec 4) : LOut :=
  match st.desc cx acc with
  | none => ([0x04], st)
  | some (d, _) =>
    if !d.isAcc then ([0x04], st)
    else
      let n := d.nRows * d.nCols
      let out := (e.outFirst, e.outCount)
      let inn := (e.inFirst, e.inCount)
      let t := st.tile d.granule
      let old := (t.map (·.xred)).getD []
      let codes := levelCodes cx d 1 ++ (if st.region.isSome then [0x0C] else []) ++
        (if d.acc || !((t.map fun t => t.agrees d).getD false) || decide (n < e.outFirst + e.outCount ∨ n < e.inFirst + e.inCount) ||
          overlaps out inn || (old.any fun r => overlaps r out || overlaps r inn) then [0x09] else [])
      (codes, if codes ≠ [] then st else st.updTile d.granule fun t => { t with xred := t.xred ++ [out, inn] })

/-- The peers to which an open region sends on more than 8 reservations (R283). -/
def tooManySends (sends : List (Nat × Nat × Nat)) : Bool :=
  sends.any fun p => decide (8 < ((sends.filter fun q => decide (q.1 = p.1 ∧ q.2.1 = p.2.1)).map (·.2.2)).eraseDups.length)

/-- An F-slot or C-slot instruction that uses entry `x` (R127, R133, R166, R264, R283). -/
def loadXfer (cx : LCx) (st : LState) (x : Nat) (i : Instr) : LOut :=
  match cx.lb.book.xfers[x]? with
  | none => ([], st)
  | some e =>
    let taken := (st.used.filterMap fun u => cx.lb.book.xfers[u]?).flatMap (entrySpans cx.lb.core)
    let sends := if decide (e.kind = 1) && st.region.isSome then (e.dest, e.dcore, e.res) :: st.sends else st.sends
    let codes := (if st.used.contains x then [0x0B] else []) ++
      (if (entrySpans cx.lb.core e).any fun p => taken.any (spansMeet p) then [0x0A] else []) ++
      (if decide (e.kind = 1) && st.region.isSome && decide (12 < e.hops) then [0x0B] else []) ++
      (if e.kind = 2 ∧ e.anchor < st.cyc then [0x0B] else []) ++
      (if st.region.isSome && (decide (e.kind = 3) || (decide (e.kind = 1) && decide (e.dtype ≠ 1 ∨ 95 < e.dcore))) || tooManySends sends
        then [0x0C] else [])
    let (more, st) := match i with
      | .xred _ _ acc => loadXred cx st e acc
      | _ => ([], st)
    (codes ++ more, { st with used := x :: st.used, sends := sends })

/-- TADJ (R157): the field must be listed for the role of the descriptor. -/
def loadTadj (cx : LCx) (st : LState) (t : BitVec 4) (fld : BitVec 3) : LOut :=
  match st.desc cx t with
  | none => ([0x04], st)
  | some (d, _) =>
    let listed := match fld.toNat with
      | 0 => true
      | 1 => d.isOperand || d.isDst
      | 2 | 3 => d.isAcc
      | 4 | 5 => d.isOperand
      | _ => false
    let moves := decide (fld.toNat ≤ 1)
    (if listed then [] else [0x04],
      if moves then { st with t := st.t.modify t.toNat fun o => o.map fun p => (p.1, true) } else st)

/-- CONFIRM or SQUASH with no region open (R132). -/
def loadClose (st : LState) : LOut := (if st.region.isNone then [0x0C] else [], st)

/-- One instruction of a bundle that issues at `st.cyc`; LOOP, JMP, WAIT and the closing of a region follow after it. -/
def loadUnit (cx : LCx) (st : LState) : Instr → LOut
  | .mma _ acc a b ovw => loadMma cx st acc a b ovw none
  | .mmat _ acc a b ovw ts => loadMma cx st acc a b ovw (some ts)
  | .drain _ acc dst sa sb fmt _ scl keep => loadDrain cx st acc dst sa sb fmt scl keep
  | .spill _ acc => loadSpill cx st acc
  | .fill _ acc => loadFill cx st acc
  | .vxsum _ acc _ _ ovw row col _ => loadVx cx st acc ovw row.toNat col.toNat
  | .vxacc _ acc _ _ ovw row h _ => loadVx cx st acc ovw row.toNat (64 * b2n h)
  | .tld _ t idx =>
    if idx.toNat < cx.pool.length then ([], { st with t := st.t.set t.toNat (some (idx.toNat, false)) }) else ([], st)
  | .tadj _ t fld _ => loadTadj cx st t fld
  | .slot _ n => ([], { st with slot := n.toNat })
  | .posadd _ _ => ([], { st with adds := if st.adds.any fun a => decide (a.1 = st.slot) then st.adds else (st.slot, st.pc) :: st.adds })
  | .confirm _ _ => loadClose st
  | .squash _ => loadClose st
  | i => match xferUse i with
    | some (x, _) => loadXfer cx st x i
    | none => ([], st)

/-- The unit that takes an instruction is the T unit. -/
def isTSlot : Instr → Bool
  | .drain .. | .spill .. | .fill .. | .vxsum .. | .vxacc .. => true
  | _ => false

/-- One instruction, with the queue of the T unit (R118, R125). -/
def loadInstr (cx : LCx) (st : LState) (i : Instr) : LOut :=
  if isTSlot i then
    let q := queueT st
    let o := loadUnit cx q.2 i
    (q.1 ++ o.1, o.2)
  else loadUnit cx st i

/-! ### Hazards (R170) -/

/-- A register is read before its result is available; g0 and q0 are never written. -/
def LState.early (st : LState) (rs : List RegName) : Bool :=
  rs.any fun r => decide (r ≠ .g 0 ∧ r ≠ .q 0) && st.ready.any fun p => decide (p.1 = r ∧ st.cyc < p.2)

/-- Record when the results of a bundle are available. -/
def LState.deliver (st : LState) (ins : List Instr) : LState :=
  let late := st.ready.filter fun p => decide (st.cyc < p.2)
  let put (m : List (RegName × Nat)) (i : Instr) : List (RegName × Nat) :=
    (instrWrites i).foldl (fun m r => (r, st.cyc + resultCycles i) :: m.filter fun p => decide (p.1 ≠ r)) m
  { st with ready := ins.foldl put late }

/-! ### Paths -/

/-- The state after a region closes: confirmed, or squashed with the t registers and SLOT of the region's opening (R137). -/
def LState.closeRegion (st : LState) (squash : Bool) : LState :=
  match st.region with
  | none => st
  | some (o, t, slot) =>
    if squash then
      { st with region := none, sends := [], t := t, slot := slot, tiles := st.tiles.filter fun x => decide (x.region ≠ some o) }
    else
      { st with
        region := none, sends := []
        tiles := st.tiles.map fun x => if x.region = some o then { x with region := none } else x }

/-- Go on at the next bundle after `n` cycles, round the loops that end here (R119). -/
def LState.next (st : LState) (n : Nat) : LState :=
  let (pc, loops) := nextPc st.loops st.pc
  { st with pc := pc, loops := loops, cyc := st.cyc + n }

/-- Where a bundle's C slot takes the path once the bundle has issued (R119, R137, R167). -/
def LState.follow (st : LState) (c : Option Instr) : List LState :=
  match c with
  | some (.loop _ n len) =>
    [{ st with pc := st.pc + 1, cyc := st.cyc + 1, loops := ⟨st.pc + 1, st.pc + 1 + len.toNat, n.toNat⟩ :: st.loops }]
  | some (.wait _ n) => [st.next (n.toNat + 2)]
  | some (.jmp _ q neg off) =>
    (if q = 0 ∧ neg then [] else [{ st with pc := st.pc + off.toNat, cyc := st.cyc + 2 }]) ++
      (if q = 0 ∧ !neg then [] else [st.next 1])
  | some (.confirm _ _) => [(st.closeRegion false).next 1]
  | some (.squash _) => [(st.closeRegion true).next 1]
  | _ => [st.next 1]

/-- Issue one bundle that is no cue-wait bundle: the codes it breaks, or the states after it. `act`: its predicate passes. -/
def loadIssue (cx : LCx) (b : Bundle) (act : Bool) (st : LState) : List Nat × List LState :=
  let ins := if act then ((bundleInstrs b).filter fun p => p.2.wellFormed).map (·.2) else []
  let opens := if b.hdr.spec then (if st.region.isSome ∨ 256 ≤ st.nreg then [0x0C] else []) else []
  let st := if b.hdr.spec then { st with region := some (st.nreg, st.t, st.slot), nreg := st.nreg + 1, sends := [] } else st
  let early := if st.early (.q b.hdr.pq.toNat :: ins.flatMap sourceRegs) then [0x04] else []
  let (codes, s) := ins.foldl (fun (a : List Nat × LState) i => let (cs, s) := loadInstr cx a.2 i; (a.1 ++ cs, s)) (opens ++ early, st)
  if codes ≠ [] then (codes, [])
  else ([], (s.deliver ins).follow (if act then (match b.c with | .ins i => some i | _ => none) else none))

/-- The codes that a cue-wait bundle breaks on a path (R102, R132, R343). -/
def cueCodes (st : LState) : List Nat :=
  (if st.region.isSome then [0x0C] else []) ++
    (if (st.tiles.any fun t => t.c160) ∨ 448 < (st.tiles.map (·.n)).sum ∨ 62 < st.tiles.length then [0x09] else [])

/-- What one step along a path gives: failures, and states to go on from, or the state at the cue-wait bundle. -/
inductive LStep where
  | go (codes : List Nat) (next : List LState)
  | cue (codes : List Nat) (at_ : LState)

/-- One step along a path. Either outcome of a predicate other than q0 is followed (R118, R125); a CONFIRM is followed as
CONFIRMED (DEDUCED); a bundle that breaks a rule by itself is judged on the path too, for the lowest of its codes, and ends it. -/
def loadStep (cx : LCx) (bs : List Bundle) (st : LState) : LStep :=
  match bs[st.pc]? with
  | none => .go [] []
  | some b =>
    let broken := bundleCodes cx b ≠ []
    if b.hdr.cue then (if broken then .go (cueCodes st) [] else .cue (cueCodes st) st)
    else
      let y := loadIssue cx b true st
      let n := if b.hdr.pq = 0 ∧ !b.hdr.pneg then ([], []) else loadIssue cx b false st
      .go (y.1 ++ n.1) (if broken then [] else y.2 ++ n.2)

/-- Every path of a program from the states `todo`: failures by bundle, and the states at its cue-wait bundle. A state met
again is not followed twice. -/
def loadWalk (cx : LCx) (bs : List Bundle) : Nat → List LState → List LState → List (Nat × Nat) → List LState →
    List (Nat × Nat) × List LState
  | 0, _, _, fails, exits => (fails, exits)
  | fuel + 1, todo, seen, fails, exits =>
    match todo with
    | [] => (fails, exits)
    | st :: rest =>
      match loadStep cx bs st with
      | .cue codes s => loadWalk cx bs fuel rest seen (codes.map (fun k => (st.pc, k)) ++ fails) (if codes = [] then s :: exits else exits)
      | .go codes next =>
        let fails := codes.map (fun k => (st.pc, k)) ++ fails
        match next with
        | [s] => loadWalk cx bs fuel (s :: rest) seen fails exits
        | next =>
          let fresh := next.filter fun s => !seen.contains s
          loadWalk cx bs fuel (fresh ++ rest) (fresh ++ seen) fails exits

/-- More steps than any search of the loader takes: the states are finite (R428). What is carried is 16 t registers of 2,049 values,
at most 64 tiles that a pool descriptor and a Boolean fix, in some order, and a slot: fewer than 2^1200 states at 65,536 positions; a
path holds fewer than 2^80 cycles. -/
def loadFuel : Nat := 2 ^ 8192

/-- What the search of one book finds: failures by program and bundle, and POSADDs by program, slot and bundle. -/
structure LFound where
  fails : List (Nat × Nat × Nat) := []
  adds : List (Nat × Nat × Nat) := []

/-- The states that the sequence entry at `pos` can leave when it starts in `st`, with what its program breaks; a rest entry passes the
state on unchanged (R428). -/
def loadEntry (cx : LCx) (pos : Nat) (st : LState) : LFound × List LState :=
  match cx.lb.book.seq[pos]? with
  | none => ({}, [])
  | some (p, _) =>
    if p = 0xFFFF then ({}, [st])
    else
      let (fails, exits) := loadWalk cx (cx.lb.progs.getD p []) loadFuel [st] [] [] []
      ({ fails := fails.map fun e => (p, e.1, e.2), adds := exits.flatMap fun s => s.adds.map fun a => (p, a.1, a.2) },
        exits.map LState.carry)

/-- Search every sequence entry from every state in which the sequence can start it; the last entry precedes the first (R428). -/
def loadSearch (cx : LCx) : Nat → List (Nat × LState) → List (Nat × LState) → LFound → LFound
  | 0, _, _, f => f
  | fuel + 1, todo, seen, f =>
    match todo with
    | [] => f
    | (pos, st) :: rest =>
      if seen.contains (pos, st) then loadSearch cx fuel rest seen f
      else
        let (found, exits) := loadEntry cx pos st
        loadSearch cx fuel (exits.map (fun s => ((pos + 1) % cx.lb.book.seq.length, s)) ++ rest) ((pos, st) :: seen)
          { fails := found.fails ++ f.fails, adds := found.adds ++ f.adds }

/-- A program that no sequence entry names is checked from the state after a load (R428; DEDUCED: R125 checks every program). -/
def idlePrograms (cx : LCx) : List Nat :=
  (List.range cx.lb.progs.length).filter fun p => !(cx.lb.book.seq.any fun e => decide (e.1 = p))

/-- The search from the state after a load, at every position of the sequence (R428). -/
def searchBook (cx : LCx) : LFound :=
  let f := loadSearch cx loadFuel ((List.range cx.lb.book.seq.length).map fun pos => (pos, {})) [] {}
  { f with fails := f.fails ++ (idlePrograms cx).flatMap fun p =>
      (loadWalk cx (cx.lb.progs.getD p []) loadFuel [{}] [] [] []).1.map fun e => (p, e.1, e.2) }

end Sys2Proof.Machine
end

