-- ==== Sys2Proof/Machine/Loader.lean ====
section
/-! DEFINITION. LOAD_BOOKS and LOAD_BOOKS_DONE (R112, R115, R125, R300): reading 96 images, the checks of the set as a whole
(R19, R113, R116, R127, R145, R222, R317), and putting an accepted set into force. -/

namespace Sys2Proof

/-- Whether an access of a bundle of a set whose cycle or address the spec does not fix meets another on a bank port (R125, R222): core,
scene program, bundle. A free value: the spec gives neither the cycle at which the mesh reads a line nor the addresses that p registers
hold. -/
opaque Config.bankMeets : List (List Byte) → Nat → Nat → Nat → Bool

end Sys2Proof

namespace Sys2Proof.Machine

/-! ### LOAD_BOOKS -/

/-- The 96 addresses of a LOAD_BOOKS payload. -/
def bookAddrs (t : Taken) : List Nat := (List.range 96).map fun i => imgAt t.payload (8 * i) 8

/-- LOAD_BOOKS (R300): issued in PS2; every address is aligned and its header lies in fitted stacks. -/
def loadRule : CmdRule :=
  ⟨2, [], fun t => decide (t.plen = 768), true, fun s _ => psHold s,
    fun s t => (bookAddrs t).all fun a => decide (a % 256 = 0) && s.inStacks a 256⟩

/-- LOAD_BOOKS (R300): the long command begins. -/
def execLoadBooks (s : State) : Out :=
  .next (command loadRule (fun t s => scanNext (beginLong t (bookAddrs t) s)) s)

/-! ### Reading the images -/

/-- The header of every book is read, then the whole image where it lies in fitted stacks: the ranges read. -/
def bookReads (s : State) (addrs : List Nat) : List (Nat × Nat × Nat) :=
  addrs.zipIdx.flatMap fun (a : Nat × Nat) =>
    let n := imgSize (s.bytes a.1 256)
    (a.2, a.1, 256) :: (if s.inStacks a.1 n then [(a.2, a.1, n)] else [])

/-- The first uncorrectable stack line that is read, with its core. -/
def bookError (s : State) (addrs : List Nat) : Option (Nat × Nat) :=
  (bookReads s addrs).findSome? fun r => (badLine s r.2.1 r.2.2).map fun a => (r.1, a)

/-- The image of a book, if it can be read as R113 asks. -/
def readBook (s : State) (c : CoreId) (a : Nat) : Option LBook :=
  let h := s.bytes a 256
  if bookHeaderOk c h && s.inStacks a (imgSize h) then
    let b := s.bytes a (imgSize h)
    if imageOk b then some (LBook.ofImage c b) else none
  else none

/-! ### The checks of one book -/

/-- Bundle address of bundle `i` of program `p` (R150). -/
def LBook.bundleAddr (lb : LBook) (p i : Nat) : Nat := ((lb.book.progs[p]?.map (·.off)).getD 0) / 32 + i

/-- The context of a book's checks. -/
def LCx.of (s : State) (lb : LBook) : LCx := ⟨lb, s.bit Fld.CFG_SPEC_EN, lb.pool.map Desc.decode⟩

/-- The 65th phase mark of a program (R125). -/
def extraMark (bs : List Bundle) : Option Nat := ((bs.zipIdx.filter fun b => b.1.hdr.phase).map (·.2))[64]?

/-- Failures of one program that lie in no path: by bundle; 0xFFFFFFFF where no bundle is to blame (R27, R120). -/
def programFails (cx : LCx) (b : Nat) (p : ProgEntry) (bs : List Bundle) : List (Nat × Nat) :=
  let control := controlFaults bs
  bs.zipIdx.flatMap (fun u => (bundleCodes cx u.1).map fun k => (u.2, k)) ++
    (match extraMark bs with | some i => [(i, 0x0F)] | none => []) ++
    (resClashes cx.lb.book.xfers bs).map (fun i => (i, 0x0B)) ++
    (if bs = [] then [(0xFFFFFFFF, 0x06)] else control.map fun i => (i, 0x06)) ++
    (if bs ≠ [] ∧ control = [] ∧ (p.w ≠ programW bs ∨ b < p.w) then [(0xFFFFFFFF, 0x05)] else [])

/-- The report of a failure of program `p`. -/
def LBook.reject (lb : LBook) (p i code : Nat) : Reject :=
  ⟨code, lb.core.val, p, if i = 0xFFFFFFFF then i else lb.bundleAddr p i⟩

/-- Every failure of one book, apart from those that need the other books. -/
def bookFails (s : State) (lb : LBook) (found : LFound) : List Reject :=
  let cx := LCx.of s lb
  let budget := budgetOf (s.fld Fld.SCN_LEN_LEN) (s.fld Fld.PWR_STATE_DIVIDER)
  (bookCodes s lb).map (fun k => { code := k, core := lb.core.val }) ++
    (lb.book.progs.zip lb.progs).zipIdx.flatMap (fun p =>
      (programFails cx budget p.1.1 p.1.2).map fun f => lb.reject p.2 f.1 f.2) ++
    found.fails.map (fun f => lb.reject f.1 f.2.1 f.2.2)

/-! ### The checks of the set -/

/-- A difference between the books of a set (R113, R116): it names core 0. -/
def setDiffers (bs : List LBook) : Bool :=
  match bs with
  | [] => false
  | b :: rest => rest.any fun x =>
    decide (x.book.setId ≠ b.book.setId ∨ x.book.seq.map (·.2) ≠ b.book.seq.map (·.2))

/-- The program that a book runs at a position, if it is no rest entry. -/
def progAt (lb : LBook) (pos : Nat) : Option Nat :=
  match lb.book.seq[pos]? with
  | some (p, _) => if p = 0xFFFF then none else some p
  | none => none

/-- Two cores issue POSADD to one slot in one position (R145): laid to the later core. -/
def posaddFails (bs : List (LBook × LFound)) : List Reject :=
  (List.range ((bs.head?.map fun b => b.1.book.seq.length).getD 0)).flatMap fun pos =>
    bs.flatMap fun y => match progAt y.1 pos with
      | none => []
      | some q => ((y.2.adds.filter fun a => decide (a.1 = q)).filter fun a =>
          bs.any fun x => decide (x.1.core < y.1.core) && (match progAt x.1 pos with
            | some p => x.2.adds.any fun o => decide (o.1 = p ∧ o.2.1 = a.2.1)
            | none => false)).map fun a => y.1.reject q a.2.2 0x0D

/-- The spans that the bundles of a program claim on the bed switch: by bundle (R127). -/
def progSpans (lb : LBook) (p : Nat) : List (Nat × BedPort × Nat × Nat) :=
  (lb.progs.getD p []).zipIdx.flatMap fun b => (bundleInstrs b.1).flatMap fun i => match xferUse i.2 with
    | some (x, _) => match lb.book.xfers[x]? with
      | some e => (entrySpans lb.core e).map fun v => (b.2, v)
      | none => []
    | none => []

/-- Two cores of one bed claim a window of one port in one position (R19, R127): laid to the later core. -/
def bedFails (bs : List LBook) : List Reject :=
  (List.range ((bs.head?.map fun b => b.book.seq.length).getD 0)).flatMap fun pos =>
    bs.flatMap fun y => match progAt y pos with
      | none => []
      | some q =>
        let others := (bs.filter fun x => decide (x.core < y.core)).flatMap fun x => match progAt x pos with
          | some p => (progSpans x p).map (·.2)
          | none => []
        ((progSpans y q).filter fun v => others.any (spansMeet v.2)).map fun v => y.reject q v.1 0x0A

/-- An instruction with a line access on a scratchpad bank port whose cycle or address the spec leaves open (R222): the lines that a
DRAIN writes are judged on the path (`drainBanks`). -/
def usesBank : Instr → Bool
  | .mma .. | .mmat .. | .spill .. | .fill .. | .drain .. | .vld .. | .vst .. | .dmov .. | .dmovi .. | .send .. | .recv .. | .gather .. => true
  | _ => false

/-- The BANK check (R222) of the accesses that the spec leaves open. -/
def bankFails (bs : List LBook) : List Reject :=
  let imgs := bs.map (·.image)
  bs.flatMap fun y => y.progs.zipIdx.flatMap fun p => p.1.zipIdx.filterMap fun b =>
    if ((bundleInstrs b.1).any fun i => usesBank i.2) && Config.bankMeets imgs y.core.val p.2 b.2
    then some (y.reject p.2 b.2 0x07) else none

/-- The entries of ADMITs in a program whose source is this device (R139). -/
def localAdmits (node : Nat) (lb : LBook) (bs : List Bundle) : List (Nat × Nat) :=
  (bs.flatMap fun b => (bundleInstrs b).filterMap fun i => match i.2 with
    | .admitRegion _ _ x => (lb.book.xfers[x.toNat]?).bind fun e => if e.peer = node then some (e.peerCore, e.region) else none
    | _ => none).eraseDups

/-- The capacity of R139 for source regions of the device: a program that admits more than 16 of them could exceed it, because slips may
let all their lines land before the first ADMIT (DEDUCED, assumption 68). -/
def wingsFails (s : State) (bs : List LBook) : List Reject :=
  bs.flatMap fun y => y.progs.zipIdx.filterMap fun p =>
    if 16 < (localAdmits (s.fld Fld.FAB_NODE_ID) y p.1).length then some (y.reject p.2 0xFFFFFFFF 0x0C) else none

/-- Every failure of a set. The books of a set that cannot all be read are checked one by one only. -/
def setFails (s : State) (addrs : List Nat) : List Reject × List LBook :=
  let read := allCores.map fun c => (c, readBook s c (addrs.getD c.val 0))
  let bs := read.filterMap fun r => r.2.map fun b => (b, searchBook (LCx.of s b))
  let own := read.filterMap (fun r => if r.2.isNone then some { code := 0x01, core := r.1.val : Reject } else none) ++
    bs.flatMap fun b => bookFails s b.1 b.2
  if bs.length < 96 then (own, [])
  else
    let lbs := bs.map (·.1)
    let power := powerBroken s (lbs.map fun b => (b.book, b.code))
    (own ++ (if setDiffers lbs then [{ code := 0x01, core := 0 }] else []) ++ posaddFails bs ++ bedFails lbs ++ bankFails lbs ++
      wingsFails s lbs ++ (if power then [{ code := 0x11, core := 0 }] else []), lbs)

/-- The order in which failures are reported (R125): core, scene program, bundle, then the lowest code. What lies in no scene
program comes first of a core, and what lies in no bundle last of a program. -/
def Reject.before (a b : Reject) : Bool :=
  let p (r : Reject) := if r.program = 0xFFFF then 0 else r.program + 1
  decide (a.core < b.core ∨ (a.core = b.core ∧ (p a < p b ∨ (p a = p b ∧ (a.bundle < b.bundle ∨
    (a.bundle = b.bundle ∧ a.code < b.code))))))

/-- The first failure of a set. -/
def firstReject (rs : List Reject) : Option Reject :=
  rs.foldl (fun (m : Option Reject) r => match m with | some x => if r.before x then some r else m | none => some r) none

/-! ### LOAD_BOOKS_DONE -/

/-- Put one book into force (R112, R115, R152, R178): its code into the book area, its pool into the descriptor store, and the
core into the state after a load. -/
def placeBook (lb : LBook) (s : State) : State :=
  let s := s.updCore lb.core fun k => Core.fresh { k with
    book := some lb.book
    pool := lb.pool.zipIdx.foldl (fun m d => SMap.set (Desc.decode 0) m d.2 (Desc.decode d.1)) [] }
  s.store (scrBase lb.core + (scrSize - lb.book.bookSize)) lb.code

/-- Put a set into force (R112, R146, R209, R402). -/
def placeSet (bs : List LBook) (s : State) : State :=
  let s := bs.foldl (fun s b => placeBook b s) s
  let s := (List.range 256).foldl (fun s i => s.setFld (Fld.WLT_COUNT_COUNT i) 0) { s with wlt := [], seedSet := false }
  ((s.setFld Fld.SCN_LOAD_STATUS_CODE 0).setFld Fld.SCN_LOAD_STATUS_LOADED 1).setReg Reg.SCN_BOOK_SET
    (BitVec.ofNat 64 ((bs.head?.map fun b => b.book.setId).getD 0))

/-- LOAD_BOOKS_DONE (R112, R125, R300): the loader's checks end. An uncorrectable stack error fails the command, a failed
check rejects the set, and a set that passes is in force at once. -/
def execLoadBooksDone (s : State) : Out :=
  .next (match s.host.long with
    | some l =>
      if l.op = 2 ∧ s.controlHalted = false then
        match bookError s l.words with
        | some (c, a) => completeLong 10 (a + c * 2 ^ 48) (stackError a (s.uncorrInjected a 64) s)
        | none =>
          let s := (bookReads s l.words).foldl (fun s r => countCorr r.2.1 r.2.2 s) s
          let y := setFails s l.words
          match firstReject y.1 with
          | some r =>
            let s := showReject r s
            completeLong 5 (s.reg Reg.SCN_LOAD_STATUS).toNat s
          | none => completeLong 0 0 (placeSet y.2 s)
      else s
    | none => s)

end Sys2Proof.Machine
end

