-- ==== Sys2Proof/Machine/Scalar.lean ====
section
/-! DEFINITION. The scalar instructions of the C slot (R145, R152, R157, R167, R168). -/

namespace Sys2Proof.Machine

/-- A C-slot instruction whose effect is a change of its core's registers. -/
def scalar (c : CoreId) (i : Instr) (s : State) (f : Regs → Regs → Regs) : State :=
  runUnit c .c i s fun x s => some (wr x (f x.regs) s)

/-- MOVI (R167): an immediate shifted by 16 × SH, or one 16-bit field replaced. -/
def execMovi (c : CoreId) (gd : BitVec 6) (imm : BitVec 16) (sh : BitVec 2) (kp : Bool) (s : State) : Out :=
  .next (scalar c (.movi c gd imm sh kp) s fun r k =>
    let v := imm.setWidth 64 <<< (16 * sh.toNat)
    k.setG gd (if kp then (r.gr gd &&& ~~~ (0xFFFF#64 <<< (16 * sh.toNat))) ||| v else v))

/-- ADDI (R167): GD = GA + sign-extended IMM. -/
def execAddi (c : CoreId) (gd ga : BitVec 6) (imm : BitVec 16) (s : State) : Out :=
  .next (scalar c (.addi c gd ga imm) s fun r k => k.setG gd (r.gr ga + imm.signExtend 64))

/-- ADD (R167). -/
def execAdd (c : CoreId) (gd ga gb : BitVec 6) (s : State) : Out :=
  .next (scalar c (.add c gd ga gb) s fun r k => k.setG gd (r.gr ga + r.gr gb))

/-- SUB (R167). -/
def execSub (c : CoreId) (gd ga gb : BitVec 6) (s : State) : Out :=
  .next (scalar c (.sub c gd ga gb) s fun r k => k.setG gd (r.gr ga - r.gr gb))

/-- AND (R167). -/
def execAnd (c : CoreId) (gd ga gb : BitVec 6) (s : State) : Out :=
  .next (scalar c (.and c gd ga gb) s fun r k => k.setG gd (r.gr ga &&& r.gr gb))

/-- OR (R167). -/
def execOr (c : CoreId) (gd ga gb : BitVec 6) (s : State) : Out :=
  .next (scalar c (.or c gd ga gb) s fun r k => k.setG gd (r.gr ga ||| r.gr gb))

/-- XOR (R167). -/
def execXor (c : CoreId) (gd ga gb : BitVec 6) (s : State) : Out :=
  .next (scalar c (.xor c gd ga gb) s fun r k => k.setG gd (r.gr ga ^^^ r.gr gb))

/-- SHL (R167): by bits 5:0 of GB. -/
def execShl (c : CoreId) (gd ga gb : BitVec 6) (s : State) : Out :=
  .next (scalar c (.shl c gd ga gb) s fun r k => k.setG gd (r.gr ga <<< ((r.gr gb).toNat % 64)))

/-- SHR (R167): logical, by bits 5:0 of GB. -/
def execShr (c : CoreId) (gd ga gb : BitVec 6) (s : State) : Out :=
  .next (scalar c (.shr c gd ga gb) s fun r k => k.setG gd (r.gr ga >>> ((r.gr gb).toNat % 64)))

/-- SAR (R167): arithmetic, by bits 5:0 of GB. -/
def execSar (c : CoreId) (gd ga gb : BitVec 6) (s : State) : Out :=
  .next (scalar c (.sar c gd ga gb) s fun r k => k.setG gd ((r.gr ga).sshiftRight ((r.gr gb).toNat % 64)))

/-- MUL (R167): the low 64 bits of the product. -/
def execMul (c : CoreId) (gd ga gb : BitVec 6) (s : State) : Out :=
  .next (scalar c (.mul c gd ga gb) s fun r k => k.setG gd (r.gr ga * r.gr gb))

/-- CMP (R167): all 64 bits of QD; CC 6 and 7, and q0 as QD, are illegal (R171, R172). -/
def execCmp (c : CoreId) (qd : BitVec 3) (ga gb : BitVec 6) (cc : BitVec 3) (s : State) : Out :=
  let i := Instr.cmp c qd ga gb cc
  guardWf i (scalar c i s fun r k => k.setQ qd (allBits (cmpCond cc (r.gr ga) (r.gr gb))))

/-- PADD (R167): PA + GB modulo 2^48. -/
def execPadd (c : CoreId) (pd pa : BitVec 4) (gb : BitVec 6) (s : State) : Out :=
  .next (scalar c (.padd c pd pa gb) s fun r k => k.setP pd (r.pr pa + (r.gr gb).setWidth 48))

/-- PSET (R167): bits 47:0 of GA. -/
def execPset (c : CoreId) (pd : BitVec 4) (ga : BitVec 6) (s : State) : Out :=
  .next (scalar c (.pset c pd ga) s fun r k => k.setP pd ((r.gr ga).setWidth 48))

/-- PGET (R167): PA, zero-extended. -/
def execPget (c : CoreId) (gd : BitVec 6) (pa : BitVec 4) (s : State) : Out :=
  .next (scalar c (.pget c gd pa) s fun r k => k.setG gd ((r.pr pa).setWidth 64))

/-- Entry IDX of the core's descriptor store (R152); an entry that no load has written is zero. -/
def Core.poolAt (k : Core) (idx : Nat) : Desc := SMap.get (Desc.decode 0) k.pool idx

/-- TLD (R152): copies a pool entry into a t register. -/
def execTld (c : CoreId) (t : BitVec 4) (idx : BitVec 10) (s : State) : Out :=
  .next (runUnit c .c (.tld c t idx) s fun x s =>
    some (wr x (fun k => k.setT t ((s.core c).poolAt idx.toNat)) s))

/-- TADJ (R157): adjusts one field; outside its limits, or where the field is not listed for the role, it has no
effect and raises OPERAND_RANGE. -/
def execTadj (c : CoreId) (t : BitVec 4) (fld : BitVec 3) (ga : BitVec 6) (s : State) : Out :=
  .next (runUnit c .c (.tadj c t fld ga) s fun x s =>
    match (x.regs.tr t).bind fun d => d.adjust fld (x.regs.gr ga) with
    | some d => some (wr x (fun k => k.setT t d) s)
    | none => some (operandRange c x.bundle UnitId.c.slot (inWings x s) s))

/-- SLOT (R145): selects the current sequence slot. -/
def execSlot (c : CoreId) (n : BitVec 6) (s : State) : Out :=
  .next (scalar c (.slot c n) s fun _ k => { k with slot := n })

/-- The special registers of R123 and R168 as core `c` reads them. -/
def specialReg (x : Ctx) (sr : BitVec 4) (s : State) : Word :=
  match sr.toNat with
  | 0 => BitVec.ofNat 64 (s.fld Fld.SCN_COUNT_SCENE)
  | 1 => BitVec.ofNat 64 (s.cycle % 2 ^ 32)
  | 2 => BitVec.ofNat 64 (s.fld Fld.SCN_STEP_STEP)
  | 3 => BitVec.ofNat 64 (s.fld Fld.SCN_SEQ_POS)
  | 4 => x.regs.slot.setWidth 64
  | 5 => if s.bit (Fld.SCN_SLOT_ID_BOUND x.regs.slot.toNat) then
      BitVec.ofNat 64 (s.fld (Fld.SCN_SLOT_POS_POS x.regs.slot.toNat)) else 0
  | 6 => BitVec.ofNat 64 (match x.region with | some o => o | none => 0xFFFF)
  | 7 => BitVec.ofNat 64 x.c.val
  | _ => BitVec.ofNat 64 (s.fld Fld.FAB_NODE_ID)

/-- GETS (R168): reads a special register; SR 9 to 15 are illegal. -/
def execGets (c : CoreId) (gd : BitVec 6) (sr : BitVec 4) (s : State) : Out :=
  let i := Instr.gets c gd sr
  guardWf i (runUnit c .c i s fun x s => some (wr x (fun k => k.setG gd (specialReg x sr s)) s))

/-- POSADD (R145): held until the next cue, and in a region until it closes (R137); on a slot that is not bound it has
no effect. -/
def execPosadd (c : CoreId) (imm : BitVec 16) (s : State) : Out :=
  .next (runUnit c .c (.posadd c imm) s fun x s =>
    let sl := x.regs.slot
    if !s.bit (Fld.SCN_SLOT_ID_BOUND sl.toNat) then some s
    else if inWings x s then
      some (s.updCore c fun k =>
        { k with region := k.region.map fun r => { r with posadd := r.posadd ++ [(sl, imm.toNat)] } })
    else some { s with posadd := s.posadd ++ [(sl, imm.toNat)] })

end Sys2Proof.Machine
end

