-- ==== Sys2Proof/Machine/Telemetry.lean ====
section
/-! DEFINITION. The telemetry streamer: phase, event and trace records go into their rings in the stacks (R143, R307 to R310). -/

namespace Sys2Proof.Machine

/-- The streamer works: the device has started up and the stacks are not in self-refresh (R308, R314, R321). -/
def telOn (s : State) : Bool := s.ready && !s.stacksRest

/-- Unread records of a ring: its write counter less its read counter, modulo 2^32. -/
def ringUnread (wr rd : Nat) : Nat := (wr + 2 ^ 32 - rd) % 2 ^ 32

/-- Store a record in a ring, in a transfer of requester 6 that a turn of the service bus takes to the stack (R308, R324): `off` is the
ring's place in BAR4, `n` its record count. -/
def ringStore (off n : Nat) (wr : Fld) (r : List Byte) (s : State) : State :=
  let w := s.fld wr
  let a := s.fld Fld.HST_TEL_BASE_BASE + off + r.length * (w % n)
  (busUse 6 (fun s => (shareLines busTurns a r.length s).store a r) s).setFld wr ((w + 1) % 2 ^ 32)

/-- Store the oldest phase record of core `c`, unless the phase ring is full; one that leaves more than half of the ring unread is the
cause of vector 3. -/
def storePhase (c : CoreId) (s : State) : State :=
  match (s.core c).phases with
  | [] => s
  | r :: rs =>
    let unread := ringUnread (s.fld Fld.HST_TEL_PHASE_WR) (s.fld Fld.HST_TEL_PHASE_RD)
    if unread < 4194304 then
      let s := ringStore 0 4194304 Fld.HST_TEL_PHASE_WR r (s.updCore c fun k => { k with phases := rs })
      if 2097152 < unread + 1 then irq 3 s else s
    else s

/-- Store the oldest event record that waits, unless the event ring is full: the cause of vector 4. -/
def storeEvent (s : State) : State :=
  match s.tel.events with
  | [] => s
  | r :: rs =>
    if eventUnread s < 1048576 then
      irq 4 (ringStore 0x08000000 1048576 Fld.HST_TEL_EVENT_WR r { s with tel := { s.tel with events := rs } })
    else s

/-- Store the oldest trace record that waits; the trace ring overwrites its oldest. -/
def storeTrace (s : State) : State :=
  match s.tel.trace with
  | [] => s
  | r :: rs => ringStore 0x0C000000 2097152 Fld.HST_TEL_TRACE_WR r { s with tel := { s.tel with trace := rs } }

/-- TELEMETRY_RECORD_STORE (R309): ring 0 phase, 1 event, 2 trace. -/
def execTelemetryRecordStore (ring : BitVec 2) (c : CoreId) (s : State) : Out :=
  .next (if telOn s then
    match ring with
    | 0 => storePhase c s
    | 1 => storeEvent s
    | 2 => storeTrace s
    | _ => s
  else s)

end Sys2Proof.Machine
end

