-- ==== Sys2Proof/Machine/Transcend.lean ====
section
/-! DEFINITION. The correctly rounded transcendental lane operations of R163: e^x, natural logarithm, reciprocal and
reciprocal square root. Reciprocals are exact to the last odd bit; the two series are carried to 320 fraction bits,
far beyond the precision at which any FP32 argument other than the exact cases can meet a rounding boundary
(PRESUMED, assumption 20). -/

namespace Sys2Proof.Machine

/-- Fraction bits of the fixed-point series. -/
def seriesBits : Nat := 320

/-- Sum of z^(2i+1) / (2i+1) from index i on, in fixed point; `pw` is z^(2i+1), `z2` is z². -/
def atanhSum : Nat → Nat → Int → Int → Int → Int
  | 0, _, _, _, acc => acc
  | fuel + 1, i, pw, z2, acc =>
    atanhSum fuel (i + 1) (pw * z2 / 2 ^ seriesBits) z2 (acc + pw / (2 * i + 1 : Nat))

/-- 2 × atanh(a / b) in fixed point. -/
def atanh2 (a : Int) (b : Nat) : Int :=
  let z := a * 2 ^ seriesBits / (b : Int)
  2 * atanhSum 130 0 z (z * z / 2 ^ seriesBits) 0

/-- ln 2 in fixed point: 2 × atanh(1/3). -/
def ln2Fixed : Int := atanh2 1 3

/-- Sum of r^i / i! from index i on, in fixed point. -/
def expSum : Nat → Nat → Int → Int → Int → Int
  | 0, _, _, _, acc => acc
  | fuel + 1, i, term, r, acc => expSum fuel (i + 1) (term * r / 2 ^ seriesBits / ((i + 1 : Nat) : Int)) r (acc + term)

/-- A fixed-point magnitude as an exact value with its last bit odd, which records that the true value is inexact. -/
def oddVal (s : Bool) (n : Nat) (e : Int) : Val := .num s (2 * (n / 2 ^ 40) + 1) (e + 39)

/-- e^x (R163). -/
def Val.exp : Val → Val
  | .nan => .nan
  | .inf true => .num false 0 0
  | .inf false => .inf false
  | .num s n e =>
    if n = 0 then .num false 1 0
    else if magLe 1 9 n e then if s then .num false 1 (-600) else .num false 1 600
    else
      let x : Int := (if s then -1 else 1) * ((n * 2 ^ (e + 200).toNat : Nat) : Int) * 2 ^ (seriesBits - 200)
      let k := x / ln2Fixed
      let r := x - k * ln2Fixed
      oddVal false (expSum 110 0 (2 ^ seriesBits) r 0).toNat (k - seriesBits)

/-- Natural logarithm (R163). -/
def Val.log : Val → Val
  | .nan => .nan
  | .inf true => .nan
  | .inf false => .inf false
  | .num s n e =>
    if n = 0 then .inf true
    else if s then .nan
    else
      let p := msb n
      -- the argument is m × 2^k with m in [0.75, 1.5)
      let up := decide (3 * 2 ^ p ≤ 2 * n)
      let k : Int := e + p + (if up then 1 else 0)
      let den := if up then 2 ^ (p + 1) else 2 ^ p
      if n = den ∧ k = 0 then .num false 0 0
      else
        let y := k * ln2Fixed + atanh2 ((n : Int) - den) (n + den)
        oddVal (decide (y < 0)) y.natAbs (-(seriesBits : Int))

/-- 1 / x (R163). -/
def Val.rcp : Val → Val
  | .nan => .nan
  | .inf s => .num s 0 0
  | .num s n e =>
    if n = 0 then .inf s
    else
      let k := msb n + 80
      let q := 2 ^ k / n
      .num s (2 * q + (if q * n = 2 ^ k then 0 else 1)) (-e - k - 1)

/-- Integer square root by bits from bit `k` down. -/
def isqrtFrom (n : Nat) : Nat → Nat → Nat
  | 0, r => r
  | k + 1, r => let t := r + 2 ^ k; isqrtFrom n k (if t * t ≤ n then t else r)

/-- Integer square root. -/
def isqrt (n : Nat) : Nat := isqrtFrom n (msb n / 2 + 1) 0

/-- 1 / √x (R163): ±0 give ±∞ as R163 names 1 / √(−0) = −∞, and a negative x gives NaN. -/
def Val.rsq : Val → Val
  | .nan => .nan
  | .inf true => .nan
  | .inf false => .num false 0 0
  | .num s n e =>
    if n = 0 then .inf s
    else if s then .nan
    else
      let odd := decide (e % 2 = 1)
      let m := if odd then 2 * n else n
      let h : Int := (if odd then e - 1 else e) / 2
      let k := msb m + 80
      let r := isqrt (2 ^ (2 * k) / m)
      .num false (2 * r + (if r * r * m = 2 ^ (2 * k) then 0 else 1)) (-h - k - 1)

end Sys2Proof.Machine
end

