-- ==== Sys2Proof/Machine/VectorUnit.lean ====
section
/-! DEFINITION. The V slot (R162 to R164): loads, stores, lane arithmetic, comparison, selection, conversion, SEED. -/

namespace Sys2Proof.Machine

/-- A lane operation under a predicate: lanes whose Q bit is 0 keep their old value (R163). -/
def maskLanes (q : Word) (old new : Lanes) : Lanes := lanes fun i => if q.getLsbD i then lane new i else lane old i

/-- A V-slot instruction that writes VD lane by lane under Q. -/
def vecOp (c : CoreId) (i : Instr) (s : State) (vd : BitVec 5) (q : BitVec 3) (f : Regs → Nat → Lane) : State :=
  runUnit c .v i s fun x s =>
    some (wr x (fun k => k.setV vd (maskLanes (x.regs.qr q) (k.vr vd) (lanes (f x.regs)))) s)

/-- One binary32 operation on exact values, rounded once in MODE (R163). -/
def lane2 (mode : BitVec 2) (f : Val → Val → Val) (a b : Lane) : Lane := toLane mode.toNat (f (laneVal a) (laneVal b))

/-- One binary32 operation of one argument, rounded once in MODE (R163). -/
def lane1 (mode : BitVec 2) (f : Val → Val) (a : Lane) : Lane := toLane mode.toNat (f (laneVal a))

/-- VADD (R162). -/
def execVadd (c : CoreId) (vd va vb : BitVec 5) (q : BitVec 3) (mode : BitVec 2) (s : State) : Out :=
  let i := Instr.vadd c vd va vb q mode
  guardWf i (vecOp c i s vd q fun r n => lane2 mode Val.add (lane (r.vr va) n) (lane (r.vr vb) n))

/-- VSUB (R162). -/
def execVsub (c : CoreId) (vd va vb : BitVec 5) (q : BitVec 3) (mode : BitVec 2) (s : State) : Out :=
  let i := Instr.vsub c vd va vb q mode
  guardWf i (vecOp c i s vd q fun r n => lane2 mode (fun a b => a.add b.neg) (lane (r.vr va) n) (lane (r.vr vb) n))

/-- VMUL (R162). -/
def execVmul (c : CoreId) (vd va vb : BitVec 5) (q : BitVec 3) (mode : BitVec 2) (s : State) : Out :=
  let i := Instr.vmul c vd va vb q mode
  guardWf i (vecOp c i s vd q fun r n => lane2 mode Val.mul (lane (r.vr va) n) (lane (r.vr vb) n))

/-- VFMA (R162): VA × VB + VC, rounded once. -/
def execVfma (c : CoreId) (vd va vb vc : BitVec 5) (q : BitVec 3) (mode : BitVec 2) (s : State) : Out :=
  let i := Instr.vfma c vd va vb vc q mode
  guardWf i (vecOp c i s vd q fun r n =>
    toLane mode.toNat (((laneVal (lane (r.vr va) n)).mul (laneVal (lane (r.vr vb) n))).add (laneVal (lane (r.vr vc) n))))

/-- The IEEE 754 maximum of two lanes: NaN if either is, −0 below +0 (R163). -/
def laneMax (a b : Lane) : Lane :=
  let x := laneVal a
  let y := laneVal b
  if x.isNan || y.isNan then 0x7FC00000#32
  else if x.lt y then b else if y.lt x then a else if a.msb then b else a

/-- The IEEE 754 minimum of two lanes (R163). -/
def laneMin (a b : Lane) : Lane :=
  let x := laneVal a
  let y := laneVal b
  if x.isNan || y.isNan then 0x7FC00000#32
  else if x.lt y then a else if y.lt x then b else if a.msb then a else b

/-- VMAX (R163). -/
def execVmax (c : CoreId) (vd va vb : BitVec 5) (q : BitVec 3) (s : State) : Out :=
  .next (vecOp c (.vmax c vd va vb q) s vd q fun r n => laneMax (lane (r.vr va) n) (lane (r.vr vb) n))

/-- VMIN (R163). -/
def execVmin (c : CoreId) (vd va vb : BitVec 5) (q : BitVec 3) (s : State) : Out :=
  .next (vecOp c (.vmin c vd va vb q) s vd q fun r n => laneMin (lane (r.vr va) n) (lane (r.vr vb) n))

/-- Absolute value of a lane: only the sign of a number changes; a NaN gives the canonical NaN (R163). -/
def laneAbs (a : Lane) : Lane := if (laneVal a).isNan then 0x7FC00000#32 else a &&& 0x7FFFFFFF#32

/-- Negation of a lane (R163). -/
def laneNeg (a : Lane) : Lane := if (laneVal a).isNan then 0x7FC00000#32 else a ^^^ 0x80000000#32

/-- VABS (R163). -/
def execVabs (c : CoreId) (vd va : BitVec 5) (q : BitVec 3) (s : State) : Out :=
  .next (vecOp c (.vabs c vd va q) s vd q fun r n => laneAbs (lane (r.vr va) n))

/-- VNEG (R163). -/
def execVneg (c : CoreId) (vd va : BitVec 5) (q : BitVec 3) (s : State) : Out :=
  .next (vecOp c (.vneg c vd va q) s vd q fun r n => laneNeg (lane (r.vr va) n))

/-- VEXP (R163). -/
def execVexp (c : CoreId) (vd va : BitVec 5) (q : BitVec 3) (mode : BitVec 2) (s : State) : Out :=
  let i := Instr.vexp c vd va q mode
  guardWf i (vecOp c i s vd q fun r n => lane1 mode Val.exp (lane (r.vr va) n))

/-- VLOG (R163). -/
def execVlog (c : CoreId) (vd va : BitVec 5) (q : BitVec 3) (mode : BitVec 2) (s : State) : Out :=
  let i := Instr.vlog c vd va q mode
  guardWf i (vecOp c i s vd q fun r n => lane1 mode Val.log (lane (r.vr va) n))

/-- VRCP (R163). -/
def execVrcp (c : CoreId) (vd va : BitVec 5) (q : BitVec 3) (mode : BitVec 2) (s : State) : Out :=
  let i := Instr.vrcp c vd va q mode
  guardWf i (vecOp c i s vd q fun r n => lane1 mode Val.rcp (lane (r.vr va) n))

/-- VRSQ (R163). -/
def execVrsq (c : CoreId) (vd va : BitVec 5) (q : BitVec 3) (mode : BitVec 2) (s : State) : Out :=
  let i := Instr.vrsq c vd va q mode
  guardWf i (vecOp c i s vd q fun r n => lane1 mode Val.rsq (lane (r.vr va) n))

/-- VCMP (R162): bit i of QD is the comparison of lane i; lanes whose Q bit is 0 give 0. -/
def execVcmp (c : CoreId) (qd : BitVec 3) (va vb : BitVec 5) (cc : BitVec 3) (q : BitVec 3) (s : State) : Out :=
  let i := Instr.vcmp c qd va vb cc q
  guardWf i (runUnit c .v i s fun x s =>
    some (wr x (fun k => k.setQ qd (maskOf fun n => (x.regs.qr q).getLsbD n &&
      vcmpCond cc (lane (x.regs.vr va) n) (lane (x.regs.vr vb) n))) s))

/-- VSEL (R162): lane i of VA where Q bit i is 1, else of VB. The lane is copied bit for bit, a NaN pattern too: R162 calls it a choice
of lanes, R163 says what an operation writes (DESIGN CHOICE, assumption 25). -/
def execVsel (c : CoreId) (vd va vb : BitVec 5) (q : BitVec 3) (s : State) : Out :=
  .next (runUnit c .v (.vsel c vd va vb q) s fun x s =>
    some (wr x (fun k => k.setV vd (lanes fun n =>
      if (x.regs.qr q).getLsbD n then lane (x.regs.vr va) n else lane (x.regs.vr vb) n)) s))

/-- VSPLAT (R162): bits 31:0 of GA as they are, a NaN pattern too (DESIGN CHOICE, assumption 25). -/
def execVsplat (c : CoreId) (vd : BitVec 5) (ga : BitVec 6) (s : State) : Out :=
  .next (runUnit c .v (.vsplat c vd ga) s fun x s =>
    some (wr x (fun k => k.setV vd (lanes fun _ => (x.regs.gr ga).setWidth 32)) s))

/-- VAMAX (R162): the largest |lane| of the active lanes, +0 where none is active, canonical NaN where one is NaN. -/
def amax (q : Word) (v : Lanes) : Lane :=
  (List.range 64).foldl (fun m i => if q.getLsbD i then laneMax m (laneAbs (lane v i)) else m) 0#32

/-- VAMAX (R162). -/
def execVamax (c : CoreId) (gd : BitVec 6) (va : BitVec 5) (q : BitVec 3) (s : State) : Out :=
  .next (runUnit c .v (.vamax c gd va q) s fun x s =>
    some (wr x (fun k => k.setG gd ((amax (x.regs.qr q) (x.regs.vr va)).setWidth 64)) s))

/-- The conversions of the active lanes of a vector into a plain format. -/
def convLanes (el : Elem) (mode : BitVec 2) (q : Word) (v : Lanes) : List (Option Conv) :=
  (List.range 64).map fun i => if q.getLsbD i then some (convert el mode.toNat (laneVal (lane v i))) else none

/-- The vector unit's status bits after conversions (R63, R65, R163). -/
def vecStatus (c : CoreId) (cs : List (Option Conv)) (s : State) : State :=
  let s := if cs.any fun o => (o.map (·.ovf)).getD false then s.setFld (Fld.VEC_STATUS_OVF c) 1 else s
  if cs.any fun o => (o.map (·.nanInt)).getD false then s.setFld (Fld.VEC_STATUS_NAN_INT8 c) 1 else s

/-- VCVT (R162): rounds each lane into plain FMT and decodes it exactly back. -/
def execVcvt (c : CoreId) (vd va : BitVec 5) (fmt : BitVec 4) (mode : BitVec 2) (q : BitVec 3) (s : State) : Out :=
  let i := Instr.vcvt c vd va fmt mode q
  guardWf i (runUnit c .v i s fun x s =>
    match fmtElem fmt with
    | none => some s
    | some el =>
      let cs := convLanes el mode (x.regs.qr q) (x.regs.vr va)
      let back := lanes fun n => match cs.getD n none with
        | some cv => toLane 0 (decodeElem el cv.bits none).val
        | none => 0#32
      some (wr x (fun k => k.setV vd (maskLanes (x.regs.qr q) (k.vr vd) back)) (vecStatus c cs s)))

/-- Lanes loaded from a line in error keep their old value (R223). -/
def keepLost (a w : Nat) (lost : List Nat) (old new : Lanes) : Lanes :=
  if lost.isEmpty then new else lanes fun n => if lost.contains ((a + n * w) / 64) then lane old n else lane new n

/-- VLD (R162): 64 consecutive elements of a plain format, decoded exactly to FP32 (R57, R65). -/
def execVld (c : CoreId) (vd : BitVec 5) (p : BitVec 4) (off : BitVec 16) (fmt : BitVec 4) (s : State) : Out :=
  let i := Instr.vld c vd p off fmt
  guardWf i (runUnit c .v i s fun x s =>
    match fmtElem fmt with
    | none => some s
    | some el =>
      let a := vecAddr (x.regs.pr p) off
      (readScr x [(a, 64 * el.width / 8)] s).bind fun view lost s =>
        some (wr x (fun k => k.setV vd (keepLost a (el.width / 8) lost (k.vr vd) (lanes fun n =>
          toLane 0 (decodeElem el (view.le (a + n * (el.width / 8)) (el.width / 8)) none).val))) s))

/-- VST (R162): converts the lanes to plain FMT and stores those whose Q bit is 1. -/
def execVst (c : CoreId) (va : BitVec 5) (p : BitVec 4) (off : BitVec 16) (fmt : BitVec 4) (mode : BitVec 2)
    (q : BitVec 3) (s : State) : Out :=
  let i := Instr.vst c va p off fmt mode q
  guardWf i (runUnit c .v i s fun x s =>
    match fmtElem fmt with
    | none => some s
    | some el =>
      let a := vecAddr (x.regs.pr p) off
      let n := el.width / 8
      (checkWrites x [(a, 64 * n)] s).bind fun s =>
        let cs := convLanes el mode (x.regs.qr q) (x.regs.vr va)
        let bs := cs.flatMap fun o => match o with
          | some cv => (leBytes n cv.bits).map some
          | none => List.replicate n none
        some (writeScrMasked x a bs (vecStatus c cs s)))

/-- SEED (R164): one word of a Philox draw per lane, keyed by the job seed or the current slot's subkey. -/
def execSeed (c : CoreId) (vd : BitVec 5) (ga : BitVec 6) (tag : BitVec 16) (pur : BitVec 4) (w : BitVec 2) (sc : Bool)
    (s : State) : Out :=
  let i := Instr.seed c vd ga tag pur w sc
  guardWf i (runUnit c .v i s fun x s =>
    let key := if sc then SMap.get 0 s.subkeys x.regs.slot.toNat else s.seed
    let step := BitVec.ofNat 32 (s.fld Fld.SCN_STEP_STEP)
    some (wr x (fun k => k.setV vd (lanes fun n =>
      philoxWord key (seedCounter ((x.regs.gr ga).setWidth 48 + BitVec.ofNat 48 n) 0 pur tag step) w.toNat)) s))

end Sys2Proof.Machine
end

