-- ==== Sys2Proof/Machine/Dispatch.lean ====
section
/-! DEFINITION. One arm per command: its effect on everything but the queue (assumption 4). -/

namespace Sys2Proof.Machine

/-- Run one command. -/
def exec (i : Instr) (s : State) : Host.Outcome State Fault Refusal :=
  match i with
  | .bundleIssue c => Sys2Proof.Machine.execBundleIssue c s
  | .mma c acc a b ovw => Sys2Proof.Machine.execMma c acc a b ovw s
  | .mmat c acc a b ovw ts => Sys2Proof.Machine.execMmat c acc a b ovw ts s
  | .partialIntake c => Sys2Proof.Machine.execPartialIntake c s
  | .drain c acc dst sa sb fmt mode scl keep => Sys2Proof.Machine.execDrain c acc dst sa sb fmt mode scl keep s
  | .spill c acc => Sys2Proof.Machine.execSpill c acc s
  | .fill c acc => Sys2Proof.Machine.execFill c acc s
  | .fenceRelease c => Sys2Proof.Machine.execFenceRelease c s
  | .residueComparison c => Sys2Proof.Machine.execResidueComparison c s
  | .vxsum c acc v q ovw row col g => Sys2Proof.Machine.execVxsum c acc v q ovw row col g s
  | .vxacc c acc v q ovw row h g => Sys2Proof.Machine.execVxacc c acc v q ovw row h g s
  | .vld c vd p off fmt => Sys2Proof.Machine.execVld c vd p off fmt s
  | .vst c va p off fmt mode q => Sys2Proof.Machine.execVst c va p off fmt mode q s
  | .vadd c vd va vb q mode => Sys2Proof.Machine.execVadd c vd va vb q mode s
  | .vsub c vd va vb q mode => Sys2Proof.Machine.execVsub c vd va vb q mode s
  | .vmul c vd va vb q mode => Sys2Proof.Machine.execVmul c vd va vb q mode s
  | .vfma c vd va vb vc q mode => Sys2Proof.Machine.execVfma c vd va vb vc q mode s
  | .vmax c vd va vb q => Sys2Proof.Machine.execVmax c vd va vb q s
  | .vmin c vd va vb q => Sys2Proof.Machine.execVmin c vd va vb q s
  | .vabs c vd va q => Sys2Proof.Machine.execVabs c vd va q s
  | .vneg c vd va q => Sys2Proof.Machine.execVneg c vd va q s
  | .vexp c vd va q mode => Sys2Proof.Machine.execVexp c vd va q mode s
  | .vlog c vd va q mode => Sys2Proof.Machine.execVlog c vd va q mode s
  | .vrcp c vd va q mode => Sys2Proof.Machine.execVrcp c vd va q mode s
  | .vrsq c vd va q mode => Sys2Proof.Machine.execVrsq c vd va q mode s
  | .vcmp c qd va vb cc q => Sys2Proof.Machine.execVcmp c qd va vb cc q s
  | .vsel c vd va vb q => Sys2Proof.Machine.execVsel c vd va vb q s
  | .vcvt c vd va fmt mode q => Sys2Proof.Machine.execVcvt c vd va fmt mode q s
  | .vsplat c vd ga => Sys2Proof.Machine.execVsplat c vd ga s
  | .vamax c gd va q => Sys2Proof.Machine.execVamax c gd va q s
  | .seed c vd ga tag pur w sc => Sys2Proof.Machine.execSeed c vd ga tag pur w sc s
  | .dmov c ps pd gl => Sys2Proof.Machine.execDmov c ps pd gl s
  | .dmovi c ps pd len => Sys2Proof.Machine.execDmovi c ps pd len s
  | .dataMoverLine c k => Sys2Proof.Machine.execDataMoverLine c k s
  | .stash c v enc ff g plan => Sys2Proof.Machine.execStash c v enc ff g plan s
  | .unstash c vd enc ff plan => Sys2Proof.Machine.execUnstash c vd enc ff plan s
  | .frameSpill c => Sys2Proof.Machine.execFrameSpill c s
  | .frameSpillDone c => Sys2Proof.Machine.execFrameSpillDone c s
  | .frameReadbackDone c => Sys2Proof.Machine.execFrameReadbackDone c s
  | .send c x ps => Sys2Proof.Machine.execSend c x ps s
  | .recv c x pd => Sys2Proof.Machine.execRecv c x pd s
  | .recvComplete c x => Sys2Proof.Machine.execRecvComplete c x s
  | .gather c x pd => Sys2Proof.Machine.execGather c x pd s
  | .gatherComplete c x => Sys2Proof.Machine.execGatherComplete c x s
  | .xred c x acc => Sys2Proof.Machine.execXred c x acc s
  | .xredComplete c x => Sys2Proof.Machine.execXredComplete c x s
  | .transferAnchor c x => Sys2Proof.Machine.execTransferAnchor c x s
  | .lateTransferLaunch c x => Sys2Proof.Machine.execLateTransferLaunch c x s
  | .loop c n len => Sys2Proof.Machine.execLoop c n len s
  | .jmp c q neg off => Sys2Proof.Machine.execJmp c q neg off s
  | .wait c n => Sys2Proof.Machine.execWait c n s
  | .phase c tag => Sys2Proof.Machine.execPhase c tag s
  | .confirm c gd => Sys2Proof.Machine.execConfirm c gd s
  | .confirmOutcome c => Sys2Proof.Machine.execConfirmOutcome c s
  | .squash c => Sys2Proof.Machine.execSquash c s
  | .admitRegion c gd x => Sys2Proof.Machine.execAdmit c gd x s
  | .admitComplete c => Sys2Proof.Machine.execAdmitComplete c s
  | .slot c n => Sys2Proof.Machine.execSlot c n s
  | .gets c gd sr => Sys2Proof.Machine.execGets c gd sr s
  | .posadd c imm => Sys2Proof.Machine.execPosadd c imm s
  | .movi c gd imm sh kp => Sys2Proof.Machine.execMovi c gd imm sh kp s
  | .addi c gd ga imm => Sys2Proof.Machine.execAddi c gd ga imm s
  | .add c gd ga gb => Sys2Proof.Machine.execAdd c gd ga gb s
  | .sub c gd ga gb => Sys2Proof.Machine.execSub c gd ga gb s
  | .and c gd ga gb => Sys2Proof.Machine.execAnd c gd ga gb s
  | .or c gd ga gb => Sys2Proof.Machine.execOr c gd ga gb s
  | .xor c gd ga gb => Sys2Proof.Machine.execXor c gd ga gb s
  | .shl c gd ga gb => Sys2Proof.Machine.execShl c gd ga gb s
  | .shr c gd ga gb => Sys2Proof.Machine.execShr c gd ga gb s
  | .sar c gd ga gb => Sys2Proof.Machine.execSar c gd ga gb s
  | .mul c gd ga gb => Sys2Proof.Machine.execMul c gd ga gb s
  | .cmp c qd ga gb cc => Sys2Proof.Machine.execCmp c qd ga gb cc s
  | .padd c pd pa gb => Sys2Proof.Machine.execPadd c pd pa gb s
  | .pset c pd ga => Sys2Proof.Machine.execPset c pd ga s
  | .pget c gd pa => Sys2Proof.Machine.execPget c gd pa s
  | .tld c t idx => Sys2Proof.Machine.execTld c t idx s
  | .tadj c t fld ga => Sys2Proof.Machine.execTadj c t fld ga s
  | .cue => Sys2Proof.Machine.execCue s
  | .cueHoldover => Sys2Proof.Machine.execCueHoldover s
  | .idleTick => Sys2Proof.Machine.execIdleTick s
  | .syncPacketEmit => Sys2Proof.Machine.execSyncPacketEmit s
  | .announcementEmit => Sys2Proof.Machine.execAnnouncementEmit s
  | .finalAnnouncement => Sys2Proof.Machine.execFinalAnnouncement s
  | .timing k p => Sys2Proof.Machine.execTiming k p s
  | .halt k p => Sys2Proof.Machine.execHalt k p s
  | .notice k p => Sys2Proof.Machine.execNotice k p s
  | .timCaptRead part => Sys2Proof.Machine.execTimCaptRead part s
  | .packetForward k p => Sys2Proof.Machine.execPacketForward k p s
  | .write k p => Sys2Proof.Machine.execWrite k p s
  | .shard k p => Sys2Proof.Machine.execShard k p s
  | .shardRequest k p => Sys2Proof.Machine.execShardRequest k p s
  | .shardServe => Sys2Proof.Machine.execShardServe s
  | .xp k p => Sys2Proof.Machine.execXp k p s
  | .xpAbsorb k p => Sys2Proof.Machine.execXpAbsorb k p s
  | .reducerEmit d x => Sys2Proof.Machine.execReducerEmit d x s
  | .rdReq k p => Sys2Proof.Machine.execRdReq k p s
  | .wrReq k p => Sys2Proof.Machine.execWrReq k p s
  | .requestServe => Sys2Proof.Machine.execRequestServe s
  | .rdRsp k p => Sys2Proof.Machine.execRdRsp k p s
  | .wrAck k p => Sys2Proof.Machine.execWrAck k p s
  | .requestTimeout tag => Sys2Proof.Machine.execRequestTimeout tag s
  | .creditReturn k vl sub res lscene => Sys2Proof.Machine.execCreditReturn k vl sub res lscene s
  | .flit k fec crc mgmt bytes => Sys2Proof.Machine.execFlit k fec crc mgmt bytes s
  | .linkDown k => Sys2Proof.Machine.execLinkDown k s
  | .linkDetectProbe k found => Sys2Proof.Machine.execLinkDetectProbe k found s
  | .capabilityExchange k rev gen type id port => Sys2Proof.Machine.execCapabilityExchange k rev gen type id port s
  | .equaliseDone k => Sys2Proof.Machine.execEqualiseDone k s
  | .measureDone k probes => Sys2Proof.Machine.execMeasureDone k probes s
  | .verifyDone k => Sys2Proof.Machine.execVerifyDone k s
  | .trainingRetry k => Sys2Proof.Machine.execTrainingRetry k s
  | .witnessRunStart w => Sys2Proof.Machine.execWitnessRunStart w s
  | .witnessRunDone w => Sys2Proof.Machine.execWitnessRunDone w s
  | .nop => Sys2Proof.Machine.execNop s
  | .loadBooks => Sys2Proof.Machine.execLoadBooks s
  | .loadBooksDone => Sys2Proof.Machine.execLoadBooksDone s
  | .startRun => Sys2Proof.Machine.execStartRun s
  | .setPower => Sys2Proof.Machine.execSetPower s
  | .powerStepDone => Sys2Proof.Machine.execPowerStepDone s
  | .bindSlot => Sys2Proof.Machine.execBindSlot s
  | .unbindSlot => Sys2Proof.Machine.execUnbindSlot s
  | .datapos => Sys2Proof.Machine.execDatapos s
  | .checkpoint => Sys2Proof.Machine.execCheckpoint s
  | .checkpointSnapshot => Sys2Proof.Machine.execCheckpointSnapshot s
  | .checkpointDone => Sys2Proof.Machine.execCheckpointDone s
  | .restore => Sys2Proof.Machine.execRestore s
  | .restoreDone => Sys2Proof.Machine.execRestoreDone s
  | .restoreAlign => Sys2Proof.Machine.execRestoreAlign s
  | .debugUnlock => Sys2Proof.Machine.execDebugUnlock s
  | .tokenEvaluation => Sys2Proof.Machine.execTokenEvaluation s
  | .abort => Sys2Proof.Machine.execAbort s
  | .reservedCommand => Sys2Proof.Machine.execReservedCommand s
  | .queuedNoticePost => Sys2Proof.Machine.execQueuedNoticePost s
  | .telemetryRecordStore ring c => Sys2Proof.Machine.execTelemetryRecordStore ring c s
  | .flr => Sys2Proof.Machine.execFlr s
  | .d3hot enter => Sys2Proof.Machine.execD3hot enter s
  | .getVersion => Sys2Proof.Machine.execGetVersion s
  | .getCapabilities => Sys2Proof.Machine.execGetCapabilities s
  | .negotiateAlgorithms => Sys2Proof.Machine.execNegotiateAlgorithms s
  | .getDigests => Sys2Proof.Machine.execGetDigests s
  | .getCertificate slot off len => Sys2Proof.Machine.execGetCertificate slot off len s
  | .challenge slot => Sys2Proof.Machine.execChallenge slot s
  | .getMeasurements index sign => Sys2Proof.Machine.execGetMeasurements index sign s
  | .serviceBusTransfer new => Sys2Proof.Machine.execServiceBusTransfer new s
  | .registerWrite a v => Sys2Proof.Machine.execRegisterWrite a v s
  | .scnLenWrite len => Sys2Proof.Machine.execScnLenWrite len s
  | .clearHalt => Sys2Proof.Machine.execClearHalt s
  | .timRoleWrite root => Sys2Proof.Machine.execTimRoleWrite root s
  | .timCtrlWrite en => Sys2Proof.Machine.execTimCtrlWrite en s
  | .timEpochWrite t => Sys2Proof.Machine.execTimEpochWrite t s
  | .timCueParentWrite port => Sys2Proof.Machine.execTimCueParentWrite port s
  | .timCueChildWrite mask => Sys2Proof.Machine.execTimCueChildWrite mask s
  | .cfrOvfWrite c size v => Sys2Proof.Machine.execCfrOvfWrite c size v s
  | .cfgHistWrite count v => Sys2Proof.Machine.execCfgHistWrite count v s
  | .hstTelBaseWrite v => Sys2Proof.Machine.execHstTelBaseWrite v s
  | .hstCplHeadWrite head => Sys2Proof.Machine.execHstCplHeadWrite head s
  | .msixTableWrite ix wide v => Sys2Proof.Machine.execMsixTableWrite ix wide v s
  | .svcArbWrite r v => Sys2Proof.Machine.execSvcArbWrite r v s
  | .discardQ => Sys2Proof.Machine.execDiscardQ s
  | .pinClear => Sys2Proof.Machine.execPinClear s
  | .pinTest => Sys2Proof.Machine.execPinTest s
  | .trlInjectRes c => Sys2Proof.Machine.execTrlInjectRes c s
  | .trlInjectSec c => Sys2Proof.Machine.execTrlInjectSec c s
  | .cfrInjectSec c => Sys2Proof.Machine.execCfrInjectSec c s
  | .spdInjectSec c => Sys2Proof.Machine.execSpdInjectSec c s
  | .memInjectSym stack => Sys2Proof.Machine.execMemInjectSym stack s
  | .klInjectCrc k => Sys2Proof.Machine.execKlInjectCrc k s
  | .klInjectFec k => Sys2Proof.Machine.execKlInjectFec k s
  | .xclInjectRes => Sys2Proof.Machine.execXclInjectRes s
  | .rhsInjectDigest => Sys2Proof.Machine.execRhsInjectDigest s
  | .retrain k => Sys2Proof.Machine.execRetrain k s
  | .scnDbgHaltWrite high v => Sys2Proof.Machine.execScnDbgHaltWrite high v s
  | .fabHopmapWrite ix v => Sys2Proof.Machine.execFabHopmapWrite ix v s
  | .fabResWrite r v => Sys2Proof.Machine.execFabResWrite r v s
  | .xclRctxCfgWrite ix v => Sys2Proof.Machine.execXclRctxCfgWrite ix v s
  | .wltTagWrite ix v => Sys2Proof.Machine.execWltTagWrite ix v s
  | .fltSrcCfgWrite ix v => Sys2Proof.Machine.execFltSrcCfgWrite ix v s
  | .selftest => Sys2Proof.Machine.execSelftest s
  | .selftestDone fails => Sys2Proof.Machine.execSelftestDone fails s
  | .zeroise => Sys2Proof.Machine.execZeroise s
  | .zeroisationDone => Sys2Proof.Machine.execZeroisationDone s
  | .debugLock => Sys2Proof.Machine.execDebugLock s
  | .fwCommit => Sys2Proof.Machine.execFwCommit s
  | .fwCommitDone readback => Sys2Proof.Machine.execFwCommitDone readback s
  | .svnAdvance => Sys2Proof.Machine.execSvnAdvance s
  | .entropySample pass => Sys2Proof.Machine.execEntropySample pass s
  | .tamper => Sys2Proof.Machine.execTamper s
  | .identityKeyGeneration key => Sys2Proof.Machine.execIdentityKeyGeneration key s
  | .certificateWrite device ca => Sys2Proof.Machine.execCertificateWrite device ca s
  | .deploy => Sys2Proof.Machine.execDeploy s
  | .perstAssert => Sys2Proof.Machine.execPerstAssert s
  | .perstDeassert mfg wp spare => Sys2Proof.Machine.execPerstDeassert mfg wp spare s
  | .stageDoorBootDone fails answers => Sys2Proof.Machine.execStageDoorBootDone fails answers s
  | .railRampDone => Sys2Proof.Machine.execRailRampDone s
  | .memoryClearDone failed => Sys2Proof.Machine.execMemoryClearDone failed s
  | .auxUndervoltage => Sys2Proof.Machine.execAuxUndervoltage s
  | .powerLoss => Sys2Proof.Machine.execPowerLoss s
  | .vinOvercurrent => Sys2Proof.Machine.execVinOvercurrent s
  | .railFault rail => Sys2Proof.Machine.execRailFault rail s
  | .sensorRead r => Sys2Proof.Machine.execSensorRead r s
  | .lockstep pair => Sys2Proof.Machine.execLockstep pair s
  | .tcmUncorr => Sys2Proof.Machine.execTcmUncorr s
  | .trst => Sys2Proof.Machine.execTrst s
  | .severe => Sys2Proof.Machine.execSevere s
  | .rehearsalDue => Sys2Proof.Machine.execRehearsalDue s
  | .forcedRehearsal c => Sys2Proof.Machine.execForcedRehearsal c s
  | .rehearsalStart c => Sys2Proof.Machine.execRehearsalStart c s
  | .rehearsalEnd c found => Sys2Proof.Machine.execRehearsalEnd c found s
  | .frostWatchWarm => Sys2Proof.Machine.execFrostWatchWarm s
  | .wiltAlarm => Sys2Proof.Machine.execWiltAlarm s
  | .wiltLong => Sys2Proof.Machine.execWiltLong s
  | .twinExchange => Sys2Proof.Machine.execTwinExchange s
  | .silent => Sys2Proof.Machine.execSilent s
  | .scrubRead => Sys2Proof.Machine.execScrubRead s
  | .commandWindowWrite off bytes => Sys2Proof.Machine.execCommandWindowWrite off bytes s
  | .powerUp mfg wp spare => Sys2Proof.Machine.execPowerUp mfg wp spare s
  | .pcieLinkTraining rate width flit => Sys2Proof.Machine.execPcieLinkTraining rate width flit s
  | .jtagDebug op => Sys2Proof.Machine.execJtagDebug op s

end Sys2Proof.Machine
end

