-- ==== Sys2Proof/Safety.lean ====
section
/-! DEFINITION. What counts as a safe state and a safe run, in the terms that the statements use. -/

namespace Sys2Proof.Safety

open Sys2Proof.Machine

/-- The device memory is in its canonical form: addresses rise strictly, and no byte is listed with the value that an
unlisted byte reads as. -/
def MemOk (s : State) : Prop := SMap.wf (fun _ => (0 : Byte)) s.mem = true

/-- The register store is in its canonical form: no register is listed with its reset value. -/
def RegsOk (s : State) : Prop := SMap.wf (fun a => regReset a) s.regs = true

/-- The code word store is in its canonical form: no code word is listed as correct. -/
def EccOk (s : State) : Prop := SMap.wf (fun _ => Ecc.ok) s.ecc = true

/-- The bytes of BAR2 are in their canonical form. -/
def WinOk (s : State) : Prop := SMap.wf (fun _ => (0 : Byte)) s.win = true

/-- The five register files of a core (R122) are in their canonical form. -/
def FilesOk (r : Regs) : Prop :=
  SMap.wf (fun _ => (0 : Word)) r.g = true ∧ SMap.wf (fun _ => (0 : Addr)) r.p = true ∧ SMap.wf (fun _ => zeroLanes) r.v = true ∧
    SMap.wf (fun _ => (0 : Word)) r.q = true ∧ SMap.wf (fun _ => (none : Option Desc)) r.t = true

/-- The register files of a core and the shadow of its open region (R135) are in their canonical form. -/
def CoreOk (k : Core) : Prop := FilesOk k.regs ∧ ∀ r, k.region = some r → FilesOk r.shadow

/-- The store of cores is in its canonical form, and so is every core in it. -/
def CoresOk (s : State) : Prop := SMap.wf (fun _ => ({} : Core)) s.cores = true ∧ ∀ e ∈ s.cores, CoreOk e.2

/-- The stores of the fabric, the reducers, the witness entries, the watches and the slots are in their canonical form. -/
structure StoresOk (links : SMap LinkSt) (used : SMap Nat) (red : SMap RedCtx) (wit : SMap WitRun) (frostX : SMap Nat)
    (wlt : SMap WiltCnt) (subkeys : SMap Word) : Prop where
  links : SMap.wf (fun _ => ({} : LinkSt)) links = true
  used : SMap.wf (fun _ => (0 : Nat)) used = true
  red : SMap.wf (fun _ => ({} : RedCtx)) red = true
  wit : SMap.wf (fun _ => ({} : WitRun)) wit = true
  frostX : SMap.wf (fun _ => (0 : Nat)) frostX = true
  wlt : SMap.wf (fun _ => ({} : WiltCnt)) wlt = true
  subkeys : SMap.wf (fun _ => (0 : Word)) subkeys = true

/-- A canonical state: equal contents are equal lists. -/
structure Canonical (s : State) : Prop where
  mem : MemOk s
  regs : RegsOk s
  ecc : EccOk s
  win : WinOk s
  cores : CoresOk s
  stores : StoresOk s.links s.fab.used s.red s.wit s.frostX s.wlt s.subkeys

/-! ### The start of an instruction, and what it may change -/

/-- A row of instruction `i` starts it in unit `u` of core `c` (R118): the cores run, and either the unit's queue is empty
and the registers are read as they stand, or `i` is the front entry, which leaves the queue with the registers that its
bundle read (R156). `x` is what the instruction works with and `s0` the state it starts from. -/
def Starts (c : CoreId) (u : UnitId) (i : Instr) (s : State) (x : Ctx) (s0 : State) : Prop :=
  s.live = true ∧
    (((s.core c).queue u = [] ∧ x = (s.core c).ctx c u s.cycle ∧ s0 = s.updCore c fun k => { k with issued := k.issued + 1 }) ∨
      ∃ e q, (s.core c).queue u = e :: q ∧ e.instr = i ∧ x = e.ctx c u ∧ s0 = s.updCore c fun k => k.setQueue u q)

/-- Two states that differ at most in core `c`: every other core, every register, every byte of memory and everything else
is the same. -/
structure OnlyCore (c : CoreId) (s t : State) : Prop where
  whole : t = s.setCore c (t.core c)
  cores : ∀ n, n ≠ c → t.core n = s.core n
  regs : ∀ a, t.reg a = s.reg a
  bytes : ∀ a, t.byte a = s.byte a

/-- Of a core, only the register files, the shadow of the open region, the unit queues, the issue count and the times from which late
results are available differ. -/
def FilesOnly (k l : Core) : Prop :=
  l = { k with
    regs := l.regs, region := l.region, uM := l.uM, uT := l.uT, uV := l.uV, uD := l.uD, uF := l.uF, uC := l.uC
    issued := l.issued, ready := l.ready }

/-- Two states with the same registers of the map and the same bytes of memory. -/
def SameMaps (s t : State) : Prop := (∀ a, t.reg a = s.reg a) ∧ ∀ a, t.byte a = s.byte a

/-- Every byte of memory outside the `n` bytes from `a` reads as before. -/
def BytesOutside (a n : Nat) (s t : State) : Prop := ∀ b, b < a ∨ a + n ≤ b → t.byte b = s.byte b

/-- Instruction `i` of unit `u` of core `c` delivers registers: the core's register files become `g` of what they were, and so
does the shadow of the open region unless the instruction was issued in it (R135); the instruction has left its queue; the times
from which its results are available are noted (R170); nothing else changes but the issue count. -/
structure Delivers (c : CoreId) (u : UnitId) (i : Instr) (x : Ctx) (g : Regs → Regs) (s t : State) : Prop where
  regs : (t.core c).regs = g (s.core c).regs
  region : (t.core c).region = (s.core c).region.map fun r =>
    if x.region = some r.ord then r else { r with shadow := g r.shadow }
  queue : ∀ w, (t.core c).queue w = if w = u then ((s.core c).queue w).drop 1 else (s.core c).queue w
  ready : (t.core c).ready = ((s.core c).deliver i s.cycle).ready
  files : FilesOnly (s.core c) (t.core c)
  only : OnlyCore c s t

/-! ### Runs -/

/-- A step that goes on. -/
def Goes (o : Host.Outcome State Fault Refusal) (s : State) : Prop := o = .next s

/-- A run of some steps from one state to another, each of which goes on. -/
inductive Run : State → State → Prop where
  | done (s : State) : Run s s
  | more {s t u : State} (h : Goes (step s) t) (r : Run t u) : Run s u

/-- The device has taken no uncorrectable error and stands in no protective stop (R321). -/
def Sound (s : State) : Prop := s.fld Fld.PWR_STATE_FAULT_STOP = 0 ∧ s.fld Fld.FLT_STATUS_SUSPECT = 0

end Sys2Proof.Safety
end

