-- ==== Sys2Proof/Certificates/Slice0/Obligations.lean ====
section
/-! DEFINITION. The statements, after the tables of rows that several of them share. -/

namespace Sys2Proof.Safety

open Sys2Proof.Machine

/-! ### What the rows compute -/

/-- The rows that give a g register the value of the registers alone: core, GD and the value (R167). -/
def scalarRow : Instr → Option (CoreId × BitVec 6 × (Regs → Word))
  | .movi c gd imm sh kp =>
    some (c, gd, fun r => if kp then bitsPut (r.gr gd) (16 * sh.toNat) 16 imm.toNat else BitVec.ofNat 64 (imm.toNat * 2 ^ (16 * sh.toNat)))
  | .addi c gd ga imm => some (c, gd, fun r => BitVec.ofInt 64 ((r.gr ga).toInt + imm.toInt))
  | .add c gd ga gb => some (c, gd, fun r => BitVec.ofNat 64 ((r.gr ga).toNat + (r.gr gb).toNat))
  | .sub c gd ga gb => some (c, gd, fun r => BitVec.ofInt 64 ((r.gr ga).toInt - (r.gr gb).toInt))
  | .and c gd ga gb => some (c, gd, fun r => r.gr ga &&& r.gr gb)
  | .or c gd ga gb => some (c, gd, fun r => r.gr ga ||| r.gr gb)
  | .xor c gd ga gb => some (c, gd, fun r => r.gr ga ^^^ r.gr gb)
  | .shl c gd ga gb => some (c, gd, fun r => BitVec.ofNat 64 ((r.gr ga).toNat * 2 ^ ((r.gr gb).toNat % 64)))
  | .shr c gd ga gb => some (c, gd, fun r => BitVec.ofNat 64 ((r.gr ga).toNat / 2 ^ ((r.gr gb).toNat % 64)))
  | .sar c gd ga gb => some (c, gd, fun r => BitVec.ofInt 64 ((r.gr ga).toInt / 2 ^ ((r.gr gb).toNat % 64)))
  | .mul c gd ga gb => some (c, gd, fun r => BitVec.ofNat 64 ((r.gr ga).toNat * (r.gr gb).toNat))
  | .pget c gd pa => some (c, gd, fun r => BitVec.ofNat 64 (r.pr pa).toNat)
  | _ => none

/-- The rows of the V slot that write VD lane by lane under Q: core, VD, Q and the lane (R162, R163). An arithmetic lane is the
exact result on the exact values of the operands, rounded once in MODE. -/
def laneRow : Instr → Option (CoreId × BitVec 5 × BitVec 3 × (Regs → Nat → Lane))
  | .vadd c vd va vb q m => some (c, vd, q, fun r n => toLane m.toNat ((laneVal (lane (r.vr va) n)).add (laneVal (lane (r.vr vb) n))))
  | .vsub c vd va vb q m =>
    some (c, vd, q, fun r n => toLane m.toNat ((laneVal (lane (r.vr va) n)).add (laneVal (lane (r.vr vb) n)).neg))
  | .vmul c vd va vb q m => some (c, vd, q, fun r n => toLane m.toNat ((laneVal (lane (r.vr va) n)).mul (laneVal (lane (r.vr vb) n))))
  | .vfma c vd va vb vc q m => some (c, vd, q, fun r n =>
      toLane m.toNat (((laneVal (lane (r.vr va) n)).mul (laneVal (lane (r.vr vb) n))).add (laneVal (lane (r.vr vc) n))))
  | .vmax c vd va vb q => some (c, vd, q, fun r n => laneMax (lane (r.vr va) n) (lane (r.vr vb) n))
  | .vmin c vd va vb q => some (c, vd, q, fun r n => laneMin (lane (r.vr va) n) (lane (r.vr vb) n))
  | .vabs c vd va q => some (c, vd, q, fun r n => laneAbs (lane (r.vr va) n))
  | .vneg c vd va q => some (c, vd, q, fun r n => laneNeg (lane (r.vr va) n))
  | .vexp c vd va q m => some (c, vd, q, fun r n => toLane m.toNat (laneVal (lane (r.vr va) n)).exp)
  | .vlog c vd va q m => some (c, vd, q, fun r n => toLane m.toNat (laneVal (lane (r.vr va) n)).log)
  | .vrcp c vd va q m => some (c, vd, q, fun r n => toLane m.toNat (laneVal (lane (r.vr va) n)).rcp)
  | .vrsq c vd va q m => some (c, vd, q, fun r n => toLane m.toNat (laneVal (lane (r.vr va) n)).rsq)
  | _ => none

/-- The truth of a CMP condition code (R167). -/
def cmpTruth (cc : BitVec 3) (a b : Word) : Bool :=
  match cc.toNat with
  | 0 => decide (a.toNat = b.toNat)
  | 1 => decide (a.toNat ≠ b.toNat)
  | 2 => decide (a.toInt < b.toInt)
  | 3 => decide (a.toNat < b.toNat)
  | 4 => decide (a.toInt ≤ b.toInt)
  | _ => decide (a.toNat ≤ b.toNat)

/-- The special registers of R168 in the order of their SR numbers. -/
def specialTable (x : Ctx) (s : State) : List Nat :=
  [s.fld Fld.SCN_COUNT_SCENE, s.cycle % 2 ^ 32, s.fld Fld.SCN_STEP_STEP, s.fld Fld.SCN_SEQ_POS, x.regs.slot.toNat,
    if s.fld (Fld.SCN_SLOT_ID_BOUND x.regs.slot.toNat) = 1 then s.fld (Fld.SCN_SLOT_POS_POS x.regs.slot.toNat) else 0,
    x.region.getD 0xFFFF, x.c.val, s.fld Fld.FAB_NODE_ID]

/-- The instructions that name a transfer table entry (R166): core, entry and the kind the entry must have. -/
def entryRow : Instr → Option (CoreId × BitVec 12 × Nat)
  | .send c x _ => some (c, x, 1)
  | .recv c x _ => some (c, x, 2)
  | .gather c x _ => some (c, x, 3)
  | .xred c x _ => some (c, x, 4)
  | .admitRegion c _ x => some (c, x, 5)
  | _ => none

end Sys2Proof.Safety

open Sys2Proof Sys2Proof.Machine Sys2Proof.Safety

/-! ### The queue, the outcomes and the stores -/

/-- A step takes the command at the front of the queue and runs it with the queue's rest. -/
def Obligations.StepRunsFront : Prop :=
  ∀ (c : Instr) (rest : List Instr) (s : State), step { s with pending := c :: rest } = exec c { s with pending := rest }

/-- On an empty queue one cycle of 3.6 GHz passes while the device keeps time, and a pulse on CUE_OUT may end; nothing else changes (the
model's choice, assumption 3). Without a slew the next clock edge comes 327,680 units on (327,680 / 18 / 65,536 ns); with one of at most 200 ppm
(R35), 65 units a cycle, the edge moves by the slew's part of the cycle, which is taken from what is left. -/
def Obligations.EmptyQueuePassesOneCycle : Prop :=
  ∀ s : State, s.pending = [] →
    (s.awake = false → step s = .next s) ∧
    (s.awake = true → ∃ t, step s = .next t ∧ t = { s with tim := t.tim, out := t.out } ∧ t.tim.now = max s.tim.now (s.tim.edgeIn 1) ∧
      (s.tim.pulse = none → t.out = s.out) ∧
      (s.tim.now ≤ s.tim.edgeIn 1 →
        (s.tim.slewLeft = 0 → t.tim.now = s.tim.edge + 327680 ∧ t.tim.edge = t.tim.now ∧ t.tim.ticks = s.tim.ticks + 1 ∧
          t.tim.slewLeft = 0) ∧
        (s.tim.slewRate.natAbs ≤ 65 → 0 < s.tim.slewRate * s.tim.slewLeft → ∃ d : Int,
          (d = s.tim.slewRate ∨ d = s.tim.slewLeft) ∧ d.natAbs ≤ 65 ∧ d.natAbs ≤ s.tim.slewLeft.natAbs ∧
          (t.tim.edge : Int) = s.tim.edge + 327680 + d ∧ t.tim.now = t.tim.edge ∧ t.tim.ticks = s.tim.ticks + 1 ∧
          t.tim.slewLeft = s.tim.slewLeft - d)))

/-- No command is refused, and the only fault is an illegal encoding, in these cases alone: a row of an instruction with a field value
that R172 lists, a bundle that breaks R172, or an X that names no entry of the instruction's kind (R166). A row of an instruction with a
field value that R172 lists stops as an illegal encoding in every state; a TADJ does not, because R173 gives one outside R157 its own
fault. -/
def Obligations.OnlyIllegalEncodingsStop : Prop :=
  (∀ (i : Instr) (s : State), (∃ t, exec i s = .next t) ∨ (exec i s = .fault .illegalEncoding ∧
    (i.wellFormed = false ∨ (∃ c, i = .bundleIssue c) ∨
      ∃ c x kind, entryRow i = some (c, x, kind) ∧ s.live = true ∧ (s.core c).xferOf x kind = none))) ∧
  (∀ (i : Instr) (s : State), i.wellFormed = false → (∀ c t fld ga, i ≠ .tadj c t fld ga) → exec i s = .fault .illegalEncoding)

/-- A command works on everything but the queue of commands. -/
def Obligations.CommandsKeepTheQueue : Prop :=
  ∀ (i : Instr) (s t : State), Canonical s → exec i s = .next t → t.pending = s.pending

/-- Every step keeps every store in its canonical form: memory, registers, code words, BAR2 and the cores' files. -/
def Obligations.StepsKeepCanonicalForm : Prop :=
  ∀ s t : State, Canonical s → step s = .next t → Canonical t

/-- The state after reset is canonical: no command, no write in shadow, no memory listed, no core that holds anything; and the fields below read
as the register tables, R308, R324 and R349 state. -/
def Obligations.ResetIsCanonical : Prop :=
  Canonical State.reset ∧ State.reset.pending = [] ∧ State.reset.pendT = [] ∧ State.reset.pendQ = [] ∧ State.reset.cmdEff = [] ∧
    State.reset.seedSet = false ∧ (∀ a, State.reset.byte a = 0) ∧ (∀ c, State.reset.core c = {}) ∧
    State.reset.fld Fld.SCN_LEN_LEN = 900000 ∧ State.reset.fld Fld.TIM_CUE_PARENT_PORT = 0x3F ∧ State.reset.fld Fld.HST_CMD_NEXT = 1 ∧
    State.reset.fld Fld.HST_TEL_BASE_BASE = 2 ^ 37 - 2 ^ 28 ∧ State.reset.fld Fld.RHS_CTRL_INTERVAL = 65536 ∧
    (List.range 8).map (fun i => (State.reset.fld (Fld.SVC_ARB_CLASS i), State.reset.fld (Fld.SVC_ARB_LIMIT i))) =
      [(1, 16), (2, 16), (2, 16), (3, 16), (1, 16), (0, 64), (1, 16), (3, 16)] ∧
    (List.range 5).map (fun i =>
      (State.reset.fld (Fld.FRW_IN_CFG_A i), State.reset.fld (Fld.FRW_IN_CFG_GAIN i), State.reset.fld (Fld.FRW_IN_CFG_CAP i))) =
      [(12, 4, 256), (12, 4, 256), (12, 1, 192), (16, 3200, 512), (4, 1, 128)]

/-! ### Scalar instructions -/

/-- The rows of R167 that write a g register read the registers as their bundle did (R156) and deliver GD, and nothing else. -/
def Obligations.ScalarRowsWriteOneG : Prop :=
  ∀ (i : Instr) (c : CoreId) (gd : BitVec 6) (f : Regs → Word) (s s0 : State) (x : Ctx),
    scalarRow i = some (c, gd, f) → Canonical s → Starts c .c i s x s0 →
      ∃ t, exec i s = .next t ∧ Delivers c .c i x (fun r => r.setG gd (f x.regs)) s t

/-- R171: a write of g0 or q0 changes nothing, so a row with GD = g0 leaves every register as it was; a row that names q0 as
QD is an illegal encoding. -/
def Obligations.WritesOfG0AndQ0AreIgnored : Prop :=
  (∀ (r : Regs) (v : Word), r.setG 0 v = r ∧ r.setQ 0 v = r ∧ r.gr 0 = 0 ∧ r.qr 0 = BitVec.allOnes 64) ∧
  (∀ (i : Instr) (c : CoreId) (f : Regs → Word) (s s0 : State) (x : Ctx), scalarRow i = some (c, 0, f) → Canonical s →
    Starts c .c i s x s0 → ∃ t, exec i s = .next t ∧ (t.core c).regs = (s.core c).regs) ∧
  (∀ (c : CoreId) (ga gb : BitVec 6) (cc : BitVec 3) (s : State), exec (.cmp c 0 ga gb cc) s = .fault .illegalEncoding) ∧
  (∀ (c : CoreId) (va vb : BitVec 5) (cc q : BitVec 3) (s : State), exec (.vcmp c 0 va vb cc q) s = .fault .illegalEncoding)

/-- CMP, PADD, PSET, TLD, SLOT and GETS each deliver one register of their own file (R145, R152, R167, R168). TADJ (R157): an adjustment
within the limits delivers the t register; one outside them, or a t register that holds no descriptor, writes no register and no memory
and stops the core (OPERAND_RANGE, R173). What TADJ adjusts (R157): ADDR for every role; XADDR of an operand or a destination; ROW0 and
COL0 of an accumulator and K0 of an operand within their limits, and no other field of the descriptor. POSADD (R145): outside a region it
waits with its slot for the next cue, in one for the region's close; on a slot that is not bound it has no effect. Registers and memory
stay as they were. -/
def Obligations.AddressAndSpecialRowsWrite : Prop :=
  (∀ (c : CoreId) (s s0 : State) (x : Ctx), Canonical s →
    (∀ qd ga gb cc, qd ≠ 0 → cc.toNat ≤ 5 → Starts c .c (.cmp c qd ga gb cc) s x s0 → ∃ t, exec (.cmp c qd ga gb cc) s = .next t ∧
      Delivers c .c (.cmp c qd ga gb cc) x (fun r => r.setQ qd (if cmpTruth cc (x.regs.gr ga) (x.regs.gr gb) then BitVec.allOnes 64 else 0)) s t) ∧
    (∀ pd pa gb, Starts c .c (.padd c pd pa gb) s x s0 → ∃ t, exec (.padd c pd pa gb) s = .next t ∧
      Delivers c .c (.padd c pd pa gb) x (fun r => r.setP pd (BitVec.ofNat 48 ((x.regs.pr pa).toNat + (x.regs.gr gb).toNat))) s t) ∧
    (∀ pd ga, Starts c .c (.pset c pd ga) s x s0 → ∃ t, exec (.pset c pd ga) s = .next t ∧
      Delivers c .c (.pset c pd ga) x (fun r => r.setP pd (BitVec.ofNat 48 (x.regs.gr ga).toNat)) s t) ∧
    (∀ n idx, Starts c .c (.tld c n idx) s x s0 → ∃ t, exec (.tld c n idx) s = .next t ∧
      Delivers c .c (.tld c n idx) x (fun r => r.setT n ((s.core c).poolAt idx.toNat)) s t) ∧
    (∀ n, Starts c .c (.slot c n) s x s0 → ∃ t, exec (.slot c n) s = .next t ∧
      Delivers c .c (.slot c n) x (fun r => { r with slot := n }) s t) ∧
    (∀ gd sr, sr.toNat ≤ 8 → Starts c .c (.gets c gd sr) s x s0 → ∃ t, exec (.gets c gd sr) s = .next t ∧
      Delivers c .c (.gets c gd sr) x (fun r => r.setG gd (BitVec.ofNat 64 ((specialTable x s).getD sr.toNat 0))) s t)) ∧
  (∀ (c : CoreId) (n : BitVec 4) (fld : BitVec 3) (ga : BitVec 6) (s s0 : State) (x : Ctx), Canonical s →
    Starts c .c (.tadj c n fld ga) s x s0 → ∃ t, exec (.tadj c n fld ga) s = .next t ∧
      match (x.regs.tr n).bind fun d => d.adjust fld (x.regs.gr ga) with
      | some d => Delivers c .c (.tadj c n fld ga) x (fun r => r.setT n d) s t
      | none => (t.core c).stopped = true ∧ (t.core c).regs = (s.core c).regs ∧ (∀ a, t.byte a = s.byte a) ∧
          ∀ k, k ≠ c → t.core k = s.core k) ∧
  (∀ (d e : Desc) (fld : BitVec 3) (ga : Word), d.adjust fld ga = some e →
    fld.toNat ≤ 5 ∧
    (fld = 0 → e = { d with addr := BitVec.ofInt 48 (d.addr.toInt + ga.toInt) }) ∧
    (fld = 1 → (d.isOperand = true ∨ d.isDst = true) ∧ e = { d with xaddr := BitVec.ofInt 48 (d.xaddr.toInt + ga.toInt) }) ∧
    (fld = 2 → d.isAcc = true ∧ (e.row0.toNat : Int) = d.row0.toNat + ga.toInt ∧ e = { d with row0 := e.row0 }) ∧
    (fld = 3 → d.isAcc = true ∧ (e.col0.toNat : Int) = d.col0.toNat + ga.toInt ∧ e = { d with col0 := e.col0 }) ∧
    (fld = 4 → d.isOperand = true ∧ (e.k0.toNat : Int) = d.k0.toNat + ga.toInt ∧ e.k0.toNat % 32 = 0 ∧ e = { d with k0 := e.k0 }) ∧
    (fld = 5 → d.isOperand = true ∧ e = { d with scale := BitVec.ofNat 32 ga.toNat })) ∧
  (∀ (c : CoreId) (imm : BitVec 16) (s s0 : State) (x : Ctx), Canonical s → Starts c .c (.posadd c imm) s x s0 →
    ∃ t, exec (.posadd c imm) s = .next t ∧ (t.core c).regs = (s.core c).regs ∧ SameMaps s t ∧
      (s.fld (Fld.SCN_SLOT_ID_BOUND x.regs.slot.toNat) ≠ 1 → t = s0) ∧
      (s.fld (Fld.SCN_SLOT_ID_BOUND x.regs.slot.toNat) = 1 →
        (inWings x s0 = false → t = { s0 with posadd := s.posadd ++ [(x.regs.slot, imm.toNat)] }) ∧
        (inWings x s0 = true → t.posadd = s.posadd ∧ ∀ r, (s.core c).region = some r →
          (t.core c).region = some { r with posadd := r.posadd ++ [(x.regs.slot, imm.toNat)] })))

/-! ### Control flow -/

/-- LOOP, JMP and WAIT (R119): a loop body follows the LOOP; a jump taken goes OFF bundles on and costs a cycle more; WAIT holds issue for
N + 1 cycles. Each changes its own core alone. PHASE (R142, R143): while fewer than 256 records of the scene wait, one of 32 bytes is
stamped with the scene, the cycle, the tag that the index names, the core, its slot and the step; beyond that the loss is counted. Registers
of the core and memory stay as they were. -/
def Obligations.ControlFlowAndPhaseRows : Prop :=
  (∀ (c : CoreId) (s s0 : State) (x : Ctx), Canonical s →
    (∀ n len, Starts c .c (.loop c n len) s x s0 → ∃ t, exec (.loop c n len) s = .next t ∧ OnlyCore c s t ∧
      t.core c = { s0.core c with
        loops := ⟨x.base (s.core c) + 1, x.base (s.core c) + 1 + len.toNat, n.toNat⟩ :: (s.core c).loops }) ∧
    (∀ q neg off, off ≠ 0 → Starts c .c (.jmp c q neg off) s x s0 → ∃ t, exec (.jmp c q neg off) s = .next t ∧ OnlyCore c s t ∧
      t.core c = if (x.regs.qr q).getLsbD 0 = neg then s0.core c else { s0.core c with
        pc := x.base (s.core c) + off.toNat, holdUntil := (s.core c).holdUntil + 1, compiled := (s.core c).compiled + 1 }) ∧
    (∀ n, Starts c .c (.wait c n) s x s0 → ∃ t, exec (.wait c n) s = .next t ∧ OnlyCore c s t ∧
      t.core c = { s0.core c with
        holdUntil := (s.core c).holdUntil + (n.toNat + 1), compiled := (s.core c).compiled + (n.toNat + 1) })) ∧
  (∀ (c : CoreId) (tag : BitVec 16) (s s0 : State) (x : Ctx), Canonical s → Starts c .c (.phase c tag) s x s0 →
    ∃ t, exec (.phase c tag) s = .next t ∧ (t.core c).regs = (s.core c).regs ∧ (∀ a, t.byte a = s.byte a) ∧
      ((s.core c).phases.length < 256 → ∃ r : List Byte, r.length = 32 ∧
        t = s0.updCore c (fun k => { k with phases := (s.core c).phases ++ [r], phaseLost := false }) ∧
        leNat (r.take 8) = s.fld Fld.SCN_COUNT_SCENE ∧ leNat ((r.drop 8).take 4) = s.cycle % 2 ^ 32 ∧ leNat ((r.drop 20).take 1) = c.val ∧
        leNat ((r.drop 22).take 1) = (s.core c).regs.slot.toNat ∧ leNat (r.drop 24) = s.fld Fld.SCN_STEP_STEP ∧
        ∀ b, (s.core c).book = some b → leNat ((r.drop 16).take 2) = b.phases.getD tag.toNat 0 % 65536) ∧
      (256 ≤ (s.core c).phases.length → (t.core c).phases = (s.core c).phases ∧ (t.core c).phaseLost = true ∧
        t.fld Fld.SCN_PHASE_LOST_COUNT = min (2 ^ Fld.SCN_PHASE_LOST_COUNT.w - 1) (s.fld Fld.SCN_PHASE_LOST_COUNT + 1)))

/-- BUNDLE_ISSUE (R118, R170): a core that can issue, whose next bundle is a legal one with its registers and queues ready, issues it at the
first cycle to which its issue is held and from which the results that it reads are available. The next bundle, no earlier than one
cycle on, is the one that R119 gives, and each slot but a PHASE joins the end of its unit's queue with the registers as they stand where
the predicate holds (R156). A bundle with SPEC opens a region, whose shadow is the registers as they stand (R135). -/
def Obligations.BundleIssues : Prop :=
  ∀ (c : CoreId) (s s1 : State) (b : Bundle) (ins : List (UnitId × Instr)), Canonical s → canIssue s (s.core c) = true →
    s.uncorr (bundleAddr c (s.core c) (s.core c).pc) 32 = false → s.corrCount (bundleAddr c (s.core c) (s.core c).pc) 32 = 0 →
    b = decodeBundle c (BitVec.ofNat 256 (s.le (bundleAddr c (s.core c) (s.core c).pc) 32)) →
    bundleSlots b = some ins → doubleWrite ins = false → (b.hdr.spec = true → (s.core c).region = none) →
    (s.core c).pendingRegs.contains (.q b.hdr.pq.toNat) = false → issueWaits (s.core c) ins = false →
    s1 = advanceTo (s.cycleAt (issueAt (s.core c) b ins)) s →
    ∃ t, exec (.bundleIssue c) s = .next t ∧ t.tim = s1.tim ∧ (∀ a, t.byte a = s.byte a) ∧ (∀ k, k ≠ c → t.core k = s.core k) ∧
      (t.core c).regs = (s.core c).regs ∧ (t.core c).pc = (nextPc (s.core c).loops (s.core c).pc).1 ∧
      (t.core c).loops = (nextPc (s.core c).loops (s.core c).pc).2 ∧ (t.core c).holdUntil = s1.cycle + 1 ∧
      (t.core c).atCueWait = b.hdr.cue ∧ (b.hdr.spec = false → (t.core c).region = (s.core c).region) ∧
      (b.hdr.spec = true → ∃ r, (t.core c).region = some r ∧ r.ord = (s.core c).nextOrd ∧ r.shadow = (s.core c).regs) ∧
      ∀ u, ∃ l, (t.core c).queue u = (s.core c).queue u ++ l ∧
        l.map (·.instr) = (if ((s.core c).regs.qr b.hdr.pq).getLsbD 0 = b.hdr.pneg then []
          else (ins.filter fun p => decide (p.1 = u) && match p.2 with | .phase .. => false | _ => true).map (·.2)) ∧
        ∀ e ∈ l, e.regs = (s.core c).regs ∧ e.bundle = (s.core c).pc ∧ e.at_ = s1.cycle

namespace Sys2Proof.Safety

open Sys2Proof.Machine

/-- The V registers that a lane of `laneRow` reads. -/
def laneSources : Instr → List (BitVec 5)
  | .vadd _ _ va vb _ _ | .vsub _ _ va vb _ _ | .vmul _ _ va vb _ _ | .vmax _ _ va vb _ | .vmin _ _ va vb _ => [va, vb]
  | .vfma _ _ va vb vc _ _ => [va, vb, vc]
  | .vabs _ _ va _ | .vneg _ _ va _ | .vexp _ _ va _ _ | .vlog _ _ va _ _ | .vrcp _ _ va _ _ | .vrsq _ _ va _ _ => [va]
  | _ => []

/-- Every code word is correct, and no injection is armed. -/
def Clean (s : State) : Prop := s.ecc = [] ∧ s.inj = []

/-- An instruction can read `n` bytes from `a` at once: they lie in the core's own scratchpad below its book (R219), no earlier
write of the core to them is outstanding (R129), and no line of them waits for a source region (R139). -/
def Readable (x : Ctx) (s : State) (a n : Nat) : Prop :=
  ownScratchKind s x.c a n = none ∧ mustWait x [(a, n)] s = false ∧ pendingSource s x.c a n = false

/-- An instruction can write `n` bytes from `a`: outside the wings they lie in the core's own scratchpad below its book (R219), in the
wings within its wings area (R134, R224). -/
def Writable (x : Ctx) (s : State) (a n : Nat) : Prop :=
  (inWings x s = false → ownScratchKind s x.c a n = none) ∧ (inWings x s = true → inWingsArea s x.c a n = true)

/-- Every byte of memory outside all of the ranges reads as before. -/
def BytesOutsideAll (rs : List (Nat × Nat)) (s t : State) : Prop :=
  ∀ a, (∀ r ∈ rs, a < r.1 ∨ r.1 + r.2 ≤ a) → t.byte a = s.byte a

end Sys2Proof.Safety

/-! ### The vector unit -/

/-- The V-slot rows that write VD under Q (R162, R163): lane n is the row's value where bit n of Q is 1, and keeps what VD held where it
is 0; VD alone is delivered. A lane of an arithmetic row with a NaN among its sources is the canonical NaN (R163). -/
def Obligations.VectorRowsWriteLanesUnderQ : Prop :=
  (∀ (i : Instr) (c : CoreId) (vd : BitVec 5) (q : BitVec 3) (f : Regs → Nat → Lane) (s s0 : State) (x : Ctx),
    laneRow i = some (c, vd, q, f) → i.wellFormed = true → Canonical s → Starts c .v i s x s0 →
      ∃ t, exec i s = .next t ∧ ∃ g : Regs → Lanes, Delivers c .v i x (fun r => r.setV vd (g r)) s t ∧
        ∀ r n, n < 64 → lane (g r) n = if (x.regs.qr q).getLsbD n then f x.regs n else lane (r.vr vd) n) ∧
  (∀ (i : Instr) (c : CoreId) (vd : BitVec 5) (q : BitVec 3) (f : Regs → Nat → Lane) (r : Regs) (n : Nat),
    laneRow i = some (c, vd, q, f) → (∃ v ∈ laneSources i, (laneVal (lane (r.vr v) n)).isNan = true) → f r n = 0x7FC00000)

/-- VCMP, VSEL, VSPLAT, VAMAX and SEED (R162, R164, R192): each delivers one register; a SEED draw is keyed by the job seed or the current
slot's subkey and counts GA + lane, purpose, tag and step. VCVT (R65, R162): an active lane becomes its own value rounded to the format
and decoded back; a lane that overflows sets VEC_STATUS.OVF; inactive lanes, every other register and memory keep their contents. -/
def Obligations.VectorRowsOfOneResult : Prop :=
  (∀ (c : CoreId) (s s0 : State) (x : Ctx), Canonical s →
    (∀ qd va vb cc q, qd ≠ 0 → cc.toNat ≤ 5 → Starts c .v (.vcmp c qd va vb cc q) s x s0 →
      ∃ t, exec (.vcmp c qd va vb cc q) s = .next t ∧ ∃ m : Word, Delivers c .v (.vcmp c qd va vb cc q) x (fun r => r.setQ qd m) s t ∧
        ∀ n, n < 64 → m.getLsbD n = ((x.regs.qr q).getLsbD n && vcmpCond cc (lane (x.regs.vr va) n) (lane (x.regs.vr vb) n))) ∧
    (∀ vd va vb q, Starts c .v (.vsel c vd va vb q) s x s0 → ∃ t, exec (.vsel c vd va vb q) s = .next t ∧
      ∃ v : Lanes, Delivers c .v (.vsel c vd va vb q) x (fun r => r.setV vd v) s t ∧
        ∀ n, n < 64 → lane v n = lane (x.regs.vr (if (x.regs.qr q).getLsbD n then va else vb)) n) ∧
    (∀ vd ga, Starts c .v (.vsplat c vd ga) s x s0 → ∃ t, exec (.vsplat c vd ga) s = .next t ∧
      ∃ v : Lanes, Delivers c .v (.vsplat c vd ga) x (fun r => r.setV vd v) s t ∧ ∀ n, n < 64 → lane v n = BitVec.ofNat 32 (x.regs.gr ga).toNat) ∧
    (∀ gd va q, Starts c .v (.vamax c gd va q) s x s0 → ∃ t, exec (.vamax c gd va q) s = .next t ∧
      ∃ m : Lane, Delivers c .v (.vamax c gd va q) x (fun r => r.setG gd (BitVec.ofNat 64 m.toNat)) s t ∧
        ((∀ n, n < 64 → (x.regs.qr q).getLsbD n = false) → m = 0) ∧
        ((∃ n, n < 64 ∧ (x.regs.qr q).getLsbD n = true ∧ (laneVal (lane (x.regs.vr va) n)).isNan = true) → m = 0x7FC00000)) ∧
    (∀ vd ga tag pur w sc, pur.toNat < 12 → Starts c .v (.seed c vd ga tag pur w sc) s x s0 →
      ∃ t, exec (.seed c vd ga tag pur w sc) s = .next t ∧ ∃ v : Lanes, Delivers c .v (.seed c vd ga tag pur w sc) x (fun r => r.setV vd v) s t ∧
        ∀ n, n < 64 → lane v n = philoxWord (if sc then SMap.get 0 s.subkeys x.regs.slot.toNat else s.seed)
          (BitVec.ofNat 128 (((x.regs.gr ga).toNat + n) % 2 ^ 48 + pur.toNat * 2 ^ 76 + tag.toNat * 2 ^ 80 +
            s.fld Fld.SCN_STEP_STEP % 2 ^ 32 * 2 ^ 96)) w.toNat)) ∧
  (∀ (c : CoreId) (vd va : BitVec 5) (fmt : BitVec 4) (mode : BitVec 2) (q : BitVec 3) (el : Elem) (s s0 : State) (x : Ctx),
    fmtElem fmt = some el → fmt.toNat ≤ 4 → mode ≠ 3 → Canonical s → Starts c .v (.vcvt c vd va fmt mode q) s x s0 →
      ∃ t, exec (.vcvt c vd va fmt mode q) s = .next t ∧ (∀ a, t.byte a = s.byte a) ∧ (∀ k, k ≠ c → t.core k = s.core k) ∧
        (∃ v : Lanes, (t.core c).regs = (s.core c).regs.setV vd v ∧ ∀ n, n < 64 → lane v n =
          if (x.regs.qr q).getLsbD n then toLane 0 (decodeElem el (convert el mode.toNat (laneVal (lane (x.regs.vr va) n))).bits none).val
          else lane ((s.core c).regs.vr vd) n) ∧
        (∀ a, a ≠ (Fld.VEC_STATUS_OVF c).reg → t.reg a = s.reg a) ∧
        ((∃ n, n < 64 ∧ (x.regs.qr q).getLsbD n = true ∧ (convert el mode.toNat (laneVal (lane (x.regs.vr va) n))).ovf = true) →
          t.fld (Fld.VEC_STATUS_OVF c) = 1))

/-- VLD (R162): 64 elements of a plain format at P + 64 × OFF, decoded exactly into VD; nothing is stored. VST (R162): each active lane,
rounded to the format, is stored at its place from P + 64 × OFF; the bytes of an inactive lane, every byte outside the 64 elements, every
register but the vector status, and the core's registers keep their contents. In the wings a store outside the wings area stores nothing
and is reported (R134). -/
def Obligations.VectorLoadsAndStores : Prop :=
  (∀ (c : CoreId) (vd : BitVec 5) (p : BitVec 4) (off : BitVec 16) (fmt : BitVec 4) (el : Elem) (s s0 : State) (x : Ctx),
    fmtElem fmt = some el → fmt.toNat ≤ 4 → Canonical s → Clean s → Starts c .v (.vld c vd p off fmt) s x s0 →
    Readable x s0 (vecAddr (x.regs.pr p) off) (64 * el.width / 8) →
      ∃ t, exec (.vld c vd p off fmt) s = .next t ∧ ∃ v : Lanes, Delivers c .v (.vld c vd p off fmt) x (fun r => r.setV vd v) s t ∧
        ∀ n, n < 64 → lane v n =
          toLane 0 (decodeElem el (s.le (vecAddr (x.regs.pr p) off + n * (el.width / 8)) (el.width / 8)) none).val) ∧
  (∀ (c : CoreId) (va : BitVec 5) (p : BitVec 4) (off : BitVec 16) (fmt : BitVec 4) (mode : BitVec 2) (q : BitVec 3) (el : Elem)
    (s s0 : State) (x : Ctx), fmtElem fmt = some el → fmt.toNat ≤ 4 → mode ≠ 3 → Canonical s →
    Starts c .v (.vst c va p off fmt mode q) s x s0 →
      (s.inj = [] → Writable x s0 (vecAddr (x.regs.pr p) off) (64 * el.width / 8) →
        ∃ t, exec (.vst c va p off fmt mode q) s = .next t ∧ (t.core c).regs = (s.core c).regs ∧
          (∀ a, a ≠ (Fld.VEC_STATUS_OVF c).reg → t.reg a = s.reg a) ∧
          BytesOutside (vecAddr (x.regs.pr p) off) (64 * el.width / 8) s t ∧
          ∀ n j, n < 64 → j < el.width / 8 → t.byte (vecAddr (x.regs.pr p) off + n * (el.width / 8) + j) =
            if (x.regs.qr q).getLsbD n then
              BitVec.ofNat 8 ((convert el mode.toNat (laneVal (lane (x.regs.vr va) n))).bits / 256 ^ j)
            else s.byte (vecAddr (x.regs.pr p) off + n * (el.width / 8) + j)) ∧
      (inWings x s0 = true → inWingsArea s0 c (vecAddr (x.regs.pr p) off) (64 * el.width / 8) = false →
        ∃ t, exec (.vst c va p off fmt mode q) s = .next t ∧ (t.core c).regs = (s.core c).regs ∧ (∀ a, t.byte a = s.byte a) ∧
          t.fld Fld.SCN_SPEC_STATUS_ESCAPE = 1))

namespace Sys2Proof.Safety

open Sys2Proof.Machine

/-- What OPERAND_RANGE leaves (R173): the core stops, and its registers, its tiles, its pipeline, memory and the other cores stay as they
were. -/
def OperandStop (c : CoreId) (s t : State) : Prop :=
  (t.core c).stopped = true ∧ (t.core c).regs = (s.core c).regs ∧ (t.core c).tiles = (s.core c).tiles ∧
    (t.core c).inflight = (s.core c).inflight ∧ (∀ r, t.byte r = s.byte r) ∧ ∀ k, k ≠ c → t.core k = s.core k

/-- What a multiply or an exact reduction that starts does to its core (R97, R107): the partials join the pipeline, the tile is in progress
and not drained, and in flight while there are partials; the registers, the register map and the other cores stay as they were; an
overwrite changes no byte outside the core's Trellis window, an add none at all. -/
def Starting (c : CoreId) (d : Desc) (ovw : Bool) (ps : List PPartial) (s t : State) : Prop :=
  (t.core c).regs = (s.core c).regs ∧ (∀ r, t.reg r = s.reg r) ∧ (∀ k, k ≠ c → t.core k = s.core k) ∧
    (t.core c).inflight = (s.core c).inflight ++ ps ∧
    (∃ l, (t.core c).tile d.granule = some l ∧ l.drained = false ∧ l.rows = d.nRows ∧ l.cols = d.nCols ∧ l.c160 = d.acc ∧
      (ps ≠ [] → 0 < l.inflight)) ∧
    (ovw = true → BytesOutside (trlBase c) 0x400000 s t) ∧ (ovw = false → ∀ r, t.byte r = s.byte r)

end Sys2Proof.Safety

/-! ### The Trellis -/

/-- MMA and MMAT (R97, R158, R159, R174): legal operands at hand start the multiply from its issue, or from the cycle at which the mesh is
free: the tile is in progress, its operation is recorded, the partials of every group join the pipeline, and the mesh is held for D
cycles; an overwrite changes no byte outside the core's Trellis window, an add none at all. A multiply whose registers break R158 or the
tile rules of R97 and R98 writes nothing and stops its core (OPERAND_RANGE, R173). -/
def Obligations.MultipliesSendOrStop : Prop :=
  (∀ (c : CoreId) (acc a b : BitVec 4) (ovw : Bool) (da d1 d2 : Desc) (ts : Option Bool) (i : Instr) (o : MmaOp) (s s0 : State) (x : Ctx),
    (i = .mma c acc a b ovw ∧ ts = none ∨ ∃ v, i = .mmat c acc a b ovw v ∧ ts = some v) → Canonical s → Clean s →
    Starts c .m i s x s0 → x.regs.tr acc = some da → x.regs.tr a = some d1 → x.regs.tr b = some d2 →
    o = ⟨da, d1, d2, decide (ts = some false), decide (ts = some true), acc.toNat, x.bundle, x.region⟩ →
    earlierOnTile x da.granule s0 = false → mmaLegal o = true → tileLegal (s.core c) da ovw = true → tileOwned x da ovw s0 = true →
    (∀ r ∈ d1.operandRanges o.ta ++ d2.operandRanges o.tb, Readable x s0 r.1 r.2) →
      ∃ t, exec i s = .next t ∧ Starting c da ovw (mmaPartials s0 o [] (max x.at_ (s.core c).mFree)) s t ∧
        (t.core c).mFree = max x.at_ (s.core c).mFree + meshCycles da d1 d2 ∧
        ∃ l, (t.core c).tile da.granule = some l ∧ l.recs.getLast? = some ⟨d1, d2, da, ts, acc.toNat, x.bundle⟩) ∧
  (∀ (c : CoreId) (acc a b : BitVec 4) (ovw : Bool) (ts : Option Bool) (i : Instr) (s s0 : State) (x : Ctx),
    (i = .mma c acc a b ovw ∧ ts = none ∨ ∃ v, i = .mmat c acc a b ovw v ∧ ts = some v) → Canonical s → Starts c .m i s x s0 →
    (∀ da, x.regs.tr acc = some da → earlierOnTile x da.granule s0 = false) →
    (∀ da d1 d2, x.regs.tr acc = some da → x.regs.tr a = some d1 → x.regs.tr b = some d2 →
      (mmaLegal ⟨da, d1, d2, decide (ts = some false), decide (ts = some true), acc.toNat, x.bundle, x.region⟩ &&
        tileLegal (s.core c) da ovw && tileOwned x da ovw s0) = false) →
      ∃ t, exec i s = .next t ∧ OperandStop c s t)

/-- VXSUM and VXACC (R161): each lane of V whose Q bit is 1 is one term of its own exact value of the element that the row gives it:
VXSUM sends every lane to (ROW, COL), VXACC lane n to (ROW, 64 H + n) where the tile has that column. The terms join the pipeline and
carry the block index of G. A term counts 1; a NaN or an infinity sets its flag, a zero adds nothing, and a finite lane adds its value. A
tile that is not F640, or a row or column that the tile does not have, stops the core (OPERAND_RANGE). -/
def Obligations.ExactReductionsSendTheirLanes : Prop :=
  (∀ (c : CoreId) (acc : BitVec 4) (v : BitVec 5) (q : BitVec 3) (ovw : Bool) (row : BitVec 7) (g : BitVec 6) (d : Desc) (i : Instr)
    (col : Nat → Option Nat) (low : Nat) (s s0 : State) (x : Ctx),
    ((∃ k, i = .vxsum c acc v q ovw row k g ∧ low = k.toNat ∧ ∀ n, col n = some k.toNat) ∨
      (∃ h, i = .vxacc c acc v q ovw row h g ∧ low = 64 * b2n h ∧
        ∀ n, col n = if 64 * b2n h + n < d.nCols then some (64 * b2n h + n) else none)) →
    Canonical s → Starts c .t i s x s0 → fenceHeld (s.core c) = false → x.regs.tr acc = some d →
    earlierOnTile x d.granule s0 = false →
      (d.isAcc = true → d.acc = false → row.toNat < d.nRows → low < d.nCols → tileLegal (s.core c) d ovw = true → s.inj = [] →
        ∃ t, exec i s = .next t ∧
          Starting c d ovw (markLast ((List.range 64).filterMap fun n => if (x.regs.qr q).getLsbD n then (col n).map fun k =>
            lanePartial d row.toNat k ((x.regs.gr g).toNat % 2 ^ 48) acc.toNat x.bundle (max x.at_ (s.core c).tNext + 16) x.region
              (lane (x.regs.vr v) n) else none)) s t) ∧
      ((d.isAcc = false ∨ d.acc = true ∨ d.nRows ≤ row.toNat ∨ d.nCols ≤ low ∨ tileLegal (s.core c) d ovw = false) →
        ∃ t, exec i s = .next t ∧ OperandStop c s t)) ∧
  (∀ (d : Desc) (row col blk treg bundle at_ : Nat) (region : Option Nat) (v : Lane) (p : PPartial),
    p = lanePartial d row col blk treg bundle at_ region v →
      p.granule = d.granule ∧ p.row = row ∧ p.col = col ∧ p.j = blk ∧ p.count = 1 ∧ p.at_ = at_ ∧ p.nan = (laneVal v).isNan ∧
      (p.pinf = true ↔ laneVal v = .inf false) ∧ (p.ninf = true ↔ laneVal v = .inf true) ∧
      match laneVal v with
      | .num neg (n + 1) e => p.parts.map (fun q => (q.g, q.e)) = [(if neg then -((n + 1 : Nat) : Int) else ((n + 1 : Nat) : Int), e)]
      | .num neg 0 _ => p.parts = [] ∧ p.allneg0 = neg
      | _ => p.parts = [])

/-- PARTIAL_INTAKE (R82, R87, R90, R103, R107): the oldest partial leaves the pipeline at its cycle. Where its tile is in progress it is added
to its element: in an F640 tile exactly, modulo 2^640, with the flags, the term count, NAN_BLOCK and the tracked residue following; in a
C160 tile as one multiple of the floor, rounded as R87 says. No byte outside that value and that tag changes. The last partial of an
instruction takes it off the tile's in-flight count. Where the tile has been released, no byte changes. -/
def Obligations.PartialsAreAddedExactly : Prop :=
  ∀ (c : CoreId) (s : State) (p : PPartial) (ps : List PPartial), Canonical s → s.live = true →
    (s.core c).inflight = p :: ps →
    ∃ t, exec (.partialIntake c) s = .next t ∧ t.tim.now = max s.tim.now (s.cycleAt p.at_) ∧ (t.core c).inflight = ps ∧
      (t.core c).regs = (s.core c).regs ∧ (∀ k, k ≠ c → t.core k = s.core k) ∧
      ((s.core c).tile p.granule = none → ∀ a, t.byte a = s.byte a) ∧
      (∀ l, (s.core c).tile p.granule = some l → p.row < l.rows → p.col < l.cols →
        l.granule + granulesOf l.c160 l.rows l.cols ≤ 512 → l.rows * l.cols % perGranule l.c160 = 0 →
        (l.c160 = false → readAcc t c l.granule false (p.row * l.cols + p.col) =
          { a := wrapAcc 640 (p.parts.foldl (fun a q => a + scaleInt q.g (q.e + 300)) (readAcc s c l.granule false (p.row * l.cols + p.col)).a)
            count := min (2 ^ 48 - 1) ((readAcc s c l.granule false (p.row * l.cols + p.col)).count + p.count)
            pinf := (readAcc s c l.granule false (p.row * l.cols + p.col)).pinf || p.pinf
            ninf := (readAcc s c l.granule false (p.row * l.cols + p.col)).ninf || p.ninf
            nan := (readAcc s c l.granule false (p.row * l.cols + p.col)).nan || p.nan
            allneg0 := (readAcc s c l.granule false (p.row * l.cols + p.col)).allneg0 && p.allneg0
            nanBlock := if p.nan then min (readAcc s c l.granule false (p.row * l.cols + p.col)).nanBlock p.j
              else (readAcc s c l.granule false (p.row * l.cols + p.col)).nanBlock
            residue := p.parts.foldl (fun r q => resAdd r (resRot q.res (q.e + 300)))
              (readAcc s c l.granule false (p.row * l.cols + p.col)).residue }) ∧
        (l.c160 = true → readAcc t c l.granule true (p.row * l.cols + p.col) =
          (readAcc s c l.granule true (p.row * l.cols + p.col)).addFloor s l p) ∧
        BytesOutsideAll [(valAddr c l.granule l.c160 (p.row * l.cols + p.col), valBytes l.c160),
          (tagAddr c l.granule l.c160 (p.row * l.cols + p.col), tagBytes l.c160)] s t ∧
        ∃ m, (t.core c).tile p.granule = some m ∧ m.inflight = if p.last then l.inflight - 1 else l.inflight)

namespace Sys2Proof.Safety

open Sys2Proof.Machine

/-- What the replay of a promoted tile reads (R103): the image of its fill point and the operands of its pass. -/
def replayReads (l : Tile) : List (Nat × Nat) :=
  (match l.fill with
    | .overwrite => []
    | .c160 => [(l.fillAddr + 64 * (l.rows * l.cols), 32 * (l.rows * l.cols))]
    | .f640 => [(l.fillAddr, 96 * (l.rows * l.cols))]) ++
  l.recs.flatMap fun r => r.a.operandRanges (decide (r.ts = some false)) ++ r.b.operandRanges (decide (r.ts = some true))

/-- The core's Trellis window, where a replay has written images (R103). -/
def replayBytes (c : CoreId) (l : Tile) : List (Nat × Nat) := if l.promoted then [(trlBase c, 0x400000)] else []

/-- The register map outside the Trellis status and, after a replay, TRL_PROMO reads as before. -/
def SameButStatus (c : CoreId) (s t : State) : Prop :=
  ∀ a, a ≠ (Fld.TRL_STATUS_FENCE_SLIP c).reg → a ≠ (Fld.TRL_PROMO_CYCLES c).reg → t.reg a = s.reg a

/-- What each element of the tile is drained from. -/
def drainList (s : State) (c : CoreId) (l : Tile) (da : Desc) (sc : Option (Val × Val)) : List DrainElem :=
  (List.range (l.rows * l.cols)).map fun i => drainElem l da sc (i / l.cols) (tileAccum s c l i)

/-- What a DRAIN released at CYCLE `rel` does (R69, R91, R92, R106, R107, R160): every element of the tile is scaled and rounded once into the
destination, no byte outside the destination changes but what a replay writes, one comparison guards the destination until it is made,
the port is held for the rounding and 2 cycles more, and the tile is released, or with KEEP drained. A NaN is trapped; without a NaN, an
infinity and an overflow the register map keeps its contents. -/
structure Drained (c : CoreId) (x : Ctx) (l : Tile) (da dd : Desc) (sc : Option (Val × Val)) (fmt : BitVec 4) (mode : Nat) (keep : Bool)
    (rel : Nat) (s t : State) : Prop where
  files : (t.core c).regs = (s.core c).regs
  cores : ∀ k, k ≠ c → t.core k = s.core k
  bytes : ∃ v : Nat → Nat → Val, (∀ i j, i < l.rows → j < l.cols → v i j = (drainElem l da sc i (tileAccum s c l (i * l.cols + j))).out) ∧
    (∀ a, a < trlBase c ∨ trlBase c + 0x400000 ≤ a → t.byte a = (writeChunks x (drainOut dd fmt mode l.rows l.cols v).chunks s).byte a) ∧
    ((drainOut dd fmt mode l.rows l.cols v).ovf = false → (∀ e ∈ drainList s c l da sc, e.acc.nan = false ∧ e.out.nonFinite = false) →
      SameButStatus c s t)
  outside : BytesOutsideAll (dd.dstRanges ++ replayBytes c l) s t
  freed : keep = false → (t.core c).tile l.granule = none
  kept : keep = true → ∃ m, (t.core c).tile l.granule = some m ∧ m.drained = true
  guard : ∃ m, (t.core c).cmps = (s.core c).cmps ++ [m] ∧ m.ranges = dd.dstRanges ∧ m.done = false ∧
    m.fail = residueFail l false (drainList s c l da sc) ∧ m.open_ = rel + 2 + drainCycles l ∧ m.at_ = rel + 7 + drainCycles l
  port : (t.core c).tNext = rel + 1 ∧ (t.core c).tFree = rel + (drainCycles l + 2)
  trap : (∃ e ∈ drainList s c l da sc, e.acc.nan = true) → t.fld (Fld.TRL_STATUS_NAN_TRAP c) = 1

/-- What a SPILL released at CYCLE `rel` does (R100, R101, R103, R107): the image of every element lies in the spill area as R100 lays it
out, no byte outside the area changes but what a replay writes, the tile is released, and the port is held while the image passes. -/
structure Spilled (c : CoreId) (l : Tile) (d : Desc) (rel : Nat) (s t : State) : Prop where
  files : (t.core c).regs = (s.core c).regs
  cores : ∀ k, k ≠ c → t.core k = s.core k
  image : ∀ fmt bs, fmt = (if l.promoted then 2 else b2n l.c160) →
    bs = ((List.range (l.rows * l.cols)).flatMap fun i => (tileAccum s c l i).recordBytes fmt) → ∀ j, j < bs.length →
      t.byte (d.addr.toNat + (if fmt = 1 then 64 * (l.rows * l.cols) else 0) + j) = bs.getD j 0
  outside : BytesOutsideAll ((d.addr.toNat, 96 * (l.rows * l.cols)) :: replayBytes c l) s t
  status : SameButStatus c s t
  freed : (t.core c).tile l.granule = none
  mark : (t.core c).spilled = (if l.promoted then [(d.addr.toNat, l.wovf)] else []) ++
    (s.core c).spilled.filter fun p => decide (p.1 ≠ d.addr.toNat)
  port : (t.core c).tNext = rel + 1 ∧ (t.core c).tFree = rel + imageTime l.c160Now (l.rows * l.cols)

/-- What waiting at the fence with entry `f` leaves (R107): the instruction stands there and nothing else has changed. -/
def Waiting (c : CoreId) (f : FenceOp) (s t : State) : Prop :=
  (t.core c).tWait = (s.core c).tWait ++ [f] ∧ (t.core c).tiles = (s.core c).tiles ∧ (t.core c).regs = (s.core c).regs ∧ SameMaps s t ∧
    ∀ k, k ≠ c → t.core k = s.core k

/-- What the start of a replay at CYCLE `rel` leaves (R103, R104): the instruction stands at the fence for some cycles, in which the mesh,
the Trellis unit and the drain port are its own; memory, the tile and the registers are as they were. -/
def Replaying (c : CoreId) (x : Ctx) (i : Instr) (rel : Nat) (s t : State) : Prop :=
  ∃ n, (t.core c).tWait = (s.core c).tWait ++ [⟨⟨i, x.regs, x.bundle, x.region, x.seq, x.at_⟩, some (n, rel + n)⟩] ∧
    rel + n ≤ (t.core c).mFree ∧ rel + n ≤ (t.core c).tNext ∧ rel + n ≤ (t.core c).tFree ∧
    (t.core c).tiles = (s.core c).tiles ∧ (t.core c).regs = (s.core c).regs ∧ (∀ a, t.byte a = s.byte a) ∧ SameButStatus c s t ∧
    ∀ k, k ≠ c → t.core k = s.core k

end Sys2Proof.Safety

/-- DRAIN (R104, R106, R107, R160, R173): registers that break R160 stop the core. A DRAIN of a tile in progress waits at the shut fence; with
its fence open, it rounds the tile at its release, the later of the cycle at which the port can take it and the cycle from which the
tile is settled, the rest being fence slip; of a promoted tile its replay begins there. SPILL (R100, R101, R103, R104): the same, with the
image going to the spill area. Both in the wings and outside them. -/
def Obligations.DrainSpillAndFillMoveATile : Prop :=
  (∀ (c : CoreId) (acc dst sa sb fmt : BitVec 4) (mode : BitVec 2) (scl keep : Bool) (i : Instr) (s s0 : State) (x : Ctx),
    i = .drain c acc dst sa sb fmt mode scl keep → i.wellFormed = true → Canonical s → Starts c .t i s x s0 →
    fenceHeld (s.core c) = false → behindOther x acc s0 = false →
      (drainArgs (s.core c) x.regs acc dst sa sb fmt scl = none → ∃ t, exec i s = .next t ∧ OperandStop c s t) ∧
      (∀ l da dd sc, drainArgs (s.core c) x.regs acc dst sa sb fmt scl = some (l, da, dd, sc) →
        ((s.core c).fenceShut l x.seq = true → ∃ t, exec i s = .next t ∧
          Waiting c ⟨⟨i, x.regs, x.bundle, x.region, x.seq, x.at_⟩, none⟩ s t) ∧
        ((s.core c).fenceShut l x.seq = false → ∃ t, exec i s = .next t ∧
          t.tim.now = max s.tim.now (s.cycleAt (releaseAt x (s.core c) l)) ∧
          (t.core c).fenceSlip = (s.core c).fenceSlip + (l.settled - portStart x (s.core c)) ∧
          (l.promoted = true → Replaying c x i (releaseAt x (s.core c) l) s t) ∧
          (l.promoted = false → Clean s → (∀ r ∈ dd.dstRanges, Writable x s0 r.1 r.2) →
            Drained c x l da dd sc fmt mode.toNat keep (releaseAt x (s.core c) l) s t)))) ∧
  (∀ (c : CoreId) (acc : BitVec 4) (i : Instr) (s s0 : State) (x : Ctx), i = .spill c acc → Canonical s → Starts c .t i s x s0 →
    fenceHeld (s.core c) = false → behindOther x acc s0 = false →
      ((∀ d, x.regs.tr acc = some d → tileFor (s.core c) d = none) → ∃ t, exec i s = .next t ∧ OperandStop c s t) ∧
      (∀ d l, x.regs.tr acc = some d → tileFor (s.core c) d = some l →
        ((s.core c).fenceShut l x.seq = true → ∃ t, exec i s = .next t ∧
          Waiting c ⟨⟨i, x.regs, x.bundle, x.region, x.seq, x.at_⟩, none⟩ s t) ∧
        ((s.core c).fenceShut l x.seq = false → ∃ t, exec i s = .next t ∧
          t.tim.now = max s.tim.now (s.cycleAt (releaseAt x (s.core c) l)) ∧
          (t.core c).fenceSlip = (s.core c).fenceSlip + (l.settled - portStart x (s.core c)) ∧
          (l.promoted = true → Replaying c x i (releaseAt x (s.core c) l) s t) ∧
          (l.promoted = false → Clean s → Writable x s0 d.addr.toNat (96 * (l.rows * l.cols)) →
            Spilled c l d (releaseAt x (s.core c) l) s t))))

/-- FILL (R97, R100, R102, R103, R160, R173): a descriptor without a place for its tile stops the core. Otherwise, when the port can take it, the tile
of the descriptor is in progress again, not drained and with this FILL as its fill point: every accumulator holds the image that the
spill area holds, and no byte outside the Trellis window changes; of a tile spilled as promoted the image stays in the area, and the tile
is promoted. The register map, the core's registers and the other cores keep their contents. -/
def Obligations.FillsPutATileBack : Prop :=
  ∀ (c : CoreId) (acc : BitVec 4) (s s0 : State) (x : Ctx), Canonical s → Clean s → Starts c .t (.fill c acc) s x s0 →
    fenceHeld (s.core c) = false → behindOther x acc s0 = false →
      ((∀ d, x.regs.tr acc = some d → (d.isAcc && tileLegal (s.core c) d true) = false) →
        ∃ t, exec (.fill c acc) s = .next t ∧ OperandStop c s t) ∧
      (∀ d a n, x.regs.tr acc = some d → d.isAcc = true → tileLegal (s.core c) d true = true → a = d.addr.toNat → n = d.nRows * d.nCols →
        (∀ w, ((s.core c).spilled.find? fun p => decide (p.1 = a)) = some (a, w) → Readable x s0 a (96 * n) →
          ∃ t l, exec (.fill c acc) s = .next t ∧ SameMaps s t ∧ (t.core c).regs = (s.core c).regs ∧ (∀ k, k ≠ c → t.core k = s.core k) ∧
            t.tim.now = max s.tim.now (s.cycleAt (portStart x (s.core c))) ∧ (t.core c).tile d.granule = some l ∧ l.rows = d.nRows ∧
            l.cols = d.nCols ∧ l.c160 = d.acc ∧ l.drained = false ∧ l.promoted = true ∧ l.wovf = w ∧ l.fill = .f640 ∧ l.fillAddr = a ∧
            l.recs = []) ∧
        (((s.core c).spilled.find? fun p => decide (p.1 = a)) = none →
          Readable x s0 (if d.acc then a + 64 * n else a) (if d.acc then 32 * n else 96 * n) →
          ∃ t l, exec (.fill c acc) s = .next t ∧ (∀ r, t.reg r = s.reg r) ∧ (t.core c).regs = (s.core c).regs ∧
            (∀ k, k ≠ c → t.core k = s.core k) ∧ t.tim.now = max s.tim.now (s.cycleAt (portStart x (s.core c))) ∧
            BytesOutside (trlBase c) 0x400000 s t ∧ (∀ i, i < n → readAcc t c d.granule d.acc i = readRecord s a n i d.acc) ∧
            (t.core c).tile d.granule = some l ∧ l.rows = d.nRows ∧ l.cols = d.nCols ∧ l.c160 = d.acc ∧ l.drained = false ∧
            l.promoted = false ∧ l.fill = (if d.acc then .c160 else .f640) ∧ l.fillAddr = a ∧ l.recs = []))

/-- FENCE_RELEASE (R104, R107): where no waiting instruction's fence is open nothing changes. The first one whose fence is open leaves it: an
XRED is let past; a DRAIN or SPILL is released, as it would be in its unit, or, its replay having ended, rounds or moves the replayed
tile and reports its cycles. RESIDUE_COMPARISON (R107 to R109): 6 cycles after the last element, a comparison that agrees frees its
destination; one that differs keeps it closed, sets RES_FAIL, records the first failing coordinate with both residues, and stops the core,
or in the wings keeps the region from confirming. -/
def Obligations.FenceAndResidueRowsAct : Prop :=
  (∀ (c : CoreId) (s : State), Canonical s → s.live = true →
    ((s.core c).tWait.find? (fenceOpen (s.core c)) = none → exec (.fenceRelease c) s = .next s) ∧
    (∀ f x s1, (s.core c).tWait.find? (fenceOpen (s.core c)) = some f → x = f.entry.ctx c .t →
      s1 = leaveFence c f (match f.replay with | some (_, e) => advanceTo (s.cycleAt e) s | none => s) →
      (∀ k xi acc w l, f.entry.instr = .xred k xi acc → f.replay = none → (s.core c).portOf xi 4 = some w →
        f.granule.bind (s.core c).tile = some l → ∃ t, exec (.fenceRelease c) s = .next t ∧ SameMaps s t ∧
          t.tim.now = max s.tim.now (s.cycleAt l.settled) ∧ (t.core c).tWait = (s.core c).tWait.erase f ∧
          (t.core c).port = (s.core c).port.map (fun v => if v = w then { w with fence := true } else v) ∧
          (t.core c).regs = (s.core c).regs ∧ ∀ n, n ≠ c → t.core n = s.core n) ∧
      (∀ k acc dst sa sb fmt mode scl keep l da dd sc, f.entry.instr = .drain k acc dst sa sb fmt mode scl keep →
        f.entry.instr.wellFormed = true → behindOther x acc s1 = false → drainArgs (s.core c) x.regs acc dst sa sb fmt scl = some (l, da, dd, sc) →
        Clean s → (∀ r ∈ dd.dstRanges, Writable x s1 r.1 r.2) →
          (f.replay = none → l.promoted = false → ∃ t, exec (.fenceRelease c) s = .next t ∧ (t.core c).tWait = (s.core c).tWait.erase f ∧
            Drained c x l da dd sc fmt mode.toNat keep (releaseAt x (s.core c) l) s t ∧
            (portStart x (s.core c) < l.settled → t.fld (Fld.TRL_STATUS_FENCE_SLIP c) = 1)) ∧
          (∀ n e, f.replay = some (n, e) → l.promoted = true → (∀ r ∈ replayReads l, Readable x s1 r.1 r.2) →
            ∃ t, exec (.fenceRelease c) s = .next t ∧ (t.core c).tWait = (s.core c).tWait.erase f ∧
              Drained c x l da dd sc fmt mode.toNat keep e s t ∧
              t.fld (Fld.TRL_PROMO_CYCLES c) = n % 2 ^ (Fld.TRL_PROMO_CYCLES c).w)) ∧
      (∀ k acc d l, f.entry.instr = .spill k acc → behindOther x acc s1 = false → x.regs.tr acc = some d → tileFor (s.core c) d = some l →
        Clean s → Writable x s1 d.addr.toNat (96 * (l.rows * l.cols)) →
          (f.replay = none → l.promoted = false → ∃ t, exec (.fenceRelease c) s = .next t ∧ (t.core c).tWait = (s.core c).tWait.erase f ∧
            Spilled c l d (releaseAt x (s.core c) l) s t ∧
            (portStart x (s.core c) < l.settled → t.fld (Fld.TRL_STATUS_FENCE_SLIP c) = 1)) ∧
          (∀ n e, f.replay = some (n, e) → l.promoted = true → (∀ r ∈ replayReads l, Readable x s1 r.1 r.2) →
            ∃ t, exec (.fenceRelease c) s = .next t ∧ (t.core c).tWait = (s.core c).tWait.erase f ∧ Spilled c l d e s t ∧
              t.fld (Fld.TRL_PROMO_CYCLES c) = n % 2 ^ (Fld.TRL_PROMO_CYCLES c).w)))) ∧
  (∀ (c : CoreId) (m : Cmp) (s : State), Canonical s → s.live = true → (s.core c).cmps.find? (fun m => !m.done) = some m →
    (m.fail = none → exec (.residueComparison c) s =
      .next ((advanceTo (s.cycleAt m.at_) s).updCore c fun k => { k with cmps := k.cmps.erase m })) ∧
    (∀ row col tr fo, m.fail = some (row, col, tr, fo) → ∃ t, exec (.residueComparison c) s = .next t ∧
      t.tim.now = max s.tim.now (s.cycleAt m.at_) ∧ t.fld (Fld.TRL_STATUS_RES_FAIL c) = 1 ∧ (∀ a, t.byte a = s.byte a) ∧
      (t.core c).cmps = ((s.core c).cmps.map fun n => if n = m then { n with done := true } else n) ∧
      (s.fld (Fld.TRL_STATUS_RES_FAIL c) = 0 → t.fld (Fld.TRL_RES_COORD_ROW c) = row % 2 ^ (Fld.TRL_RES_COORD_ROW c).w ∧
        t.fld (Fld.TRL_RES_COORD_COL c) = col % 2 ^ (Fld.TRL_RES_COORD_COL c).w ∧
        t.fld (Fld.TRL_RES_INFO_TRACKED c) = tr % 2 ^ (Fld.TRL_RES_INFO_TRACKED c).w ∧
        t.fld (Fld.TRL_RES_INFO_FOLDED c) = fo % 2 ^ (Fld.TRL_RES_INFO_FOLDED c).w) ∧
      (m.region = none → (t.core c).stopped = true) ∧
      (∀ r, (s.core c).region = some r → m.region = some r.ord → ∃ u, (t.core c).region = some u ∧ u.fault = true)))


/-! ### The data mover and the Cold Frame -/

/-- DMOV and DMOVI (R129, R133, R165, R219, R221, R229): a count of 64-byte lines between two places that the data mover reaches, at least
one of them a scratchpad, in the wings to a wings area, starts one transfer from PS to PD in the cycle after its issue; no byte moves yet.
It waits for earlier writes of its source. Any other count or place starts nothing; a count outside R165 or a source out of reach stops the
core. DATA_MOVER_LINE (R129, R135, R139, R226, R229, R231): a line that is not next on its path, or that another line precedes, does not
move. The next line moves at its position of the wheel or its slot of the path: the next 64 bytes at the destination are what the source
held, no other byte changes, and the transfer ends with its last line, its destination complete when that line has landed. A line written in
the wings becomes pending, at a peer for this source region. A line that waits for a source region reads as zero, and WINGS_EARLY stops the
core. -/
def Obligations.DataMoverCopiesLines : Prop :=
  (∀ (c : CoreId) (ps pd : BitVec 4) (n a b : Nat) (i : Instr) (s s0 : State) (x : Ctx),
    ((∃ gl, i = .dmov c ps pd gl ∧ n = (x.regs.gr gl).toNat % 2 ^ 32) ∨ ∃ len, i = .dmovi c ps pd len ∧ n = (len.toNat + 1) * 64) →
    a = (x.regs.pr ps).toNat → b = (x.regs.pr pd).toNat → Canonical s → Starts c .d i s x s0 →
      ((n % 64 ≠ 0 ∨ n < 64 ∨ 2 ^ 26 < n ∨ moverKind s a n ≠ none ∨ moverKind s b n ≠ none ∨ bothStacks s a b = true ∨
          inWings x s0 = true ∧ specDest s b n = false) →
        ∃ t, exec i s = .next t ∧ (t.core c).dm = (s.core c).dm ∧ (t.core c).regs = (s.core c).regs ∧ (∀ r, t.byte r = s.byte r) ∧
          (∀ k, k ≠ c → t.core k = s.core k) ∧
          ((n % 64 ≠ 0 ∨ n < 64 ∨ 2 ^ 26 < n ∨ moverKind s a n ≠ none) → (t.core c).stopped = true)) ∧
      (n % 64 = 0 → 64 ≤ n → n ≤ 2 ^ 26 → moverKind s a n = none → moverKind s b n = none → bothStacks s a b = false →
        (inWings x s0 = true → specDest s b n = true) →
          (mustWait x [(a, n)] s0 = true → exec i s = .next s) ∧
          (mustWait x [(a, n)] s0 = false → ∃ t, exec i s = .next t ∧ SameMaps s t ∧ (t.core c).regs = (s.core c).regs ∧
            (∀ k, k ≠ c → t.core k = s.core k) ∧
            (t.core c).dm = (s.core c).dm ++
              [⟨a, b, n, 0, false, if inWings x s0 then x.region else none, x.bundle, x.seq, max x.at_ s.cycle + 257, 0⟩]))) ∧
  (∀ (c : CoreId) (k : Nat) (w : DmXfer) (l : LineTime) (s : State), Canonical s → s.live = true → (s.core c).dm[k]? = some w →
    l = w.time s c →
      ((lineReady s c k w = false ∨ earlierLine s c l.at_ = true) → exec (.dataMoverLine c k) s = .next s) ∧
      (lineReady s c k w = true → earlierLine s c l.at_ = false → Clean s →
        ∃ t, exec (.dataMoverLine c k) s = .next t ∧ t.tim.now = max s.tim.now (s.cueCycleAt l.at_) ∧
          BytesOutside (w.dst + w.moved) 64 s t ∧ (t.core c).regs = (s.core c).regs ∧
          (∀ j, j < 64 → t.byte (w.dst + w.moved + j) = if sourcePending s (w.src + w.moved) 64 then 0 else s.byte (w.src + w.moved + j)) ∧
          ((w.len ≤ w.moved + 64 ∧ w.bad = false) → (t.core c).dm = (s.core c).dm.eraseIdx k ∧
            (t.core c).landing = (s.core c).landing ++ [⟨w.dst, w.len, max w.lands l.lands, w.seq⟩]) ∧
          (¬(w.len ≤ w.moved + 64 ∧ w.bad = false) → (t.core c).landing = (s.core c).landing ∧
            (t.core c).dm = (s.core c).dm.set k { w with moved := w.moved + 64, lands := max w.lands l.lands }) ∧
          (w.region = none → ∀ o, o ≠ c → t.core o = s.core o) ∧
          (∀ ord o, w.region = some ord → scrOwner s (w.dst + w.moved) = some o →
            SMap.get none (t.core o).pend ((w.dst + w.moved) / 64) =
              some (if o = c then .own else .src (s.fld Fld.FAB_NODE_ID) c.val ord)) ∧
          (sourcePending s (w.src + w.moved) 64 = false → ∀ a, t.reg a = s.reg a) ∧
          (sourcePending s (w.src + w.moved) 64 = true → t.fld Fld.SCN_SPEC_STATUS_EARLY = 1 ∧ (t.core c).stopped = true)))

namespace Sys2Proof.Safety

open Sys2Proof.Machine

/-- The plan entries of a core are in their canonical form. -/
def PlansOk (k : Core) : Prop := SMap.wf (fun _ => ({} : CfEntry)) k.cf = true

/-- A STASH writes the entry: an EMPTY one becomes FILLING with the encoding of the instruction, a FILLING one goes on (R178). -/
def opened (e : CfEntry) (enc : BitVec 2) (ff : Bool) : CfEntry := if e.st = .empty then { e with st := .filling, enc := enc, ff := ff } else e

/-- An entry that an UNSTASH reads while the page of its next group is not in the frame (R182): READING, and a page that lies in the region
is read back into the lowest free frame page. -/
def fetching (k : Core) (e : CfEntry) : CfEntry :=
  let j := e.rd / perPage e.enc e.ff
  match e.pages[j]?, k.pickFrame with
  | some (.ovf r), some f => { e with st := .reading, pages := e.pages.set j (.readback r f) }
  | _, _ => { e with st := .reading }

/-- What a core's data mover row leaves: its registers are `r`, every other core and the register map are as they were. -/
def CoreAlone (c : CoreId) (r : Regs) (s t : State) : Prop :=
  (t.core c).regs = r ∧ (∀ a, t.reg a = s.reg a) ∧ ∀ k, k ≠ c → t.core k = s.core k

/-- STASH (R177, R178, R179, R183, R184, R186, R187), in the wings and outside them. An EVICTED entry takes nothing; on a READING one the group
is discarded with a fault of kind 3. An EMPTY or FILLING entry whose page is open, or for which a page beyond the reserve is free, takes one
group more: the lanes encoded, at the group's place of the page and nowhere else. With only the reserve free, a STASH outside the wings
waits, where a page is moving out or can start to, and otherwise evicts; in the wings the group is discarded with a fault of kind 4. A
fault stops the core outside the wings. A SIGN group holds in bit n whether lane n is above zero; an FF8 or FF16 group holds in element n
lane n, rounded to E4M3 or BF16. -/
def StashRow : Prop :=
  (∀ (c : CoreId) (v : BitVec 5) (enc : BitVec 2) (ff : Bool) (g : BitVec 6) (plan : BitVec 12) (i : Instr) (e f : CfEntry) (s s0 s1 : State)
    (x : Ctx), i = .stash c v enc ff g plan → i.wellFormed = true → Canonical s → PlansOk (s.core c) → Clean s → Starts c .d i s x s0 →
    e = (s.core c).cfEntry plan.toNat → f = opened e enc ff → s1 = s.updCore c (fun k => k.setCf plan.toNat f) →
      (e.st = .evicted → exec i s = .next (s0.updCore c (Core.olderFrame x))) ∧
      (e.st = .reading → ∃ t, exec i s = .next t ∧ t.fld (Fld.CFR_STATUS_FAULT c) = 1 ∧ (t.core c).regs = (s.core c).regs ∧
        (t.core c).cfEntry plan.toNat = e ∧ (∀ a, t.byte a = s.byte a) ∧ (inWings x s0 = false → (t.core c).stopped = true)) ∧
      (e.st = .empty ∨ e.st = .filling →
        ((f.n % perPage f.enc f.ff ≠ 0 ∨ 8 < (s.core c).freeFrame) → ∃ t bs ovf pages free, exec i s = .next t ∧
          (bs, ovf) = encodeGroup f.enc f.ff (x.regs.gr g) (x.regs.vr v) free ∧ bs.length = groupBytes f.enc f.ff ∧
          pages = f.pages ++ (if f.n % perPage f.enc f.ff = 0 then (s.core c).pickFrame.toList.map .frame else []) ∧
          (t.core c).cfEntry plan.toNat = { f with n := f.n + 1, pages := pages } ∧ (t.core c).regs = (s.core c).regs ∧
          (∀ k, k ≠ c → t.core k = s.core k) ∧ (∀ a, a ≠ (Fld.VEC_STATUS_DM_OVF c).reg → t.reg a = s.reg a) ∧
          (ovf = true → t.fld (Fld.VEC_STATUS_DM_OVF c) = 1) ∧ (ovf = false → ∀ a, t.reg a = s.reg a) ∧
          (∀ p, (pages.getD (f.n / perPage f.enc f.ff) .gone).framePage = some p →
            BytesOutside (framePageAddr c p + f.n % perPage f.enc f.ff * groupBytes f.enc f.ff) bs.length s t ∧
            ∀ j, j < bs.length → t.byte (framePageAddr c p + f.n % perPage f.enc f.ff * groupBytes f.enc f.ff + j) = bs.getD j 0) ∧
          ((pages.getD (f.n / perPage f.enc f.ff) .gone).framePage = none → ∀ a, t.byte a = s.byte a)) ∧
        (f.n % perPage f.enc f.ff = 0 → (s.core c).freeFrame ≤ 8 → inWings x s0 = false →
          (0 < (s.core c).spillsRunning → exec i s = .next s1) ∧
          (∀ s2, (s.core c).spillsRunning = 0 → startSpill c s1 = some s2 → exec i s = .next s2) ∧
          ((s.core c).spillsRunning = 0 → startSpill c s1 = none → ∃ t, exec i s = .next t ∧ t.fld (Fld.CFR_STATUS_FULL c) = 1 ∧
            (t.core c).regs = (s.core c).regs)) ∧
        (f.n % perPage f.enc f.ff = 0 → (s.core c).freeFrame ≤ 8 → inWings x s0 = true → ∃ t, exec i s = .next t ∧
          t.fld (Fld.CFR_STATUS_FAULT c) = 1 ∧ (t.core c).regs = (s.core c).regs ∧ (∀ a, t.byte a = s.byte a) ∧
          (t.core c).cfEntry plan.toNat = if f.n = 0 then ({} : CfEntry) else f))) ∧
  (∀ (ff : Bool) (g : Word) (v : Lanes) (free : List Byte) (n : Nat), n < 64 →
    (leNat (encodeGroup 0 ff g v free).1).testBit n = (Val.num false 0 0).lt (laneVal (lane v n)) ∧
    leNat (((encodeGroup 2 false g v free).1.drop n).take 1) = (convert .e4m3 0 (laneVal (lane v n))).bits % 256 ∧
    leNat (((encodeGroup 2 true g v free).1.drop (2 * n)).take 2) = (convert .bf16 0 (laneVal (lane v n))).bits % 65536)

/-- UNSTASH (R178, R182, R184, R186, R187), in the wings and outside them. Of an EVICTED entry: 64 canonical NaNs and no fault, the entry still
EVICTED. Of an EMPTY entry or past its last group: canonical NaNs and a fault of kind 2, which stops the core outside the wings. Of an entry
whose next group lies in the frame: that group decoded, and the entry is READING and one group on; outside the wings an entry returned
whole is EMPTY. While the group's page is not in the frame the instruction waits, and a read-back of a page that lies in the region starts
as soon as a frame page is free. No byte of memory changes. -/
def UnstashRow : Prop :=
  ∀ (c : CoreId) (vd : BitVec 5) (enc : BitVec 2) (ff : Bool) (plan : BitVec 12) (i : Instr) (e : CfEntry) (s s0 : State) (x : Ctx),
    i = .unstash c vd enc ff plan → enc ≠ 3 → Canonical s → PlansOk (s.core c) → Clean s → Starts c .d i s x s0 →
    e = (s.core c).cfEntry plan.toNat →
      (e.st = .evicted → ∃ t, exec i s = .next t ∧ CoreAlone c ((s.core c).regs.setV vd nanLanes) s t ∧ (∀ a, t.byte a = s.byte a) ∧
        (t.core c).cfEntry plan.toNat = e) ∧
      (e.st ≠ .evicted → (e.st = .empty ∨ e.n ≤ e.rd) → ∃ t, exec i s = .next t ∧ (∀ a, t.byte a = s.byte a) ∧
        (t.core c).regs = (s.core c).regs.setV vd nanLanes ∧ t.fld (Fld.CFR_STATUS_FAULT c) = 1 ∧
        (s.fld (Fld.CFR_STATUS_FAULT c) = 0 → t.fld (Fld.CFR_FAULT_INFO_KIND c) = 2 ∧ t.fld (Fld.CFR_FAULT_INFO_PLAN c) = plan.toNat) ∧
        (inWings x s0 = false → (t.core c).stopped = true)) ∧
      ((e.st = .filling ∨ e.st = .reading) → e.rd < e.n →
        (∀ p, e.pages[e.rd / perPage e.enc e.ff]? = some (.frame p) → ∃ t, exec i s = .next t ∧ (∀ a, t.byte a = s.byte a) ∧
          CoreAlone c ((s.core c).regs.setV vd (decodeGroup enc ff
            (s.bytes (framePageAddr c p + e.rd % perPage e.enc e.ff * groupBytes e.enc e.ff) (groupBytes e.enc e.ff)))) s t ∧
          ((inWings x s0 = true ∨ e.rd + 1 < e.n) → ((t.core c).cfEntry plan.toNat).rd = e.rd + 1 ∧
            ((t.core c).cfEntry plan.toNat).n = e.n ∧ ((t.core c).cfEntry plan.toNat).st = .reading) ∧
          (inWings x s0 = false → e.n ≤ e.rd + 1 → (t.core c).cfEntry plan.toNat = {})) ∧
        ((∀ p, e.pages[e.rd / perPage e.enc e.ff]? ≠ some (.frame p)) → ∃ t, exec i s = .next t ∧ (∀ a, t.byte a = s.byte a) ∧
          CoreAlone c (s.core c).regs s t ∧ (t.core c).uD = (s.core c).uD ∧
          (t.core c).cfEntry plan.toNat = fetching (s.core c) e))

/-- FRAME_SPILL, FRAME_SPILL_DONE and FRAME_READBACK_DONE (R181, R182, R230): while fewer than 24 pages beyond the reserve are free, a spill takes
the oldest spillable page to the lowest free region page; when it ends, the region page holds what the frame page held, and when a
read-back ends, the other way round. The moves end at the core's position of the wheel. Nothing but the one entry and the 2 KiB of the
page's new place changes, and where there is nothing to move nothing changes at all. -/
def FrameMoves : Prop :=
  ∀ (c : CoreId) (s : State), Canonical s → Clean s → s.live = true →
    (∀ p i f r, (s.core c).freeFrame < 32 → (s.core c).spillsRunning < 16 → spillTarget (s.core c) = some (p, i, f) →
      pickRegion c s = some r → ∃ t, exec (.frameSpill c) s = .next t ∧ OnlyCore c s t ∧
        t.core c = (s.core c).setCf p { (s.core c).cfEntry p with pages := ((s.core c).cfEntry p).pages.set i (.spilling f r) }) ∧
    ((32 ≤ (s.core c).freeFrame ∨ 16 ≤ (s.core c).spillsRunning ∨ spillTarget (s.core c) = none ∨ pickRegion c s = none) →
      exec (.frameSpill c) s = .next s) ∧
    (∀ p i f r, firstMove (s.core c) (fun l => match l with | .spilling _ _ => true | _ => false) = some (p, i, .spilling f r) →
      ∃ t, exec (.frameSpillDone c) s = .next t ∧ (∀ a, t.reg a = s.reg a) ∧ (∀ k, k ≠ c → t.core k = s.core k) ∧
        t.tim = (frameTurn c (regionPageAddr s c r) s).tim ∧
        t.core c = (s.core c).setCf p { (s.core c).cfEntry p with pages := ((s.core c).cfEntry p).pages.set i (.ovf r) } ∧
        BytesOutside (regionPageAddr s c r) 2048 s t ∧
        ∀ j, j < 2048 → t.byte (regionPageAddr s c r + j) = s.byte (framePageAddr c f + j)) ∧
    (firstMove (s.core c) (fun l => match l with | .spilling _ _ => true | _ => false) = none →
      exec (.frameSpillDone c) s = .next s) ∧
    (∀ p i f r, firstMove (s.core c) (fun l => match l with | .readback _ _ => true | _ => false) = some (p, i, .readback r f) →
      ∃ t, exec (.frameReadbackDone c) s = .next t ∧ (∀ a, t.reg a = s.reg a) ∧ (∀ k, k ≠ c → t.core k = s.core k) ∧
        t.tim = (frameTurn c (regionPageAddr s c r) s).tim ∧
        t.core c = (s.core c).setCf p { (s.core c).cfEntry p with pages := ((s.core c).cfEntry p).pages.set i (.frame f) } ∧
        BytesOutside (framePageAddr c f) 2048 s t ∧
        ∀ j, j < 2048 → t.byte (framePageAddr c f + j) = s.byte (regionPageAddr s c r + j)) ∧
    (firstMove (s.core c) (fun l => match l with | .readback _ _ => true | _ => false) = none →
      exec (.frameReadbackDone c) s = .next s)

end Sys2Proof.Safety

/-- STASH and UNSTASH store and return the groups of a plan entry in order, in the wings and outside them, and FRAME_SPILL, FRAME_SPILL_DONE and
FRAME_READBACK_DONE move its pages to the overflow region and back (R165, R177 to R187, R230): what each row does is said at `StashRow`,
`UnstashRow` and `FrameMoves`. -/
def Obligations.ColdFrameHoldsGroups : Prop := StashRow ∧ UnstashRow ∧ FrameMoves

namespace Sys2Proof.Safety

open Sys2Proof.Machine

/-- Packet `p` has gone to egress link `port`: it has left the device on it as R236 and R246 have it depart, or waits in its queue for a
credit (R260, R261). -/
def Launched (t : State) (port : Nat) (p : Pkt) : Prop :=
  OutItem.packet port (depart t port p) ∈ t.out ∨ (⟨port, none, p⟩ : TxItem) ∈ t.fab.tx

/-- A packet as a source's own first hop leaves it (R252, R255). -/
def firstHop (s : State) (p : Pkt) : Pkt := p.leave (decide (s.fld Fld.FAB_EPOCH_SRC = 1)) (codeDl (p.code 0)) 1

/-- The F-slot rows that read an address register, with the kind of their table entry (R166). -/
def portRow : Instr → Option (CoreId × BitVec 12 × Nat × BitVec 4)
  | .send c x p => some (c, x, 1, p)
  | .recv c x p => some (c, x, 2, p)
  | .gather c x p => some (c, x, 3, p)
  | _ => none

/-- A transfer as its instruction puts it at the port: not yet sent (R166). -/
def newTransfer (i : Instr) (x : Ctx) (s : State) (xi : BitVec 12) (addr : Nat) (acc : Option Desc) (treg : Nat) (fence : Bool) : PortXfer :=
  ⟨i, xi.toNat, addr, acc, treg, if inWings x s then x.region else none, x.bundle, x.regs, fence, false, false, [], none, 0, [], false, x.seq,
    x.at_, (0, [])⟩

/-- Core `c` has one transfer more at its port, and `f` waits at its fence; its registers, tiles and pipeline, the register map, memory
and the other cores are as they were. -/
def Queued (c : CoreId) (w : PortXfer) (f : List FenceOp) (s t : State) : Prop :=
  SameMaps s t ∧ (∀ k, k ≠ c → t.core k = s.core k) ∧ (t.core c).regs = (s.core c).regs ∧ (t.core c).port = (s.core c).port ++ [w] ∧
    (t.core c).tWait = (s.core c).tWait ++ f ∧ (t.core c).tiles = (s.core c).tiles ∧ (t.core c).inflight = (s.core c).inflight

/-- The core has started no transfer: its port, its registers, memory and the other cores are as they were. -/
def NoTransfer (c : CoreId) (s t : State) : Prop :=
  (t.core c).port = (s.core c).port ∧ (t.core c).regs = (s.core c).regs ∧ (∀ a, t.byte a = s.byte a) ∧ ∀ k, k ≠ c → t.core k = s.core k

/-- The windows that a launch of the transfer at CYCLE `n` claims on the bed switch: the outbound ones of a SEND, a GATHER and an XRED, the
inbound ones of a RECV (R127). -/
def launchSpans (c : CoreId) (e : XferEntry) (n : Nat) : List (BedPort × Nat × Nat) :=
  if e.kind = 2 then inSpans c e.linkDie (wireBytes e.bytes) n
  else outSpans c e.linkDie (wireBytes (if e.kind = 3 then 64 else e.bytes)) n

/-- A launch of a transfer falls due at CYCLE `n`: at its anchor, where it meets no other transfer on a bed switch port (R19, R127), or late,
at the first windows that the set and the transfers of the scene leave free (R130). -/
def LaunchDue (c : CoreId) (xi : BitVec 12) (e : XferEntry) (i : Instr) (n : Nat) (s : State) : Prop :=
  (i = .transferAnchor c xi ∧ nextAnchor e s.cycle = some n ∧ n = e.anchor ∧
      portMeets c (if e.kind = 4 then launchSpans c e n else entrySpans c e) (advanceTo (s.cycleAt n) s) = false) ∨
    (i = .lateTransferLaunch c xi ∧
      firstFree (takenSpans s ++ s.fab.spans) (launchSpans c e) 900000 (max s.cycle (e.anchor + 1)) = some n)

/-- What a launch at CYCLE `n` leaves as it was, and what it claims: time has come to the launch, the windows are claimed, and the register map, the
core's registers and the other cores are as they were. -/
def LaunchedAt (c : CoreId) (n : Nat) (spans : List (BedPort × Nat × Nat)) (s t : State) : Prop :=
  t.tim.now = max s.tim.now (s.cycleAt n) ∧ t.fab.spans = s.fab.spans ++ spans ∧ (∀ a, t.reg a = s.reg a) ∧
    (t.core c).regs = (s.core c).regs ∧ ∀ k, k ≠ c → t.core k = s.core k

/-- The payloads of an XRED's outbound stream: its elements in order, in canonical form (R274, R278). -/
def xredPayloads (s : State) (c : CoreId) (d : Desc) (e : XferEntry) : List (List Byte) :=
  packStream ((List.range e.outCount).map fun i => (readAcc s c d.granule false (e.outFirst + i)).toXp.encode) 0 0 []

/-- The packets of an XRED's stream from SEQ `first`, `more`: others follow (R278). -/
def XredLaunched (c : CoreId) (e : XferEntry) (port first : Nat) (ps : List (List Byte)) (more : Bool) (s t : State) : Prop :=
  ∀ i p, ps[i]? = some p → Launched t port (firstHop s
    (mkData s 3 2 e.hops e.route e.dtype e.dest c.val e.dcore e.res (first + i) (!more && decide (i + 1 = ps.length)) false 0 p))

end Sys2Proof.Safety

/-! ### The fabric port of a core -/

/-- SEND, RECV and GATHER (R133, R134, R166, R219): with an entry of their kind and an address that the place allows, each puts one transfer
at the port, not yet sent; a SEND in the wings only to a core, a RECV in the wings only into the wings area, and a GATHER only outside
them. Otherwise nothing is put there: in the wings SPEC_ESCAPE is reported, and a bad address outside them stops the core. XRED (R166, R278, R279):
the same with a legal tile that no earlier instruction waits for; while partials of the tile are in flight it also waits at the fence; on an illegal tile
the core stops. RECV_COMPLETE, GATHER_COMPLETE and XRED_COMPLETE (R107, R265, R278, R282): a transfer whose packets are all written, or an XRED
whose stream has left whole and whose contributions have all been added, leaves the port, and an XRED's tile is settled; before that nothing changes. -/
def Obligations.PortRowsQueueATransfer : Prop :=
  (∀ (i : Instr) (c : CoreId) (xi : BitVec 12) (kind : Nat) (p : BitVec 4) (e : XferEntry) (a : Nat) (s s0 : State) (x : Ctx),
    portRow i = some (c, xi, kind, p) → Canonical s → Starts c .f i s x s0 → (s.core c).xferOf xi kind = some e → a = (x.regs.pr p).toNat →
      ((kind = 1 → ownScratchKind s c a e.bytes = none ∧ (inWings x s0 = true → e.dtype = 1 ∧ e.dcore ≤ 95)) →
        (kind ≠ 1 → Writable x s0 a e.bytes) → (kind = 3 → inWings x s0 = false) →
          ∃ t, exec i s = .next t ∧ Queued c (newTransfer i x s0 xi a none 0 true) [] s t) ∧
      (inWings x s0 = true → (kind = 1 ∧ ownScratchKind s c a e.bytes = none ∧ ¬(e.dtype = 1 ∧ e.dcore ≤ 95) ∨
          kind = 2 ∧ inWingsArea s0 c a e.bytes = false ∨ kind = 3) →
        ∃ t, exec i s = .next t ∧ NoTransfer c s t ∧ t.fld Fld.SCN_SPEC_STATUS_ESCAPE = 1) ∧
      ((kind = 1 ∨ inWings x s0 = false) → ownScratchKind s c a e.bytes ≠ none →
        ∃ t, exec i s = .next t ∧ NoTransfer c s t ∧ (t.core c).stopped = true ∧ t.fld (Fld.SPD_STATUS_ADDR c) = 1)) ∧
  (∀ (c : CoreId) (xi : BitVec 12) (acc : BitVec 4) (i : Instr) (e : XferEntry) (s s0 : State) (x : Ctx), i = .xred c xi acc → Canonical s →
    Starts c .f i s x s0 → (s.core c).xferOf xi 4 = some e → behindOther x acc s0 = false →
      (∀ d l, x.regs.tr acc = some d → tileFor (s.core c) d = some l →
        (inWings x s0 = false → xredLegal e l = true → ∃ t, exec i s = .next t ∧
          Queued c (newTransfer i x s0 xi 0 (some d) acc.toNat (decide (l.inflight = 0)))
            (if l.inflight = 0 then [] else [⟨⟨i, x.regs, x.bundle, x.region, x.seq, x.at_⟩, none⟩]) s t) ∧
        (inWings x s0 = false → xredLegal e l = false → ∃ t, exec i s = .next t ∧ OperandStop c s t ∧ (t.core c).port = (s.core c).port) ∧
        (inWings x s0 = true → ∃ t, exec i s = .next t ∧ NoTransfer c s t ∧ t.fld Fld.SCN_SPEC_STATUS_ESCAPE = 1)) ∧
      ((∀ d, x.regs.tr acc = some d → tileFor (s.core c) d = none) → ∃ t, exec i s = .next t ∧ OperandStop c s t ∧
        (t.core c).port = (s.core c).port)) ∧
  (∀ (c : CoreId) (xi : BitVec 12) (w : PortXfer) (s : State), Canonical s →
    (∀ i kind, (i = .recvComplete c xi ∧ kind = 2 ∨ i = .gatherComplete c xi ∧ kind = 3) → (s.core c).portOf xi kind = some w →
      ((∃ l, w.lastSeq = some l ∧ ∀ n, n ≤ l → n ∈ w.seqs) → ∃ t, exec i s = .next t ∧ OnlyCore c s t ∧
        t.core c = { s.core c with port := (s.core c).port.erase w }) ∧
      ((∀ l, w.lastSeq = some l → ∃ n, n ≤ l ∧ n ∉ w.seqs) → exec i s = .next s)) ∧
    (∀ e, (s.core c).portOf xi 4 = some w → (s.core c).xferOf xi 4 = some e →
      (w.sent = true → w.rest.2 = [] → w.bad = false → w.added = e.inStreams * e.inCount → ∃ t, exec (.xredComplete c xi) s = .next t ∧
        OnlyCore c s t ∧ (t.core c).regs = (s.core c).regs ∧ (t.core c).port = (s.core c).port.erase w ∧
        ∀ d l, w.acc = some d → (s.core c).tile d.granule = some l →
          (t.core c).tile d.granule = some { l with settled := max l.settled (s.cycle + 1) }) ∧
      ((w.sent = false ∨ w.rest.2 ≠ [] ∨ w.bad = true ∨ w.added ≠ e.inStreams * e.inCount) → exec (.xredComplete c xi) s = .next s)))

/-- TRANSFER_ANCHOR and LATE_TRANSFER_LAUNCH (R19, R127, R130, R138, R247, R253, R265, R278, R279, R281): a launch that falls due claims its
windows of the bed switch. A SEND whose data is readable leaves the port in packets of at most 4,096 bytes of its data; one of a region is
counted for the peer's notice. The data of a RECV begins to move once a packet of its reservation waits. A GATHER's request goes as one
packet. An XRED sends its elements in canonical form, as many packets as BYTES covers, and each element takes the start state; the rest
follows late. No other byte of memory changes. A route that the source test refuses launches nothing and stops the core. -/
def Obligations.TransfersLaunchTheirPackets : Prop :=
  (∀ (c : CoreId) (xi : BitVec 12) (w : PortXfer) (e : XferEntry) (i : Instr) (n : Nat) (s : State), Canonical s → Clean s →
    s.live = true → portWith c xi s = some (w, e) → LaunchDue c xi e i n s →
      (∀ port, launchTest s e.route e.hops 24 (some e.linkDie) = .ok port →
        (e.kind = 1 → Readable (w.ctx c) (advanceTo (s.cycleAt n) s) w.addr e.bytes →
          ∃ t, exec i s = .next t ∧ (∀ a, t.byte a = s.byte a) ∧ LaunchedAt c n (launchSpans c e n) s t ∧
            (t.core c).port = (s.core c).port.erase w ∧
            (∀ q ∈ payloads (s.bytes w.addr e.bytes), Launched t port (firstHop s
              (mkData s 3 0 e.hops e.route e.dtype e.dest c.val e.dcore e.res q.1 q.2.1 w.region.isSome 0 q.2.2))) ∧
            (w.region = none → (t.core c).region = (s.core c).region) ∧
            (w.region ≠ none → (t.core c).region = (s.core c).region.map (noteSent ⟨e.dest, e.dcore, false, e.res,
              (payloads (s.bytes w.addr e.bytes)).length, e.hops, e.route, BitVec.ofNat 4 e.dtype⟩))) ∧
        (e.kind = 3 → w.sent = false → ∃ t, exec i s = .next t ∧ (∀ a, t.byte a = s.byte a) ∧ LaunchedAt c n (launchSpans c e n) s t ∧
          (t.core c).port = (s.core c).port.map (fun v => if v = w then { w with sent := true, inOn := true } else v) ∧
          Launched t port (firstHop s (mkData s 3 1 e.hops e.route e.dtype e.dest c.val 0x7D e.res 0 true false 0 (gatherRequest c e)))) ∧
        (∀ d k ps, e.kind = 4 → (i = .transferAnchor c xi → e.inCount = 0 ∨ e.inAnchor ≠ n) → w.rest.2 = [] → w.fence = true → w.sent = false →
          e.anchor < s.cycle ∨ n = e.anchor → w.acc = some d → ps = xredPayloads s c d e → k = fitIn e.bytes ps →
          ∃ t, exec i s = .next t ∧ LaunchedAt c n (outSpans c e.linkDie (wireBytes ((ps.take k).map (·.length)).sum) n) s t ∧
            (t.core c).port = (s.core c).port.map (fun v => if v = w then { w with sent := true, rest := (k, ps.drop k) } else v) ∧
            XredLaunched c e port 0 (ps.take k) (decide (k < ps.length)) s t ∧
            ∀ a, t.byte a = (((List.range e.outCount).map (e.outFirst + ·)).foldl
              (fun s i => writeAcc c d.granule false false i Accum.start s) s).byte a)) ∧
      (∀ cause hop, launchTest s e.route e.hops 24 (some e.linkDie) = .bad cause hop → (e.kind = 3 ∧ w.sent = false ∨
          e.kind = 1 ∧ Readable (w.ctx c) (advanceTo (s.cycleAt n) s) w.addr e.bytes) →
        ∃ t, exec i s = .next t ∧ (∀ a, t.byte a = s.byte a) ∧ (t.core c).stopped = true ∧ (t.core c).port = (s.core c).port.erase w ∧
          t.fab = s.fab ∧ t.fld Fld.FAB_STATUS_ROUTE_ILLEGAL = 1) ∧
      (e.kind = 2 → w.inOn = false → inboundHere s c e.res = true → ∃ t, exec i s = .next t ∧ (∀ a, t.byte a = s.byte a) ∧
        LaunchedAt c n (launchSpans c e n) s t ∧
        (t.core c).port = (s.core c).port.map (fun v => if v = w then { w with inOn := true } else v))) ∧
  (∀ (c : CoreId) (xi : BitVec 12) (w : PortXfer) (e : XferEntry) (port n : Nat) (s : State), Canonical s → Clean s → s.live = true →
    portWith c xi s = some (w, e) → e.kind = 4 → w.rest.2 ≠ [] → launchTest s e.route e.hops 24 (some e.linkDie) = .ok port →
    firstFree (takenSpans s ++ s.fab.spans) (outSpans c e.linkDie (wireBytes (w.rest.2.map (·.length)).sum)) 900000
      (max s.cycle (e.anchor + 1)) = some n →
      ∃ t, exec (.lateTransferLaunch c xi) s = .next t ∧ (∀ a, t.byte a = s.byte a) ∧
        LaunchedAt c n (outSpans c e.linkDie (wireBytes (w.rest.2.map (·.length)).sum) n) s t ∧
        (t.core c).port = (s.core c).port.map
          (fun v => if v = w then { w with sent := true, rest := (w.rest.1 + w.rest.2.length, []) } else v) ∧
        XredLaunched c e port w.rest.1 w.rest.2 false s t)

namespace Sys2Proof.Safety

open Sys2Proof.Machine

/-- A counting field has gone up by one, or stays at its largest value. -/
def Counted (f : Fld) (s t : State) : Prop := t.fld f = min (2 ^ f.w - 1) (s.fld f + 1)

/-- The marks of a core's pending lines are in their canonical form. -/
def PendOk (k : Core) : Prop := SMap.wf (fun _ => (none : Option Pend)) k.pend = true

/-- The notice of region `r` of core `c` has gone to every peer that received data of it (R138, R283): to a core of this device over the
memory network, to another device along the first SEND's route, where the source test lets it. -/
def Noticed (c : CoreId) (r : Region) (outcome : Nat) (s t : State) : Prop :=
  ∀ p ∈ peers r.sent,
    (p.local_ = true → ∀ o : CoreId, o.val = p.core → ∃ q ∈ (t.core o).sources,
      q.dev = s.fld Fld.FAB_NODE_ID ∧ q.core = c.val ∧ q.region = r.ord ∧ q.notice = some (outcome, [])) ∧
    (p.local_ = false → ∀ port, launchTest s p.route p.hops 12 none = .ok port →
      Launched t port (firstHop s (mkNotice s p (noticePayload s c r.ord outcome p.core
        ((r.sent.filter fun n => decide (n.dev = p.dev ∧ n.core = p.core ∧ !n.local_)).map fun n => (n.res, n.count))))))

/-- What closing region `r` of core `c` leaves: no region, no CONFIRM that waits, the notices sent, and of the other cores nothing changed
but what they hold of source regions. -/
def Closed (c : CoreId) (r : Region) (outcome : Nat) (s t : State) : Prop :=
  (t.core c).region = none ∧ (t.core c).confirm = none ∧ Noticed c r outcome s t ∧ (PendOk (s.core c) → ∀ l, SMap.get none (t.core c).pend l ≠ some .own) ∧
    ∀ k, k ≠ c → t.core k = { s.core k with sources := (t.core k).sources }

/-- What a squash leaves (R135, R137): every line pending for the region reads as zero, no other byte changes, no tile or transfer of the
region is left, its POSADDs are dropped, and it is counted. -/
def Squashed (c : CoreId) (r : Region) (s t : State) : Prop :=
  (∀ l, (l, some .own) ∈ (s.core c).pend → ∀ a, a / 64 = l → t.byte a = 0) ∧
    (∀ a, (a / 64, some .own) ∉ (s.core c).pend → t.byte a = s.byte a) ∧ (∀ m ∈ (t.core c).tiles, m.region ≠ some r.ord) ∧
    (∀ w ∈ (t.core c).port, w.region ≠ some r.ord) ∧ (∀ w ∈ (t.core c).dm, w.region ≠ some r.ord) ∧ t.posadd = s.posadd ∧
    Counted Fld.SCN_SPEC_COUNT_SQUASHED s t

end Sys2Proof.Safety

/-! ### Regions -/

/-- CONFIRM, CONFIRM_OUTCOME and SQUASH (R136, R137, R138): a CONFIRM of an open region waits, until nothing of the region is under way; 2
cycles after its issue and the region's last comparison its outcome is written to GD, 0 where nothing went wrong, 1 where a Repot trigger
and 2 where a fault was met. A confirmed region changes no byte, and its POSADDs join those that wait. A region that is not confirmed, and
one that is abandoned by SQUASH, leaves g, p, v, q, t and SLOT as they were when it opened, and the lines it has written unwritten. Each
outcome closes the region, is counted, and is told to every peer. With no region open CONFIRM and SQUASH have no effect; only the time from
which GD is available is noted (R170). -/
def Obligations.RegionsConfirmOrSquash : Prop :=
  (∀ (c : CoreId) (gd : BitVec 6) (s s0 : State) (x : Ctx), Canonical s → Starts c .c (.confirm c gd) s x s0 →
    ((s.core c).region = none → exec (.confirm c gd) s = .next (s0.updCore c fun k => k.deliver (.confirm c gd) s.cycle)) ∧
    (∀ r, (s.core c).region = some r → ∃ t, exec (.confirm c gd) s = .next t ∧ OnlyCore c s t ∧
      t.core c = ({ s0.core c with
        confirm := some (⟨.confirm c gd, x.regs, x.bundle, none, x.seq, x.at_⟩, gd) }).deliver (.confirm c gd) s.cycle)) ∧
  (∀ (c : CoreId) (r : Region) (e : QEntry) (gd : BitVec 6) (s : State), Canonical s → s.live = true → (s.core c).region = some r →
    (s.core c).confirm = some (e, gd) →
      (regionDone (s.core c) r = false → exec (.confirmOutcome c) s = .next s) ∧
      (regionDone (s.core c) r = true → ∃ t, exec (.confirmOutcome c) s = .next t ∧
        t.tim.now = max s.tim.now (s.cycleAt (confirmAt (s.core c) e r)) ∧
        (r.trigs = [] → r.fault = false → Closed c r 0 s t ∧ (t.core c).regs = (s.core c).regs.setG gd 0 ∧ (∀ a, t.byte a = s.byte a) ∧
          t.posadd = s.posadd ++ r.posadd ∧ Counted Fld.SCN_SPEC_COUNT_CONFIRMED s t) ∧
        (r.trigs ≠ [] → Closed c r 1 s t ∧ (t.core c).regs = r.shadow.setG gd 1 ∧ Squashed c r s t) ∧
        (r.trigs = [] → r.fault = true → Closed c r 2 s t ∧ (t.core c).regs = r.shadow.setG gd 2 ∧ Squashed c r s t))) ∧
  (∀ (c : CoreId) (s s0 : State) (x : Ctx), Canonical s → Starts c .c (.squash c) s x s0 →
    ((s.core c).region = none → exec (.squash c) s = .next s0) ∧
    (∀ r, (s.core c).region = some r → ∃ t, exec (.squash c) s = .next t ∧ Closed c r 3 s t ∧ (t.core c).regs = r.shadow ∧
      Squashed c r s t ∧ (r.sent = [] → ∀ a, a ≠ Fld.SCN_SPEC_COUNT_SQUASHED.reg → t.reg a = s.reg a)))

/-- ADMIT and ADMIT_COMPLETE (R139, R284): an ADMIT of an entry of kind 5 waits; when the source region's notice has come and every packet it
counts is written, the outcome is written to GD, and until then nothing changes. Where the source confirmed, the lines pending for it become
ordinary and no byte changes; otherwise they read as zero, and no other byte changes. -/
def Obligations.AdmitWaitsForItsSource : Prop :=
  (∀ (c : CoreId) (gd : BitVec 6) (xi : BitVec 12) (e : XferEntry) (s s0 : State) (x : Ctx), Canonical s →
    Starts c .c (.admitRegion c gd xi) s x s0 → (s.core c).xferOf xi 5 = some e →
      ∃ t, exec (.admitRegion c gd xi) s = .next t ∧ OnlyCore c s t ∧ t.core c = ({ s0.core c with
        admitOp := some (⟨.admitRegion c gd xi, x.regs, x.bundle, x.region, x.seq, x.at_⟩, gd, xi.toNat) }).deliver (.admitRegion c gd xi) s.cycle) ∧
  (∀ (c : CoreId) (gd : BitVec 6) (xi : Nat) (q : QEntry) (e : XferEntry) (f : Option SrcRegion) (m : Pend) (s : State), Canonical s →
    s.live = true → (s.core c).admitOp = some (q, gd, xi) → (s.core c).xfer xi = some e → m = .src e.peer e.peerCore e.region →
    f = (s.core c).sources.find? (fun r => decide (r.dev = e.peer ∧ r.core = e.peerCore ∧ r.region = e.region)) →
      (∀ r o counts, f = some r → r.notice = some (o, counts) → (r.written.map (·.1)).Nodup →
        (∀ n ∈ counts, ∃ k ∈ r.written, k.1 = n.1 ∧ n.2 ≤ k.2) → ∃ t, exec (.admitComplete c) s = .next t ∧
          (t.core c).regs = (s.core c).regs.setG gd (BitVec.ofNat 64 o) ∧ (t.core c).admitOp = none ∧ (∀ a, t.reg a = s.reg a) ∧
          (∀ k, k ≠ c → t.core k = s.core k) ∧ (PendOk (s.core c) → ∀ l, SMap.get none (t.core c).pend l ≠ some m) ∧
          (∀ a, (o = 0 ∨ (a / 64, some m) ∉ (s.core c).pend) → t.byte a = s.byte a) ∧
          (o ≠ 0 → ∀ l, (l, some m) ∈ (s.core c).pend → ∀ a, a / 64 = l → t.byte a = 0)) ∧
      (f = none → exec (.admitComplete c) s = .next s) ∧
      (∀ r, f = some r → r.notice = none → exec (.admitComplete c) s = .next s) ∧
      (∀ r o counts n, f = some r → r.notice = some (o, counts) → n ∈ counts → 0 < n.2 → (∀ k ∈ r.written, k.1 = n.1 → k.2 < n.2) →
        exec (.admitComplete c) s = .next s))

/-! ### Time, cues and idle ticks -/

namespace Sys2Proof.Safety

open Sys2Proof.Machine

/-- The same memory and the same cores. -/
def SameStores (s t : State) : Prop := (∀ a, t.byte a = s.byte a) ∧ ∀ c, t.core c = s.core c

/-- No write is held in shadow, no power step is under way and no debug scope waits to apply. -/
def NothingHeld (s : State) : Prop := s.pendT = [] ∧ s.pendQ = [] ∧ s.pwr.step = none ∧ s.door.scopeNext = none

/-- Nothing waits for the next cue or idle tick: no write, no effect of a taken command, no POSADD. -/
def NothingWaits (s : State) : Prop := NothingHeld s ∧ s.cmdEff = [] ∧ s.posadd = []

/-- An announced cue falls due: cue `n` that ends the scene and starts `a`'s, without a cue loss; no debug halt holds the control pair
(R312). -/
def CueDue (s : State) (a : Announce) (n : Nat) : Prop :=
  cueReady s = true ∧ s.tim.announced = some a ∧ a.nextCue = some n ∧ s.tim.lockLost = false ∧ NothingHeld s ∧ s.controlHalted = false

/-- A follower's cue falls due without an announcement after cue `p` (R38). -/
def CueMissing (s : State) (p : Nat) : Prop :=
  cueReady s = true ∧ s.tim.cuesRun = true ∧ s.tim.announced = none ∧ s.fld Fld.TIM_ROLE_ROOT = 0 ∧ s.tim.ended = false ∧
    s.tim.lastCue = some p ∧ s.tim.lockLost = false ∧ NothingHeld s

/-- What a cue loss leaves (R38): CUE_LOST and HALTED, no scene running and no further cue. -/
def CuesLost (t : State) : Prop :=
  t.fld Fld.SCN_STATUS_CUE_LOST = 1 ∧ t.fld Fld.SCN_STATUS_HALTED = 1 ∧ t.tim.cuesRun = false ∧ t.tim.sceneOn = false

/-- Core `c` stands at the first bundle of the program that its sequence names at position `pos` (R29, R116). -/
def RunsAt (k : Core) (b : Book) (pos : Nat) : Prop :=
  ∀ e p, (b.seq.getD pos (0xFFFF, false)).1 = e → e ≠ 0xFFFF → b.progs[e]? = some p →
    k.prog = some e ∧ k.pc = p.off / 32 ∧ k.loops = [] ∧ k.atCueWait = false ∧ k.ranScene = true

end Sys2Proof.Safety

/-- CUE (R29, R35 to R37, R116, R140, R144): at the first clock edge from the announced instant the scene ends, and CYCLE counts from it.
Regions are squashed, POSADD sums and taken commands are applied, the position and at the end of a step SCN_STEP go on, and SCN_COUNT takes
the announced number; a number out of sequence is a cue loss and starts no scene. CUE (R29, R116, R124): where no core overran and nothing
halts the device, the next scene starts: every admitted core that is not in debug halt stands at the first bundle of its program for the new
position, with its registers as they were. CUE_HOLDOVER (R38): the first two cues without an announcement are fired in holdover, a scene
length after the last; the third is a cue loss. -/
def Obligations.CuesEndAndStartScenes : Prop :=
  (∀ (s : State) (a : Announce) (n : Nat), Canonical s → CueDue s a n →
    ∃ t, exec .cue s = .next t ∧ t.tim.announced = none ∧ t.tim.lastCue = some n ∧
      t.tim.now = max s.tim.now (s.tim.edgeFrom (max s.tim.now (n * unitNs))) ∧ t.tim.sceneTick = t.tim.ticks ∧
      (s.tim.slewRate = 0 → s.tim.slewLeft = 0 → n * unitNs ≤ t.tim.now) ∧ t.posadd = [] ∧
      t.cmdEff = [] ∧ (∀ c, (t.core c).region = none) ∧
      (outOfSeq s a.scene = false → t.fld Fld.SCN_COUNT_SCENE = a.scene % 2 ^ Fld.SCN_COUNT_SCENE.w) ∧
      (outOfSeq s a.scene = true → t.fld Fld.SCN_COUNT_SCENE = s.fld Fld.SCN_COUNT_SCENE ∧ t.fld Fld.SCN_STATUS_CUE_SEQ = 1 ∧
        CuesLost t) ∧
      (s.tim.sceneOn = true → s.cmdEff = [] →
        t.fld Fld.SCN_SEQ_POS =
          (if seqLen s = 0 then 0 else (s.fld Fld.SCN_SEQ_POS + 1) % seqLen s) % 2 ^ Fld.SCN_SEQ_POS.w ∧
        t.fld Fld.SCN_STEP_STEP =
          (s.fld Fld.SCN_STEP_STEP + b2n (stepEndAt s (s.fld Fld.SCN_SEQ_POS))) % 2 ^ Fld.SCN_STEP_STEP.w)) ∧
  (∀ (s : State) (a : Announce) (n : Nat), Canonical s → CueDue s a n → outOfSeq s a.scene = false → overrunCore s = none →
    a.halt = false → a.len = s.fld Fld.SCN_LEN_LEN → s.fld Fld.SCN_STATUS_HALTED = 0 → s.fld Fld.PWR_STATE_PS ≤ 1 →
    s.fld Fld.SCN_LOAD_STATUS_LOADED = 1 → s.seedSet = true → timeGood s = true →
      ∃ t, exec .cue s = .next t ∧ t.tim.sceneOn = true ∧ t.tim.started = true ∧ t.fld Fld.SCN_STATUS_HALTED = 0 ∧
        ∀ (c : CoreId) (b : Book), (s.core c).book = some b → (s.core c).region = none →
          (t.core c).regs = (s.core c).regs ∧
          (s.fld (Fld.RHS_CORE_ADMITTED c.val) = 1 → dbgHalted s c.val = false → RunsAt (t.core c) b (t.fld Fld.SCN_SEQ_POS))) ∧
  (∀ (s : State) (p : Nat), Canonical s → CueMissing s p →
    ∃ t, exec .cueHoldover s = .next t ∧ t.tim.lastCue = some (p + sceneNs (s.fld Fld.SCN_LEN_LEN)) ∧ t.tim.announced = none ∧
      t.tim.missed = s.tim.missed + 1 ∧
      (s.tim.missed < 2 → t.fld Fld.TIM_STATUS_HOLDOVER = 1 ∧ t.fld Fld.SCN_STATUS_CUE_MISSED = 1 ∧ t.tim.cuesRun = true ∧
        t.fld Fld.SCN_COUNT_SCENE = (s.fld Fld.SCN_COUNT_SCENE + 1) % 2 ^ Fld.SCN_COUNT_SCENE.w) ∧
      (2 ≤ s.tim.missed → CuesLost t))

/-- IDLE_TICK (R45, R144, R301, R366): while no cues run a tick comes every 16,384 ns. It starts no scene and leaves the cores and memory as
they are; what taken commands and POSADDs wrote stands afterwards. IDLE_TICK (R28, R209, R322, R323): a write held in shadow applies at
the tick, a Q-class one only in PS2 or PS3, where an SCN_LEN that would break the budget of a loaded program is withdrawn; a WLT_TAG write
clears its counter as it applies. -/
def Obligations.IdleTicksApply : Prop :=
  (∀ s : State, Canonical s → s.ready = true → s.tim.cuesRun = false → s.controlHalted = false → NothingHeld s →
    ∃ t, exec .idleTick s = .next t ∧ SameStores s t ∧ t.tim.now = max s.tim.now s.tim.idleDue ∧
      t.tim.idleDue = s.tim.idleDue + tickUnits ∧ t.tim.sceneOn = s.tim.sceneOn ∧ t.cmdEff = [] ∧ t.posadd = [] ∧
      (∀ i id pos, s.cmdEff = [.bind i id pos] →
        t.fld (Fld.SCN_SLOT_ID_SEQ_ID i.toNat) = id % 2 ^ 48 ∧ t.fld (Fld.SCN_SLOT_ID_BOUND i.toNat) = 1 ∧
          t.fld (Fld.SCN_SLOT_POS_POS i.toNat) = pos % 2 ^ 32) ∧
      (∀ i, s.cmdEff = [.unbind i] →
        t.fld (Fld.SCN_SLOT_ID_SEQ_ID i.toNat) = 0 ∧ t.fld (Fld.SCN_SLOT_ID_BOUND i.toNat) = 0 ∧
          t.fld (Fld.SCN_SLOT_POS_POS i.toNat) = 0) ∧
      (∀ step pos, s.cmdEff = [.run step pos] →
        t.fld Fld.SCN_STEP_STEP = step % 2 ^ Fld.SCN_STEP_STEP.w ∧ t.fld Fld.SCN_SEQ_POS = pos % 2 ^ Fld.SCN_SEQ_POS.w) ∧
      (∀ winner dp, s.cmdEff = [.align winner dp] → s.fld Fld.SCN_RESTORE_STATE = 3 → t.fld Fld.SCN_RESTORE_STATE = 4 ∧
        (winner ≠ 0 → t.fld Fld.SCN_STEP_STEP = dp % 2 ^ Fld.SCN_STEP_STEP.w)) ∧
      (∀ i n, s.cmdEff = [] → s.posadd = [(i, n)] → s.fld (Fld.SCN_SLOT_ID_BOUND i.toNat) = 1 →
        t.fld (Fld.SCN_SLOT_POS_POS i.toNat) = (s.fld (Fld.SCN_SLOT_POS_POS i.toNat) + n) % 2 ^ 32)) ∧
  (∀ (s : State) (v : Nat), Canonical s → s.ready = true → s.tim.cuesRun = false → s.controlHalted = false → s.pwr.step = none → s.door.scopeNext = none →
    s.cmdEff = [] → s.posadd = [] →
    (s.pendT = [] → s.pendQ = [⟨Fld.SCN_LEN_LEN.reg, Fld.SCN_LEN_LEN.lo, Fld.SCN_LEN_LEN.w, v⟩] →
      ∃ t, exec .idleTick s = .next t ∧
        (s.fld Fld.PWR_STATE_PS ≤ 1 → t.pendQ = s.pendQ ∧ t.fld Fld.SCN_LEN_LEN = s.fld Fld.SCN_LEN_LEN) ∧
        (s.fld Fld.PWR_STATE_PS = 2 → budgetOk s v s.div = true →
          t.pendQ = [] ∧ t.fld Fld.SCN_LEN_LEN = v % 2 ^ Fld.SCN_LEN_LEN.w) ∧
        (s.fld Fld.PWR_STATE_PS = 2 → budgetOk s v s.div = false →
          t.pendQ = [] ∧ t.fld Fld.SCN_LEN_LEN = s.fld Fld.SCN_LEN_LEN ∧ t.fld Fld.SCN_STATUS_LEN_BUDGET = 1)) ∧
    (∀ i, i < 256 → s.pendQ = [] → s.pendT = [⟨(Fld.WLT_TAG_TAG i).reg, (Fld.WLT_TAG_TAG i).lo, (Fld.WLT_TAG_TAG i).w, v⟩] →
      ∃ t, exec .idleTick s = .next t ∧ t.pendT = [] ∧ t.fld (Fld.WLT_TAG_TAG i) = v % 2 ^ (Fld.WLT_TAG_TAG i).w ∧
        t.fld (Fld.WLT_COUNT_COUNT i) = 0))

/-! ### The cue tree -/

namespace Sys2Proof.Safety

open Sys2Proof.Machine

/-- A timing packet of this device leaves on every child link that can carry it (R34, R249). -/
def TimingGoes (s t : State) (cue scene len flags : Nat) : Prop :=
  ∀ k ∈ children s, linkUsable s k = true →
    Launched t k (.ctrl (treePacket 1 (timingPayload t.ns 0 cue scene len flags 0) s))

/-- No overrun, no cue loss and no core in debug halt holds the device halted (R31, R406). -/
def Unheld (s : State) : Prop := s.fld Fld.SCN_STATUS_OVERRUN = 0 ∧ s.fld Fld.SCN_STATUS_CUE_LOST = 0 ∧ debugMask s = 0

/-- EPOCH_VALID and HOLDOVER in the flags of a timing packet. -/
def timeFlags (s : State) : Nat := 4 * s.fld Fld.TIM_STATUS_EPOCH_VALID + 8 * s.fld Fld.TIM_STATUS_HOLDOVER

end Sys2Proof.Safety

/-- SYNC_PACKET_EMIT, ANNOUNCEMENT_EMIT and FINAL_ANNOUNCEMENT (R31, R34, R40, R249): a cue root sends its time on every child link; at the
midpoint of a scene with the cue that ends it, which it announces to itself too, the scene's number being issued; after its last cue with
NEXT_CUE all ones. An announcement without HALT clears HALTED where nothing else holds it. HALT (R31, R249, R324): a halt notice of a child
link joins the inbound lane, makes a cue root announce HALT, and on another device goes on to the parent once in a scene; one of any other
link is discarded. -/
def Obligations.CueTreeCarriesTimeAndHalt : Prop :=
  (∀ s : State, Canonical s → s.ready = true → s.fld Fld.TIM_ROLE_ROOT = 1 →
    (∃ t x y, exec .syncPacketEmit s = .next t ∧ SameStores s t ∧ t.tim.syncDue = s.tim.syncDue + tickUnits ∧
      t.tim.now = max s.tim.now s.tim.syncDue ∧ TimingGoes s t (2 ^ 64 - 1) x y (timeFlags s)) ∧
    (∀ n c a, s.fld Fld.TIM_STATUS_ROOT_CONFLICT = 0 → s.tim.midDue = some n → s.tim.placed = some a → a.nextCue = some c →
      ∃ t, exec .announcementEmit s = .next t ∧ SameStores s t ∧ t.tim.placed = none ∧ t.tim.now = max s.tim.now n ∧
        t.tim.announced = some { a with len := s.fld Fld.SCN_LEN_LEN, halt := s.tim.haltReq } ∧ t.tim.rootScene = a.scene + 1 ∧
        (s.tim.haltReq = false → Unheld s → t.fld Fld.SCN_STATUS_HALTED = 0) ∧
        TimingGoes s t c a.scene (s.fld Fld.SCN_LEN_LEN) (1 + 2 * b2n s.tim.haltReq + timeFlags s)) ∧
    (∀ n, s.fld Fld.TIM_STATUS_ROOT_CONFLICT = 0 → s.tim.finalDue = some n →
      ∃ t x y, exec .finalAnnouncement s = .next t ∧ SameStores s t ∧ t.tim.finalDue = none ∧ t.tim.now = max s.tim.now n ∧
        (s.tim.haltReq = false → Unheld s → t.fld Fld.SCN_STATUS_HALTED = 0) ∧
        TimingGoes s t (2 ^ 64 - 1) x y (1 + 2 * b2n s.tim.haltReq + timeFlags s))) ∧
  (∀ (k : LinkId) (p : CtrlPkt) (s : State), Canonical s → p.ckind = 2 → linkUsable s k.val = true →
    ∃ t, exec (.halt k p) s = .next t ∧ SameStores s t ∧
      ((s.fld Fld.TIM_CUE_CHILD_MASK).testBit k.val = false → Counted Fld.FAB_DROP_COUNT2_CTRL s t ∧ t.tim = s.tim) ∧
      ((s.fld Fld.TIM_CUE_CHILD_MASK).testBit k.val = true → p ∈ t.fab.lane ∧ (s.inj = [] → ∀ a, t.reg a = s.reg a) ∧
        (s.fld Fld.TIM_ROLE_ROOT = 1 → t.tim.haltReq = true) ∧
        (s.fld Fld.TIM_ROLE_ROOT = 0 → t.fab.haltScene = some (s.fld Fld.SCN_COUNT_SCENE) ∧
          (s.fab.haltScene ≠ some (s.fld Fld.SCN_COUNT_SCENE) → linkUsable s (s.fld Fld.TIM_CUE_PARENT_PORT) = true →
            Launched t (s.fld Fld.TIM_CUE_PARENT_PORT) (.ctrl p)))))

/-- TIMING (R31 to R35, R39, R41, R324): a packet of the parent link joins the inbound lane, sets DEPTH, TREE_SLOW and EPOCH_VALID and ends
holdover (when the last two clear is the model's choice, assumption 60), the first one steps local time to the cue root's, later ones steer
it by at most 200 ppm, and an announcement is heard while cues run; one without HALT clears HALTED where nothing else holds it. A packet 25
hops deep is discarded with TREE_DEEP, one of another link counts in STRAY, and a cue root that hears one stops its cues with ROOT_CONFLICT.
Memory and cores stay as they were. TIM_CAPT_READ (R42): a read of both halves or of the low half latches fabric time and returns it; a
read of the high half returns that of the last latch. -/
def Obligations.TimingSteersAndCaptures : Prop :=
  (∀ (k : LinkId) (p : CtrlPkt) (s : State), Canonical s → p.ckind = 1 → linkUsable s k.val = true →
    ∃ t, exec (.timing k p) s = .next t ∧ SameStores s t ∧ p ∈ t.fab.lane ∧
      (s.fld Fld.TIM_CUE_PARENT_PORT ≠ k.val → Counted Fld.TIM_STATUS_STRAY s t ∧ Counted Fld.FAB_DROP_COUNT2_CTRL s t) ∧
      (s.fld Fld.TIM_ROLE_ROOT = 1 → t.fld Fld.TIM_STATUS_ROOT_CONFLICT = 1 ∧ t.tim.cuesRun = false ∧ t.tim.announced = none) ∧
      (s.fld Fld.TIM_ROLE_ROOT = 0 → s.fld Fld.TIM_CUE_PARENT_PORT ≠ k.val → t.tim = s.tim) ∧
      (s.fld Fld.TIM_ROLE_ROOT = 0 → s.fld Fld.TIM_CUE_PARENT_PORT = k.val →
        (24 ≤ ctrlAt p 37 1 → t.fld Fld.TIM_STATUS_TREE_DEEP = 1 ∧ t.tim = s.tim) ∧
        (ctrlAt p 37 1 < 24 →
          t.fld Fld.TIM_STATUS_DEPTH = ctrlAt p 37 1 + 1 ∧ t.fld Fld.TIM_STATUS_HOLDOVER = 0 ∧
          t.fld Fld.TIM_STATUS_TREE_SLOW = b2n (decide (200 * 65536 < s.fld (Fld.KL_LATENCY_LAT k.val))) ∧
          t.fld Fld.TIM_STATUS_EPOCH_VALID = b2n (timingFlag p 2) ∧
          (s.tim.everLocked = false → t.tim.now = (rootTime k.val p s).toNat) ∧
          (s.tim.everLocked = true → ¬(timingFlag p 2 = true ∧ s.fld Fld.TIM_STATUS_EPOCH_VALID = 0) →
            t.tim.now = s.tim.now ∧ t.tim.slewRate.natAbs ≤ 65) ∧
          (timingFlag p 0 = true → timingFlag p 1 = false → Unheld s → t.fld Fld.SCN_STATUS_HALTED = 0) ∧
          (timingFlag p 0 = true → ctrlAt p 16 8 ≠ 2 ^ 64 - 1 → s.tim.cuesRun = true →
            t.tim.announced = some ⟨some (ctrlAt p 16 8), ctrlAt p 24 8, ctrlAt p 32 3, timingFlag p 1⟩)))) ∧
  (∀ s : State, Canonical s → s.barOpen = true →
    (∃ t, exec (.timCaptRead 0) s = .next t ∧ t.fld Fld.TIM_CAPT_TIME = s.ns % 2 ^ 64 ∧ SameStores s t ∧
      t.out = s.out ++ [.completion (s.ns % 2 ^ 64)] ∧ ∀ a, a ≠ Fld.TIM_CAPT_TIME.reg → t.reg a = s.reg a) ∧
    (∃ t, exec (.timCaptRead 1) s = .next t ∧ t.fld Fld.TIM_CAPT_TIME = s.ns % 2 ^ 64 ∧ SameStores s t ∧
      t.out = s.out ++ [.completion (s.ns % 2 ^ 32)] ∧ ∀ a, a ≠ Fld.TIM_CAPT_TIME.reg → t.reg a = s.reg a) ∧
    exec (.timCaptRead 2) s = .next { s with out := s.out ++ [.completion (s.fld Fld.TIM_CAPT_TIME / 2 ^ 32)] })

/-! ### K-links -/

/-- R242: a link stays in RATE while FAB_NODE.VALID is 0 and where the peer reports this node's own type and identifier, which sets
ID_CLASH; what the peer reports of itself is shown in KL_STATUS and checked against nothing else. Any other peer of a type that is
not reserved takes the link to the highest common revision (R240). -/
def Obligations.LinksLeaveRateWithAKnownPeer : Prop :=
  ∀ (k : LinkId) (rev gen : BitVec 2) (type : BitVec 4) (id : BitVec 16) (port : BitVec 6) (s : State), Canonical s →
    s.fld (Fld.KL_STATUS_STATE k.val) = 2 →
      ∃ t, exec (.capabilityExchange k rev gen type id port) s = .next t ∧ SameStores s t ∧
        t.fld (Fld.KL_STATUS_PEER_ID k.val) = id.toNat ∧ t.fld (Fld.KL_STATUS_PEER_TYPE k.val) = type.toNat ∧
        t.fld (Fld.KL_STATUS_PEER_PORT k.val) = port.toNat ∧ t.fld (Fld.KL_STATUS_PEER_GEN k.val) = gen.toNat ∧
        (s.fld Fld.FAB_NODE_VALID = 0 → t.fld (Fld.KL_STATUS_STATE k.val) = 2) ∧
        (s.fld Fld.FAB_NODE_VALID = 1 → type = 1 → id.toNat = s.fld Fld.FAB_NODE_ID →
          t.fld (Fld.KL_STATUS_STATE k.val) = 2 ∧ t.fld (Fld.KL_STATUS_ID_CLASH k.val) = 1) ∧
        (s.fld Fld.FAB_NODE_VALID = 1 → ¬(type = 1 ∧ id.toNat = s.fld Fld.FAB_NODE_ID) → 1 ≤ type.toNat → type.toNat ≤ 3 → rev ≠ 0 →
          t.fld (Fld.KL_STATUS_STATE k.val) = 3 ∧ t.fld (Fld.KL_STATUS_ID_CLASH k.val) = 0 ∧
          t.fld (Fld.KL_STATUS_REV k.val) = min rev.toNat (s.fld (Fld.KL_CTRL_REV_MAX k.val)))

namespace Sys2Proof.Safety

open Sys2Proof.Machine

/-- The link has stopped: it carries nothing, what it held is discarded, DOWNS counts it, and it stands in DETECT, or in OFF where it may
not train (R239, R240). -/
def LinkStopped (k : LinkId) (s t : State) : Prop :=
  Counted (Fld.KL_ERR_DOWNS k.val) s t ∧ t.fld (Fld.KL_STATUS_UP k.val) = 0 ∧ t.fld (Fld.KL_STATUS_STATE k.val) = restState s k.val ∧
    (∀ r ∈ t.fab.rx, r.link ≠ k.val) ∧ (∀ x ∈ t.fab.tx, x.link ≠ k.val)

end Sys2Proof.Safety

/-- LINK_DETECT_PROBE, EQUALISE_DONE, MEASURE_DONE and VERIFY_DONE (R240, R241): each takes a link in its state to the next one; a probe that
is answered sends the capability word, the latency is half of what the 64 probes took beyond the peer's turnaround, on average, and one
above 1,000 ns holds the link in MEASURE with LONG set. Memory and cores stay as they were. LINK_DOWN and TRAINING_RETRY (R238 to R240): the
link carries nothing, its queues and buffers are empty, DOWNS counts it, and it stands in DETECT again, after a failure 10 ms on, or in OFF
where it may not train. FLIT (R237, R238, R244): a flit that fails CRC or FEC is answered with a NAK of the next SEQ and brings nothing in, and
the eighth in a row takes the link down; one that passes out of order is dropped; one in order is acknowledged, the link's SEQ goes on, and
in PS0 to PS2 the data packets that it completes on VL0 to VL2 lie in the link's receive buffers. -/
def Obligations.LinksTrainAndTakeFlits : Prop :=
  (∀ (k : LinkId) (s : State), Canonical s →
    (∀ found, s.fld (Fld.KL_STATUS_STATE k.val) = 1 → s.fld Fld.PWR_STATE_PS ≤ 2 →
      ∃ t, exec (.linkDetectProbe k found) s = .next t ∧ SameStores s t ∧ t.tim.now = max s.tim.now (s.link k.val).due ∧
        t.link k.val = { s.link k.val with
          due := t.tim.now + 1000000 * unitNs, since := if found then t.tim.now else (s.link k.val).since } ∧
        (found = true → OutItem.linkWord k.val 7 (capability k.val s) ∈ t.out) ∧
        t.fld (Fld.KL_STATUS_STATE k.val) = if found then 2 else 1) ∧
    (s.fld (Fld.KL_STATUS_STATE k.val) = 3 →
      ∃ t, exec (.equaliseDone k) s = .next t ∧ SameStores s t ∧ t.fld (Fld.KL_STATUS_STATE k.val) = 4 ∧
        (t.link k.val).saved = some (s.fld (Fld.KL_STATUS_REV k.val), s.fld (Fld.KL_STATUS_PEER_TYPE k.val),
          s.fld (Fld.KL_STATUS_PEER_ID k.val))) ∧
    (∀ probes : List (BitVec 40 × BitVec 40), s.fld (Fld.KL_STATUS_STATE k.val) = 4 → s.fld (Fld.KL_STATUS_LONG k.val) = 0 →
      probes.length = 64 → ∃ t lat, exec (.measureDone k probes) s = .next t ∧ SameStores s t ∧
        lat = (probes.map fun p => p.1.toNat - p.2.toNat).sum / 128 ∧ t.fld (Fld.KL_LATENCY_LAT k.val) = min (2 ^ 32 - 1) lat ∧
        t.fld (Fld.KL_STATUS_STATE k.val) = (if lat ≤ 1000 * 65536 then 5 else 4) ∧
        t.fld (Fld.KL_STATUS_LONG k.val) = if lat ≤ 1000 * 65536 then 0 else 1) ∧
    (s.fld (Fld.KL_STATUS_STATE k.val) = 5 →
      ∃ t, exec (.verifyDone k) s = .next t ∧ SameStores s t ∧ t.fld (Fld.KL_STATUS_STATE k.val) = 6 ∧
        t.fld (Fld.KL_STATUS_UP k.val) = 1 ∧ t.link k.val = { saved := (s.link k.val).saved })) ∧
  (∀ (k : LinkId) (i : Instr) (s : State), Canonical s →
    (i = .linkDown k ∧ s.fld (Fld.KL_STATUS_UP k.val) = 1 ∨ i = .trainingRetry k ∧ 1 ≤ s.fld (Fld.KL_STATUS_STATE k.val) ∧
      s.fld (Fld.KL_STATUS_STATE k.val) ≤ 5 ∧ s.fld (Fld.KL_STATUS_LONG k.val) = 0) →
      ∃ t, exec i s = .next t ∧ SameStores s t ∧ LinkStopped k s t ∧
        (i = .linkDown k → t.fld (Fld.KL_STATUS_DOWN k.val) = 1 ∧ t.tim = s.tim) ∧
        (i = .trainingRetry k → t.tim.now = max s.tim.now ((s.link k.val).since + 10000000 * unitNs))) ∧
  (∀ (k : LinkId) (fec mgmt : BitVec 2) (crc : BitVec 32) (bytes : List Byte) (i : Instr) (s : State),
    i = .flit k fec crc mgmt bytes → Canonical s →
    s.fld (Fld.KL_STATUS_UP k.val) = 1 →
    (2 ≤ fec.toNat ∨ flitOk crc bytes = false →
      ((s.link k.val).fails < 7 → ∃ t, exec i s = .next t ∧ SameStores s t ∧ t.fab = s.fab ∧
        t.out = s.out ++ [.linkWord k.val 2 (s.link k.val).rxSeq] ∧
        t.link k.val = { s.link k.val with fails := (s.link k.val).fails + 1 }) ∧
      (7 ≤ (s.link k.val).fails → ∃ t, exec i s = .next t ∧ SameStores s t ∧ LinkStopped k s t)) ∧
    (∀ lctl, lctl = leNat ((bytes.drop 228).take 4) → fec = 0 → flitOk crc bytes = true → lctl.testBit 24 = false →
      (lctl % 4096 ≠ (s.link k.val).rxSeq → exec i s = .next (s.setLink k.val { s.link k.val with fails := 0 })) ∧
      (lctl % 4096 = (s.link k.val).rxSeq → lctl.testBit 25 = false →
        ∃ t, exec i s = .next t ∧ SameStores s t ∧
          (t.link k.val).rxSeq = ((s.link k.val).rxSeq + 1) % 4096 ∧ OutItem.linkWord k.val 4 (s.link k.val).rxSeq ∈ t.out ∧
          (t.link k.val).body = (splitBody 300 ((s.link k.val).body ++ bytes.take 228)).2 ∧
          (s.fld Fld.PWR_STATE_PS ≤ 2 → ∀ q, Pkt.data q ∈ (splitBody 300 ((s.link k.val).body ++ bytes.take 228)).1 → q.vl ≠ 3 →
            (⟨k.val, .data q, 0⟩ : RxItem) ∈ t.fab.rx))) ∧
    (fec = 1 → (s.link k.val).fails < 7 → ∃ t, exec i s = .next t ∧ Counted (Fld.KL_ERR_FEC k.val) s t))

/-! ### The fabric -/

namespace Sys2Proof.Safety

open Sys2Proof.Machine

/-- Packet `p` of link `k`, which carries packets, lies in receive buffer `i` in state `s1`: it lay there in `s`, or it comes in now and takes
the first buffer that R261 and R262 give it. It waits in no transmit queue. -/
def Held (s : State) (k : LinkId) (p : Pkt) (i : RxItem) (s1 : State) : Prop :=
  linkUsable s k.val = true ∧ (∀ x ∈ s.fab.tx, x.held ≠ some i) ∧
    ((heldItem s k.val p = some i ∧ s1 = s) ∨
      (heldItem s k.val p = none ∧ bufferFor s k.val p = some i.buf ∧ i.link = k.val ∧ i.p = p ∧
        s1 = { s with fab := { s.fab with rx := s.fab.rx ++ [i] } }))

/-- A held packet whose route ends at this device, launched in this scene or the last (R252). -/
def HeldHere (s : State) (k : LinkId) (p : Pkt) (i : RxItem) (s1 : State) : Prop :=
  Held s k p i s1 ∧ stale s p = false ∧ p.next = p.hops ∧ p.dtype = 1 ∧ p.dest = s.fld Fld.FAB_NODE_ID

/-- Receive buffer `i` is free again, and its credit has gone back (R261). -/
def BufferFreed (s1 t : State) (i : RxItem) : Prop :=
  t.fab.rx = s1.fab.rx.erase i ∧ OutItem.linkWord i.link 1 (creditKey i.link i.p + 2 ^ 16 * i.p.lscene) ∈ t.out

/-- A packet that VL0 to VL3 route: every data packet, and a NOTICE (R249). -/
def Routed (p : Pkt) : Prop := ∀ q, p = .ctrl q → q.ckind = 3

end Sys2Proof.Safety

/-- PACKET_FORWARD (R249, R252, R254, R262): a stale packet, one whose route ends here though it is for another node, one whose hop code has
no valid entry or another dateline bit, one whose egress carries nothing, and one for which no buffer is free are discarded, each counted
by its reason, and their buffers freed. PACKET_FORWARD (R252, R260): a packet with a valid hop goes to that hop's link with its bank, sub-lane
and NEXT set: it leaves, or waits in the transmit queue with its buffer held until a credit is free; one whose route ends here waits for the
row of its kind, as a timing or halt notice does, and a control packet of a reserved kind is discarded. -/
def Obligations.PacketsGoOnOrAreDropped : Prop :=
  (∀ (k : LinkId) (p : Pkt) (i : RxItem) (s s1 : State), Canonical s → Routed p → Held s k p i s1 →
    (stale s p = true → ∃ t, exec (.packetForward k p) s = .next t ∧ SameStores s t ∧ BufferFreed s1 t i ∧
      Counted Fld.FAB_DROP_COUNT_STALE s t) ∧
    (stale s p = false → p.next = p.hops → (p.dtype ≠ 1 ∨ p.dest ≠ s.fld Fld.FAB_NODE_ID) →
      ∃ t, exec (.packetForward k p) s = .next t ∧ SameStores s t ∧ BufferFreed s1 t i ∧ Counted Fld.FAB_DROP_COUNT2_MISDELIVER s t) ∧
    (stale s p = false → p.next ≠ p.hops →
      (∀ port dl, hopEntry s (arrivalBank s k.val p) (p.code p.next) = some (port, dl) → dl ≠ codeDl (p.code p.next)) →
      ∃ t, exec (.packetForward k p) s = .next t ∧ SameStores s t ∧ BufferFreed s1 t i ∧ Counted Fld.FAB_DROP_COUNT_ROUTE_BAD s t) ∧
    (∀ port, stale s p = false → p.next ≠ p.hops →
      hopEntry s (arrivalBank s k.val p) (p.code p.next) = some (port, codeDl (p.code p.next)) → linkUsable s port = false →
      ∃ t, exec (.packetForward k p) s = .next t ∧ SameStores s t ∧ BufferFreed s1 t i ∧ Counted Fld.FAB_DROP_COUNT2_LINK s t)) ∧
  (∀ (k : LinkId) (p : Pkt) (i : RxItem) (s s1 : State), Canonical s → Routed p → Held s k p i s1 → stale s p = false →
    (∀ port q, p.next ≠ p.hops → hopEntry s (arrivalBank s k.val p) (p.code p.next) = some (port, codeDl (p.code p.next)) →
      linkUsable s port = true → q = p.leave (arrivalBank s k.val p) (nextSub p) (p.next + 1) →
      ∃ t, exec (.packetForward k p) s = .next t ∧ SameStores s t ∧
        (OutItem.packet port (depart t port q) ∈ t.out ∨ (⟨port, some i, q⟩ : TxItem) ∈ t.fab.tx)) ∧
    (p.next = p.hops → p.dtype = 1 → p.dest = s.fld Fld.FAB_NODE_ID → exec (.packetForward k p) s = .next s1)) ∧
  (∀ (k : LinkId) (p : Pkt) (s : State), Canonical s → linkUsable s k.val = true →
    (Routed p → heldItem s k.val p = none → bufferFor s k.val p = none →
      ∃ t, exec (.packetForward k p) s = .next t ∧ SameStores s t ∧ t.fab.rx = s.fab.rx ∧ Counted Fld.FAB_DROP_COUNT_NO_RES s t) ∧
    (∀ q, p = .ctrl q → (q.ckind = 1 ∨ q.ckind = 2) → exec (.packetForward k p) s = .next s) ∧
    (∀ q, p = .ctrl q → q.ckind ≠ 1 → q.ckind ≠ 2 → q.ckind ≠ 3 → ∃ t, exec (.packetForward k p) s = .next t ∧ SameStores s t ∧
      Counted Fld.FAB_DROP_COUNT2_CTRL s t))

/-- CREDIT_RETURN (R260, R261, R263): a credit goes back to its pool, and a packet that waited for it leaves on a link that carries packets; a
credit of a reservation with the LSCENE of another scene is ignored. -/
def Obligations.CreditsLetPacketsGo : Prop :=
  ∀ (k : LinkId) (vl : BitVec 2) (sub : Bool) (res : BitVec 10) (lscene : BitVec 4) (key : Nat) (s : State), Canonical s →
    key = (if vl = 3 then res.toNat else 4096 + 8 * k.val + 2 * vl.toNat + b2n sub) →
    (vl = 3 → lscene.toNat ≠ s.fld Fld.SCN_COUNT_SCENE % 16 → exec (.creditReturn k vl sub res lscene) s = .next s) ∧
    ((vl = 3 → lscene.toNat = s.fld Fld.SCN_COUNT_SCENE % 16) →
      (s.fab.tx = [] → ∃ t, exec (.creditReturn k vl sub res lscene) s = .next t ∧ SameStores s t ∧
        SMap.get 0 t.fab.used key = SMap.get 0 s.fab.used key - 1) ∧
      (∀ x, s.fab.tx = [x] → creditKey x.link x.p = key → 0 < creditTotal s x.link x.p → linkUsable s x.link = true →
        SMap.get 0 s.fab.used key = creditTotal s x.link x.p → ∃ t, exec (.creditReturn k vl sub res lscene) s = .next t ∧
          SameStores s t ∧ t.fab.tx = [] ∧ OutItem.packet x.link (depart t x.link x.p) ∈ t.out ∧
          SMap.get 0 t.fab.used key = SMap.get 0 s.fab.used key ∧
          ∀ i, x.held = some i → BufferFreed s t i))

/-! ### Packets for a core -/

namespace Sys2Proof.Safety

open Sys2Proof.Machine

/-- The transfer at the core's port that takes this WRITE (kind 2, a RECV), SHARD (kind 3, a GATHER) or XP (kind 4, an XRED past its
fence): the first whose inbound data moves and whose reservation the packet carries (R265, R278, R282). -/
def takerOf (k : Core) (kind : Nat) (p : DataPkt) : Option PortXfer :=
  k.port.find? fun w => w.inOn && (match w.instr, k.xfer w.x with
    | .recv .., some e => decide (kind = 2 ∧ e.res = p.res.toNat)
    | .gather .., some e => decide (kind = 3 ∧ e.replyRes = p.res.toNat)
    | .xred .., some e => w.fence && decide (kind = 4 ∧ e.resIn = p.res.toNat)
    | _, _ => false)

/-- The rows that bring a data packet to a core, with the kind of the transfer that takes it and the packet's KIND (R247). -/
def payloadRow (k : LinkId) (p : DataPkt) : Instr → Option (Nat × BitVec 3)
  | .write j q => if j = k ∧ q = p then some (2, 0) else none
  | .shard j q => if j = k ∧ q = p then some (3, 1) else none
  | .xp j q => if j = k ∧ q = p then some (4, 2) else none
  | _ => none

/-- The packet's bytes stand at PD + SEQ × 4,096, no other byte has changed, and its SEQ is noted (R247, R265). -/
def Placed (c : CoreId) (w : PortXfer) (p : DataPkt) (s t : State) : Prop :=
  BytesOutside (w.addr + p.seq.toNat * 4096) p.payload.length s t ∧
    (∀ j, j < p.payload.length → t.byte (w.addr + p.seq.toNat * 4096 + j) = p.payload.getD j 0) ∧
    (t.core c).regs = (s.core c).regs ∧ ∃ v ∈ (t.core c).port, v.instr = w.instr ∧ v.x = w.x ∧ p.seq.toNat ∈ v.seqs ∧
      (∀ n ∈ w.seqs, n ∈ v.seqs) ∧ v.lastSeq = if p.last then some p.seq.toNat else w.lastSeq

/-- The source region that a speculative packet counts for: the one that the ADMIT entry of its reservation names (R284). -/
def sourceOf (k : Core) (p : DataPkt) : Nat × Nat × Nat :=
  match admitEntry k p with | some e => (e.peer, e.peerCore, e.region) | none => (p.src.toNat, p.score.toNat, 0xFFFF)

end Sys2Proof.Safety

/-- WRITE and SHARD (R247, R265, R282, R284): a packet for a RECV or GATHER whose inbound data moves is written at PD + SEQ × 4,096, and its SEQ
is noted; no other byte and no register of the core changes. A speculative WRITE must fall into the wings area, where its lines become
pending for its source region; outside it it is discarded as SPEC_ESCAPE. A WRITE that leaves the scratchpad stops the core. Until its
transfer takes it a packet waits in its buffer. XP (R278): the elements of an open inbound stream are added, each to the accumulator of its
place in the XRED's tile, exactly as the port reads and writes accumulators; an element beyond the stream is XP_MALFORMED and ends the
stream, and no byte changes; a stream that has ended takes nothing. NOTICE (R283, R284): a notice of this scene is recorded at the core it
names, for the source region it names, and one of another scene nowhere; registers and memory stay as they were. -/
def Obligations.PayloadsReachTheirCore : Prop :=
  (∀ (k : LinkId) (p : DataPkt) (c : CoreId) (i : Instr) (kind : Nat) (r : RxItem) (s s1 : State), Canonical s → Clean s →
    HeldHere s k (.data p) r s1 → p.vl = 3 → p.dcore.toNat = c.val → payloadRow k p i = some (kind, p.kind) →
    (takerOf (s.core c) kind p = none → exec i s = .next s1) ∧
    (∀ w, takerOf (s.core c) kind p = some w → kind ≠ 4 →
      ((kind = 2 → p.spec = false) → ownScratchKind s c (w.addr + p.seq.toNat * 4096) p.payload.length = none →
        ∃ t, exec i s = .next t ∧ BufferFreed s1 t r ∧ Placed c w p s t ∧ (∀ a, t.reg a = s.reg a) ∧ ∀ n, n ≠ c → t.core n = s.core n) ∧
      ((kind = 2 → p.spec = false) → ownScratchKind s c (w.addr + p.seq.toNat * 4096) p.payload.length ≠ none →
        ∃ t, exec i s = .next t ∧ BufferFreed s1 t r ∧ (∀ a, t.byte a = s.byte a) ∧ (t.core c).stopped = true) ∧
      (kind = 2 → p.spec = true → inWingsArea s c (w.addr + p.seq.toNat * 4096) p.payload.length = false →
        ∃ t, exec i s = .next t ∧ BufferFreed s1 t r ∧ (∀ a, t.byte a = s.byte a) ∧ t.fld Fld.SCN_SPEC_STATUS_ESCAPE = 1) ∧
      (kind = 2 → p.spec = true → inWingsArea s c (w.addr + p.seq.toNat * 4096) p.payload.length = true →
        ownScratchKind s c (w.addr + p.seq.toNat * 4096) p.payload.length = none →
        ∃ t, exec i s = .next t ∧ BufferFreed s1 t r ∧ Placed c w p s t ∧
          (∀ l ∈ linesOf (w.addr + p.seq.toNat * 4096) p.payload.length, SMap.get none (t.core c).pend l =
            some (.src (sourceOf (s.core c) p).1 (sourceOf (s.core c) p).2.1 (sourceOf (s.core c) p).2.2)) ∧
          ∃ q ∈ (t.core c).sources, (q.dev, q.core, q.region) = sourceOf (s.core c) p ∧ ∃ n, (p.res.toNat, n + 1) ∈ q.written))) ∧
  (∀ (k : LinkId) (p : DataPkt) (c : CoreId) (w : PortXfer) (e : XferEntry) (d : Desc) (n : Nat) (es : List (Option XpElem)) (r : RxItem)
    (s s1 : State), Canonical s → HeldHere s k (.data p) r s1 → p.vl = 3 → p.kind = 2 → p.dcore.toNat = c.val →
    takerOf (s.core c) 4 p = some w → (s.core c).xfer w.x = some e → w.acc = some d → readXp p.payload = (n, es) →
      (streamNext w.streams (streamKey p) = deadStream → ∃ t, exec (.xp k p) s = .next t ∧ SameStores s t ∧ BufferFreed s1 t r) ∧
      (streamNext w.streams (streamKey p) ≠ deadStream →
        ∃ t, exec (.xp k p) s = .next t ∧ BufferFreed s1 t r ∧ (t.core c).regs = (s.core c).regs ∧
          (addElems c w d e (k.val / 12) (streamKey p) n es w s1).1 ∈ (t.core c).port ∧
          (∀ a, t.byte a = (addElems c w d e (k.val / 12) (streamKey p) n es w s1).2.byte a) ∧
          ∀ v, es = [some v] → ∃ u ∈ (t.core c).port, u.x = w.x ∧
            (n < e.inCount → u.added = w.added + 1 ∧ streamNext u.streams (streamKey p) = n + 1 ∧ ∀ a, t.byte a =
              (writeAcc c d.granule false true (e.inFirst + n) ((readAcc s c d.granule false (e.inFirst + n)).combine v) s).byte a) ∧
            (e.inCount ≤ n → u.bad = true ∧ t.fld Fld.XCL_STATUS_XP_BAD = 1 ∧ ∀ a, t.byte a = s.byte a))) ∧
  (∀ (k : LinkId) (p : CtrlPkt) (c : CoreId) (i : RxItem) (s s1 : State), Canonical s → p.ckind = 3 → HeldHere s k (.ctrl p) i s1 →
    ctrlAt p 12 1 = c.val →
      (ctrlAt p 0 8 = s.fld Fld.SCN_COUNT_SCENE → ∃ t r counts, exec (.notice k p) s = .next t ∧ SameMaps s t ∧
        (∀ n, n ≠ c → t.core n = s.core n) ∧ BufferFreed s1 t i ∧ p ∈ t.fab.lane ∧
        r ∈ (t.core c).sources ∧ r.dev = p.src.toNat ∧ r.core = ctrlAt p 10 1 ∧ r.region = ctrlAt p 8 2 ∧
        r.notice = some (ctrlAt p 11 1, counts) ∧ counts.length = min 8 (ctrlAt p 13 1) ∧
        ∀ j, j < counts.length → counts[j]? = some (ctrlAt p (16 + 4 * j) 4 % 1024, ctrlAt p (16 + 4 * j) 4 / 1024)) ∧
      (ctrlAt p 0 8 ≠ s.fld Fld.SCN_COUNT_SCENE → ∃ t, exec (.notice k p) s = .next t ∧ SameMaps s t ∧ SameStores s t ∧
        BufferFreed s1 t i))

/-! ### The device's servers -/

namespace Sys2Proof.Safety

open Sys2Proof.Machine

/-- The request that a RD_REQ or WR_REQ payload names (R247): its address and length. -/
def reqAddr (p : DataPkt) : Nat := leNat (p.payload.take 6)
/-- Length of a request. -/
def reqLen (p : DataPkt) : Nat := leNat ((p.payload.drop 8).take 4)

/-- A reply to request `q` (R247): its kind, STATUS and payload, along a route that no rule states (assumption 13). Where the source test of
R253 passes that route, it has gone to its link; where it does not, ROUTE_ILLEGAL is set. -/
def Replied (s t : State) (q : DataPkt) (kind status : Nat) (payload : List Byte) : Prop :=
  ∃ hops route, 1 ≤ hops ∧ hops ≤ 24 ∧
    (∀ port, launchTest s route hops 24 none = .ok port → Launched t port (firstHop s
      (mkData s 2 kind hops route q.stype.toNat q.src.toNat 0x7F q.score.toNat 0 q.seq.toNat true false status payload))) ∧
    (∀ cause hop, launchTest s route hops 24 none = .bad cause hop → t.fld Fld.FAB_STATUS_ROUTE_ILLEGAL = 1)

end Sys2Proof.Safety

/-- RD_REQ, WR_REQ and SHARD_REQUEST (R247, R259, R282): a request is taken into its server's queue, with whether QUIESCE is 1, and its
buffer is freed; while the queue holds 64 it waits. REQUEST_SERVE (R247, R253, R259): the oldest request is answered: QUIESCED where QUIESCE
stood, a fault where its range is not allowed, the bytes read, or an acknowledgement once its bytes are written. Only a write changes
memory, and only its own range. SHARD_SERVE (R253, R282): the oldest shard request, for a VALID shard of the length it names in fitted
stacks, is answered with the shard's bytes in packets of at most 4,096 bytes, where the source test passes its route; any other is refused.
No byte and no core changes. -/
def Obligations.RequestsAreServedInOrder : Prop :=
  (∀ (k : LinkId) (p : DataPkt) (r : RxItem) (s s1 : State), Canonical s → HeldHere s k (.data p) r s1 →
    (∀ i, (i = .rdReq k p ∧ p.kind = 3 ∨ i = .wrReq k p ∧ p.kind = 4) → p.vl = 1 → p.dcore = 0x7E →
      (s.fab.reqs.length < 64 → ∃ t, exec i s = .next t ∧ SameStores s t ∧ BufferFreed s1 t r ∧
        t.fab.reqs = s.fab.reqs ++ [(⟨k.val, .data p, 0⟩, decide (s.fld Fld.FAB_CTRL_QUIESCE = 1))]) ∧
      (64 ≤ s.fab.reqs.length → exec i s = .next s1)) ∧
    (p.kind = 1 → p.vl = 3 → p.dcore = 0x7D →
      (s.fab.shards.length < 64 → ∃ t, exec (.shardRequest k p) s = .next t ∧ SameStores s t ∧ BufferFreed s1 t r ∧
        t.fab.shards = s.fab.shards ++ [p]) ∧
      (64 ≤ s.fab.shards.length → exec (.shardRequest k p) s = .next s1))) ∧
  (∀ (i : RxItem) (p : DataPkt) (quiet : Bool) (rest : List (RxItem × Bool)) (s : State), Canonical s → Clean s →
    i.p = .data p → s.fab.reqs = (i, quiet) :: rest →
      ∃ t, exec .requestServe s = .next t ∧ t.fab.reqs = rest ∧ (∀ c, t.core c = s.core c) ∧
        (quiet = true → (∀ a, t.byte a = s.byte a) ∧ Replied s t p (if p.kind = 3 then 5 else 6) 3 zero64) ∧
        (quiet = false → requestOk s p (reqAddr p) (reqLen p) = false →
          (∀ a, t.byte a = s.byte a) ∧ Replied s t p (if p.kind = 3 then 5 else 6) 1 zero64) ∧
        (quiet = false → requestOk s p (reqAddr p) (reqLen p) = true →
          (p.kind = 3 → (∀ a, t.byte a = s.byte a) ∧ Replied s t p 5 0 (s.bytes (reqAddr p) (reqLen p))) ∧
          (p.kind ≠ 3 → BytesOutside (reqAddr p) (reqLen p) s t ∧ t.bytes (reqAddr p) (reqLen p) = p.payload.drop 64 ∧
            Replied s t p 6 0 zero64))) ∧
  (∀ (q : DataPkt) (rest : List DataPkt) (ix base n hops : Nat) (route : BitVec 144) (s : State), Canonical s → Clean s →
    s.fab.shards = q :: rest → ix = leNat (q.payload.take 2) % 1024 → base = s.fld (Fld.XCL_SHARD_BASE_BASE ix) →
    n = leNat ((q.payload.drop 8).take 4) → hops = leNat ((q.payload.drop 4).take 1) →
    route = BitVec.ofNat 144 (leNat ((q.payload.drop 12).take 18)) →
      ∃ t, exec .shardServe s = .next t ∧ SameStores s t ∧ t.fab.shards = rest ∧
        (s.fld (Fld.XCL_SHARD_BASE_VALID ix) = 1 → n = s.fld (Fld.XCL_SHARD_LEN_BYTES ix) → s.inStacks base n = true →
          (∀ port, launchTest s route hops 24 none = .ok port → ∀ z ∈ payloads (s.bytes base n), Launched t port (firstHop s
            (mkData s 3 1 hops route q.stype.toNat q.src.toNat 0x7F (leNat ((q.payload.drop 5).take 1))
              (leNat ((q.payload.drop 2).take 2)) z.1 z.2.1 false 0 z.2.2))) ∧
          (∀ cause hop, launchTest s route hops 24 none = .bad cause hop → t.fld Fld.FAB_STATUS_ROUTE_ILLEGAL = 1)) ∧
        ((s.fld (Fld.XCL_SHARD_BASE_VALID ix) ≠ 1 ∨ n ≠ s.fld (Fld.XCL_SHARD_LEN_BYTES ix) ∨ s.inStacks base n = false) →
          t.fld Fld.XCL_STATUS_SHARD_REFUSED = 1 ∧
            ∀ l p, OutItem.packet l p ∈ t.out → OutItem.packet l p ∈ s.out))

/-- XP_ABSORB and REDUCER_EMIT (R273, R275, R276): the elements of a packet for an open context are combined, each into its slot; one out of
order, or beyond the context's inputs or elements, and one of a reservation without a context is XP_MALFORMED and stops the context. An
element with all its arrivals is emitted 40 ns later, unless its residue differs, which stops the context; the last element of the
context takes the packet that it fills with it. -/
def Obligations.ReducersCombineAndEmit : Prop :=
  (∀ (k : LinkId) (p : DataPkt) (i e : Nat) (es : List (Option XpElem)) (r : RxItem) (s s1 : State), Canonical s →
    HeldHere s k (.data p) r s1 → p.kind = 2 → p.vl = 3 →
    p.dcore = 0x7F → i = 64 * (k.val / 12) + s.fld (Fld.XCL_RMAP_CTX p.res.toNat) → readXp p.payload = (e, es) →
      ∃ t, exec (.xpAbsorb k p) s = .next t ∧ SameStores s t ∧ BufferFreed s1 t r ∧
        (s.fld (Fld.XCL_RMAP_VALID p.res.toNat) = 0 → t.fld Fld.XCL_STATUS_XP_BAD = 1 ∧ (t.redCtx i).stopped = true) ∧
        (s.fld (Fld.XCL_RMAP_VALID p.res.toNat) = 1 → (s.redCtx i).stopped = true → t.red = s.red) ∧
        (s.fld (Fld.XCL_RMAP_VALID p.res.toNat) = 1 → (s.redCtx i).stopped = false → t.red = (absorbXp i (streamKey p) e es s1).red ∧
          ∀ v, es = [some v] →
            ((e ≤ s.fld (Fld.XCL_RCTX_CFG_ELEMS i) ∧ streamNext (s.redCtx i).streams (streamKey p) ≤ e ∧
                (SMap.get ({} : RedSlot) (s.redCtx i).slots e).count < s.fld (Fld.XCL_RCTX_CFG_NIN i)) →
              SMap.get ({} : RedSlot) (t.redCtx i).slots e = (SMap.get ({} : RedSlot) (s.redCtx i).slots e).combine v s.tim.now ∧
              streamNext (t.redCtx i).streams (streamKey p) = e + 1) ∧
            (¬(e ≤ s.fld (Fld.XCL_RCTX_CFG_ELEMS i) ∧ streamNext (s.redCtx i).streams (streamKey p) ≤ e ∧
                (SMap.get ({} : RedSlot) (s.redCtx i).slots e).count < s.fld (Fld.XCL_RCTX_CFG_NIN i)) →
              t.fld Fld.XCL_STATUS_XP_BAD = 1 ∧ (t.redCtx i).stopped = true))) ∧
  (∀ (d : BitVec 2) (x : BitVec 6) (i : Nat) (s : State), Canonical s → i = 64 * d.toNat + x.toNat →
    (redReady s i = false → exec (.reducerEmit d x) s = .next s) ∧
    (∀ r k bs, redReady s i = true → s.inj = [] → k = s.redCtx i → r = SMap.get ({} : RedSlot) k.slots k.emitted → bs = r.toXp.encode →
      ∃ t, exec (.reducerEmit d x) s = .next t ∧ SameStores s t ∧ t.tim.now = max s.tim.now (max r.at_ k.at_ + 40 * unitNs) ∧
        (r.residue % 8191 = accFold false r.a → (t.redCtx i).emitted = k.emitted + 1 ∧
          t.fld (Fld.XCL_RCTX_STATE_EMITTED i) = (k.emitted + 1) % 2 ^ (Fld.XCL_RCTX_STATE_EMITTED i).w ∧
          (k.fillN = 0 ∨ k.fill.length + bs.length ≤ 4088 →
            (k.emitted ≠ s.fld (Fld.XCL_RCTX_CFG_ELEMS i) → (t.redCtx i).fill = k.fill ++ bs) ∧
            (k.emitted = s.fld (Fld.XCL_RCTX_CFG_ELEMS i) → ∀ port,
              launchTest s (redRoute s i) (s.fld (Fld.XCL_RCTX_OUT_HOPS i)) 24 none = .ok port → Launched t port (firstHop s
                (mkData s 3 2 (s.fld (Fld.XCL_RCTX_OUT_HOPS i)) (redRoute s i) (s.fld (Fld.XCL_RCTX_OUT_DTYPE i))
                  (s.fld (Fld.XCL_RCTX_OUT_DEST i)) 0x7F (s.fld (Fld.XCL_RCTX_OUT_DCORE i)) (s.fld (Fld.XCL_RCTX_OUT_RES i)) k.seq true
                  false 0 (xpPayload k.fillFirst (k.fillN + 1) (k.fill ++ bs))))))) ∧
        (r.residue % 8191 ≠ accFold false r.a → (t.redCtx i).stopped = true ∧ t.fld Fld.XCL_STATUS_RED_FAIL = 1 ∧
          ∀ l q, OutItem.packet l q ∈ t.out → OutItem.packet l q ∈ s.out)))

/-- WITNESS_RUN_START and WITNESS_RUN_DONE (R285 to R288, R312): a VALID entry of the position runs once in a scene, latching the step; one
that R288 and R291 do not allow is INCOMPLETE. A run over a range that has not changed gives its digest, and DONE, and the scene; it waits
while an entry of a lower number runs. Memory and cores stay as they were. -/
def Obligations.WitnessEntriesRunAndDigest : Prop :=
  ∀ (w : BitVec 5) (s : State), Canonical s → Clean s → s.healthHalted = false →
    (s.tim.sceneOn = true → s.fld (Fld.XCL_WIT_CTRL_VALID w.toNat) = 1 → s.fld (Fld.XCL_WIT_CTRL_TRIG w.toNat) = s.fld Fld.SCN_SEQ_POS →
      (s.witRun w.toNat).scene ≠ some (s.fld Fld.SCN_COUNT_SCENE) →
      ∃ t, exec (.witnessRunStart w) s = .next t ∧ SameStores s t ∧ (t.witRun w.toNat).scene = some (s.fld Fld.SCN_COUNT_SCENE) ∧
        (witLegal s w.toNat = true → t.fld (Fld.XCL_WIT_STATE_RUNNING w.toNat) = 1 ∧ t.fld (Fld.XCL_WIT_STATE_DONE w.toNat) = 0 ∧
          t.fld (Fld.XCL_WIT_STATE_UNCORR w.toNat) = 0 ∧ t.fld (Fld.XCL_WIT_STEP_STEP w.toNat) = s.fld Fld.SCN_STEP_STEP) ∧
        (witLegal s w.toNat = false → t.fld (Fld.XCL_WIT_STATE_INCOMPLETE w.toNat) = 1)) ∧
    (s.fld (Fld.XCL_WIT_STATE_RUNNING w.toNat) = 1 →
      ((∃ v, v < w.toNat ∧ s.fld (Fld.XCL_WIT_STATE_RUNNING v) = 1) → exec (.witnessRunDone w) s = .next s) ∧
      ((∀ v, v < w.toNat → s.fld (Fld.XCL_WIT_STATE_RUNNING v) ≠ 1) →
        ∃ t, exec (.witnessRunDone w) s = .next t ∧ SameStores s t ∧ t.fld (Fld.XCL_WIT_STATE_RUNNING w.toNat) = 0 ∧
          t.fld (Fld.XCL_WIT_STATE_DONE w.toNat) = 1 ∧ t.fld (Fld.XCL_WIT_STATE_INCOMPLETE w.toNat) = 0 ∧
          t.fld (Fld.XCL_WIT_STATE_SCENE w.toNat) = s.fld Fld.SCN_COUNT_SCENE % 2 ^ (Fld.XCL_WIT_STATE_SCENE w.toNat).w ∧
          (witDigest s w.toNat = (s.witRun w.toNat).digest0 → t.reg (Reg.XCL_WIT_DIGEST w.toNat) = witDigest s w.toNat)))

/-! ### The request engine -/

namespace Sys2Proof.Safety

open Sys2Proof.Machine

/-- The engine launches nothing now: QUIESCE is 1, or no checkpoint and no restore runs and no request waits. -/
def EngineIdle (s : State) : Prop := s.fld Fld.FAB_CTRL_QUIESCE = 1 ∨ (s.eng.ckp = none ∧ s.eng.rst = none ∧ s.eng.wait = [])

/-- The request outstanding that a reply or a timeout concerns. -/
def Outstanding (s : State) (tag : Nat) (write : Bool) (r : EngReq) : Prop :=
  (s.eng.reqs.find? fun r => decide (r.tag = tag ∧ r.write = write)) = some r

/-- The packet that launches request `r` under tag `n` (R247, R356). -/
def requestPkt (s : State) (r : EngReq) (n : Nat) : Pkt :=
  mkData s 1 (if r.write then 4 else 3) r.route.hops r.route.route r.route.dtype r.route.dest 0x7F 0x7E 0 n true false 0 r.payload

/-- An entry has been written to the completion ring at TAIL, in the 32 bytes of R304 (R302, R304). -/
def Posted (s t : State) (seq op status : Nat) (notice : Bool) (taken applied detail : Nat) : Prop :=
  OutItem.hostWrite (s.fld Fld.HST_CPL_BASE_BASE * 4096 + 32 * s.fld Fld.HST_CPL_TAIL_TAIL)
    (leBytes 4 seq ++ leBytes 1 op ++ leBytes 1 status ++ leBytes 1 (s.fld Fld.HST_CPL_TAIL_PHASE + 2 * b2n notice) ++ leBytes 1 0 ++
      leBytes 8 taken ++ leBytes 8 applied ++ leBytes 8 detail) ∈ t.out

/-- The long command has completed with a status, unless an FLR discards its completion (R294, R299). -/
def LongEnded (s t : State) (l : LongCmd) (status detail : Nat) : Prop :=
  t.host.long = none ∧ (l.seq ≠ 0 → Posted s t l.seq l.op status false l.taken (s.fld Fld.SCN_COUNT_SCENE) detail)

/-- The checkpoint or restore has failed (R357): the command completes with FAILED and a DETAIL of cause, section and remote STATUS, its requests
are discarded, and a restore reads FAILED with the same three. -/
def JobFailed (s t : State) (l : LongCmd) (cause sect status : Nat) : Prop :=
  LongEnded s t l 10 (cause + 16 * sect + 65536 * status) ∧ t.eng.ckp = none ∧ t.eng.rst = none ∧
    t.eng.reqs = (s.eng.reqs.filter fun r => decide (r.sect = 0x1000)) ∧
    (s.eng.ckp = none → t.fld Fld.SCN_RESTORE_STATE = 2 ∧ t.fld Fld.SCN_RESTORE_INFO_CAUSE = cause % 2 ^ Fld.SCN_RESTORE_INFO_CAUSE.w ∧
      t.fld Fld.SCN_RESTORE_INFO_SECTION = sect % 2 ^ Fld.SCN_RESTORE_INFO_SECTION.w ∧
      t.fld Fld.SCN_RESTORE_INFO_STATUS = status % 2 ^ Fld.SCN_RESTORE_INFO_STATUS.w)

/-- One checkpoint or one restore runs, as the long command `l`, and no other request waits. -/
def JobRuns (s : State) (l : LongCmd) : Prop :=
  s.host.long = some l ∧ s.eng.wait = [] ∧ (s.eng.ckp = none ∧ s.eng.rst ≠ none ∨ s.eng.ckp ≠ none ∧ s.eng.rst = none)

/-- Stack address of packed byte `m` of a section (R360). -/
def sectAddr (d : Sect) (m : Nat) : Nat := d.addr + m / d.rowBytes * d.stride + m % d.rowBytes

end Sys2Proof.Safety

/-- RD_RSP and WR_ACK (R356, R357, R365, R372): a good reply ends its request, the data of a restored section being written to the section's
rows, and no other byte and no core changes; a reply with a STATUS loses twin records with SEND_FAIL and fails a checkpoint or restore with
REMOTE; one to no outstanding tag is discarded. REQUEST_TIMEOUT (R356, R357): 10 ms after its launch a request without a reply is launched
once more under another tag, or fails where its route does; the second time twin records are lost with SEND_FAIL, and a checkpoint or
restore fails with TIMEOUT. While QUIESCE is 1, and for a tag that is not outstanding, nothing happens. -/
def Obligations.RequestsEnd : Prop :=
  (∀ (k : LinkId) (p : DataPkt) (b : RxItem) (i : Instr) (write : Bool) (s s1 : State), Canonical s → HeldHere s k (.data p) b s1 → p.vl = 2 →
    p.dcore = 0x7F → (i = .rdRsp k p ∧ p.kind = 5 ∧ write = false ∨ i = .wrAck k p ∧ p.kind = 6 ∧ write = true) →
    ((s.eng.reqs.find? fun r => decide (r.tag = p.seq.toNat ∧ r.write = write)) = none →
      ∃ t, exec i s = .next t ∧ SameMaps s t ∧ SameStores s t ∧ BufferFreed s1 t b ∧ t.eng = s.eng) ∧
    (∀ r, Outstanding s p.seq.toNat write r →
      (p.status = 0 → EngineIdle s → (write = true ∨ s.eng.rst = none) → ∃ t, exec i s = .next t ∧ SameMaps s t ∧ SameStores s t ∧
        BufferFreed s1 t b ∧ t.eng = { s.eng with reqs := s.eng.reqs.erase r }) ∧
      (p.status ≠ 0 → r.sect = 0x1000 → EngineIdle s → ∃ t, exec i s = .next t ∧ SameStores s t ∧ BufferFreed s1 t b ∧
        t.fld Fld.XCL_TWIN_STATUS_SEND_FAIL = 1 ∧ t.eng = { s.eng with reqs := s.eng.reqs.erase r }) ∧
      (∀ l, p.status ≠ 0 → r.sect ≠ 0x1000 → JobRuns s l → ∃ t, exec i s = .next t ∧ SameStores s t ∧ BufferFreed s1 t b ∧
        JobFailed s t l 5 r.sect p.status.toNat)) ∧
    (∀ r j d n, write = false → p.status = 0 → Outstanding s p.seq.toNat false r → s.eng.rst = some j → r.sect ≠ 0xFFF →
      j.sects[r.sect]? = some d → r.len ≤ p.payload.length → n = min r.len (d.bytes - r.off) → d.rowBytes ≤ d.stride →
      ∃ t, exec i s = .next t ∧ (∀ m, m < n → t.byte (sectAddr d (r.off + m)) = p.payload.getD m 0) ∧
        (∀ a, (∀ m, m < n → sectAddr d (r.off + m) ≠ a) → t.byte a = s.byte a) ∧ ∀ c, t.core c = s.core c)) ∧
  (∀ (tag : BitVec 14) (s : State), Canonical s →
    ((s.eng.reqs.find? fun r => decide (r.tag = tag.toNat)) = none → exec (.requestTimeout tag) s = .next s) ∧
    (s.fld Fld.FAB_CTRL_QUIESCE = 1 → exec (.requestTimeout tag) s = .next s) ∧
    (∀ r, (s.eng.reqs.find? fun r => decide (r.tag = tag.toNat)) = some r → s.fld Fld.FAB_CTRL_QUIESCE = 0 →
      (r.again = true → r.sect = 0x1000 → EngineIdle s → ∃ t, exec (.requestTimeout tag) s = .next t ∧ SameStores s t ∧
        t.tim.now = max s.tim.now (r.at_ + tenMs) ∧ t.eng = { s.eng with reqs := s.eng.reqs.erase r } ∧
        t.fld Fld.XCL_TWIN_STATUS_SEND_FAIL = 1) ∧
      (∀ l, r.again = true → r.sect ≠ 0x1000 → JobRuns s l → ∃ t, exec (.requestTimeout tag) s = .next t ∧ SameStores s t ∧
        t.tim.now = max s.tim.now (r.at_ + tenMs) ∧ JobFailed s t l 4 r.sect 0) ∧
      (∀ port, r.again = false → EngineIdle s → launchTest s r.route.route r.route.hops 24 none = .ok port →
        ∃ t n, exec (.requestTimeout tag) s = .next t ∧ SameStores s t ∧ t.tim.now = max s.tim.now (r.at_ + tenMs) ∧
          (r.tag < 63 → n = r.tag + 1 ∨ ∃ q ∈ s.eng.reqs, q.tag = r.tag + 1) ∧
          t.eng.reqs = s.eng.reqs.erase r ++ [{ r with again := true, tag := n, at_ := t.tim.now }] ∧
          Launched t port (firstHop s (requestPkt s r n))) ∧
      (∀ cause hop, r.again = false → launchTest s r.route.route r.route.hops 24 none = .bad cause hop →
        (r.sect = 0x1000 → EngineIdle s → ∃ t, exec (.requestTimeout tag) s = .next t ∧ SameStores s t ∧
          t.fld Fld.FAB_STATUS_ROUTE_ILLEGAL = 1 ∧ t.fld Fld.XCL_TWIN_STATUS_SEND_FAIL = 1 ∧ t.eng.reqs = s.eng.reqs.erase r) ∧
        (∀ l, r.sect ≠ 0x1000 → JobRuns s l → ∃ t, exec (.requestTimeout tag) s = .next t ∧ SameStores s t ∧
          t.fld Fld.FAB_STATUS_ROUTE_ILLEGAL = 1 ∧ t.host.long = none ∧ t.eng.ckp = none ∧ t.eng.rst = none))))

/-! ### Host commands -/

namespace Sys2Proof.Safety

open Sys2Proof.Machine

/-- The taken record has completed with a status (R304, R305). -/
def Completed (s t : State) (k : Taken) (status applied detail : Nat) : Prop :=
  Posted s t k.seq k.op status false k.scene applied detail ∧ t.host.prev = some (k.seq, some status)

/-- The rule of R300 for each row of a command record. -/
def hostRow : Instr → Option CmdRule
  | .nop => some nopRule
  | .loadBooks => some loadRule
  | .startRun => some startRule
  | .setPower => some setPowerRule
  | .bindSlot => some bindRule
  | .unbindSlot => some unbindRule
  | .datapos => some dataposRule
  | .checkpoint => some ckpRule
  | .restore => some restoreRule
  | .restoreAlign => some alignRule
  | .debugUnlock => some unlockRule
  | .abort => some abortRule
  | _ => none

/-- The record that a scan has taken carries this row's command and passes every test of R305; no JTAG halt stops the control pair (R312). -/
def Runs (s : State) (k : Taken) (r : CmdRule) : Prop :=
  s.host.taken = some k ∧ k.op = r.op ∧ judge s k r = none ∧ s.controlHalted = false

/-- Every register but those of the rings is as it was: the status and interrupt registers of the host interface, the next command and the
tail of the completion ring. -/
def RingRegsOnly (s t : State) : Prop :=
  ∀ a, a ≠ Reg.HST_STATUS → a ≠ Reg.HST_INT → a ≠ Reg.HST_CMD → a ≠ Reg.HST_CPL_TAIL → t.reg a = s.reg a

/-- A restore stands READY with this step, position and seed (R364, R367). -/
def RestoredAs (s : State) (step pos : Nat) (seed : Word) : Prop :=
  s.fld Fld.SCN_RESTORE_STATE = 4 ∧ s.eng.restored = some (step, pos, seed)

end Sys2Proof.Safety

/-- A row of a command acts only on a taken record of its opcode, while no JTAG halt stops the control pair, and one that R305 turns away
completes with its status and no effect but the rings' (R299, R300, R305, R312); a reserved opcode completes with BAD_OPCODE. NOP,
BIND_SLOT, UNBIND_SLOT and DATAPOS (R300, R301, R362) complete at once: NOP returns SCN_COUNT, a binding waits for the next cue or idle
tick, and a data-position record stands with its step at once; no other register changes. -/
def Obligations.CommandRecordsAreJudged : Prop :=
  (∀ (i : Instr) (r : CmdRule) (s : State), Canonical s → hostRow i = some r →
    (((∀ k, s.host.taken = some k → k.op ≠ r.op) ∨ s.controlHalted = true) → exec i s = .next s) ∧
    (∀ k st, s.host.taken = some k → k.op = r.op → s.controlHalted = false → judge s k r = some st →
      ∃ t, exec i s = .next t ∧ SameStores s t ∧ RingRegsOnly s t ∧ Completed s t k st 0 0 ∧ t.cmdEff = s.cmdEff ∧
        t.host.long = s.host.long ∧ t.eng = s.eng ∧ t.tim = s.tim)) ∧
  (∀ (k : Taken) (s : State), Canonical s → s.host.taken = some k →
    ((k.op = 0 ∨ 13 ≤ k.op) → s.controlHalted = false →
      ∃ t, exec .reservedCommand s = .next t ∧ SameStores s t ∧ RingRegsOnly s t ∧ Completed s t k (if skipped s k then 7 else 1) 0 0) ∧
    ((0 < k.op ∧ k.op < 13 ∨ s.controlHalted = true) → exec .reservedCommand s = .next s)) ∧
  (∀ (k : Taken) (s : State), Canonical s →
    (Runs s k nopRule → ∃ t, exec .nop s = .next t ∧ SameStores s t ∧ RingRegsOnly s t ∧ Completed s t k 0 0 (s.fld Fld.SCN_COUNT_SCENE) ∧
      t.cmdEff = s.cmdEff) ∧
    (Runs s k bindRule → ∃ t, exec .bindSlot s = .next t ∧ SameStores s t ∧ RingRegsOnly s t ∧ Completed s t k 0 (appliedScene s) 0 ∧
      t.cmdEff = s.cmdEff ++ [.bind (BitVec.ofNat 6 (k.at 16 1)) (k.at 24 6) (k.at 32 4)]) ∧
    (Runs s k unbindRule → ∃ t, exec .unbindSlot s = .next t ∧ SameStores s t ∧ RingRegsOnly s t ∧ Completed s t k 0 (appliedScene s) 0 ∧
      t.cmdEff = s.cmdEff ++ [.unbind (BitVec.ofNat 6 (k.at 16 1))]) ∧
    (Runs s k dataposRule → ∃ t, exec .datapos s = .next t ∧ SameStores s t ∧ Completed s t k 0 k.scene 0 ∧ t.cmdEff = s.cmdEff ∧
      t.dp = k.payload ∧ t.fld Fld.SCN_RESTORE_DATAPOS_VALID = 1 ∧ t.fld Fld.SCN_DATAPOS_STEP = k.at 16 8 % 2 ^ 64 ∧
      RingRegsOnly ((s.setFld Fld.SCN_RESTORE_DATAPOS_VALID 1).setFld Fld.SCN_DATAPOS_STEP (k.at 16 8)) t))

/-- R367: in READY, a START_RUN that differs from the restored step, position or seed completes with BAD_OPERAND and DETAIL 1, 2 or 3; one
that agrees returns STATE to IDLE, with the other fields it writes, at the next cue or idle tick (R299). Any START_RUN of a position of the
sequence that does not differ runs; it makes every core fresh and sets the seed, and STEP and POS wait for the next cue or idle tick (R112, R144); of any other
position it completes with BAD_OPERAND. -/
def Obligations.StartRunNamesTheRestoredState : Prop :=
  (∀ (k : Taken) (s : State), Canonical s → Runs s k startRule →
    (∀ step pos seed, RestoredAs s step pos seed →
      (k.at 24 8 ≠ step → ∃ t, exec .startRun s = .next t ∧ SameStores s t ∧ RingRegsOnly s t ∧ Completed s t k 2 0 1) ∧
      (k.at 24 8 = step → k.at 32 2 ≠ pos → ∃ t, exec .startRun s = .next t ∧ SameStores s t ∧ RingRegsOnly s t ∧ Completed s t k 2 0 2) ∧
      (k.at 24 8 = step → k.at 32 2 = pos → BitVec.ofNat 64 (k.at 16 8) ≠ seed →
        ∃ t, exec .startRun s = .next t ∧ SameStores s t ∧ RingRegsOnly s t ∧ Completed s t k 2 0 3)) ∧
    ((∀ step pos seed, RestoredAs s step pos seed → k.at 24 8 = step ∧ k.at 32 2 = pos ∧ BitVec.ofNat 64 (k.at 16 8) = seed) →
      (k.at 32 2 < seqLen s → ∃ t, exec .startRun s = .next t ∧ (∀ a, t.byte a = s.byte a) ∧ RingRegsOnly s t ∧
        Completed s t k 0 (appliedScene s) 0 ∧ t.seed = BitVec.ofNat 64 (k.at 16 8) ∧ t.seedSet = true ∧
        t.cmdEff = s.cmdEff ++ [.run (k.at 24 8) (k.at 32 2)] ∧ ∀ c, t.core c = (s.core c).fresh) ∧
      (seqLen s ≤ k.at 32 2 → ∃ t, exec .startRun s = .next t ∧ SameStores s t ∧ RingRegsOnly s t ∧ Completed s t k 2 0 0))) ∧
  (∀ (s : State) (step pos : Nat), Canonical s → s.cmdEff = [.run step pos] → s.controlHalted = false → s.fld Fld.SCN_RESTORE_STATE = 4 →
    (s.ready = true → s.tim.cuesRun = false → NothingHeld s →
      ∃ t, exec .idleTick s = .next t ∧ t.fld Fld.SCN_RESTORE_STATE = 0 ∧ t.fld Fld.SCN_STEP_STEP = step % 2 ^ 64 ∧
        t.fld Fld.SCN_SEQ_POS = pos % 2 ^ Fld.SCN_SEQ_POS.w) ∧
    (∀ a n, CueDue s a n → outOfSeq s a.scene = false →
      ∃ t, exec .cue s = .next t ∧ t.fld Fld.SCN_RESTORE_STATE = 0 ∧ t.fld Fld.SCN_STEP_STEP = step % 2 ^ 64 ∧
        t.fld Fld.SCN_SEQ_POS = pos % 2 ^ Fld.SCN_SEQ_POS.w))

/-- RESTORE_ALIGN (R299, R300, R366): it completes at once, and at the next cue or idle tick the restore is READY, the step kept and the
data-position record tagged with it, or the data position's step taken. ABORT (R300, R361, R364): the command it names completes with
ABORTED, its checkpoint or restore ends with its requests, a restore as FAILED, and ABORT completes. LOAD_BOOKS, DEBUG_UNLOCK, CHECKPOINT
and RESTORE (R125, R299, R358, R359, R363, R365, R388) begin as the long command: the loader has its 96 addresses, the Stage Door its token,
a checkpoint waits for its snapshot point or has it with NOW, and a restore is LOADING and asks for its manifest's first 1,536 bytes once
QUIESCE is 0 and fewer than 64 requests are outstanding; where its route does not pass, it has failed. -/
def Obligations.LongCommandsBeginAndAbort : Prop :=
  (∀ (k : Taken) (s : State), Canonical s →
    (Runs s k alignRule → ∃ t, exec .restoreAlign s = .next t ∧ SameStores s t ∧ RingRegsOnly s t ∧ Completed s t k 0 (appliedScene s) 0 ∧
      t.cmdEff = s.cmdEff ++ [.align (k.at 16 1) (s.fld Fld.SCN_DATAPOS_STEP)]) ∧
    (∀ l, Runs s k abortRule → s.host.long = some l → ∃ t, exec .abort s = .next t ∧ SameStores s t ∧ LongEnded s t l 8 0 ∧
      t.host.prev = some (k.seq, some 0) ∧ t.eng.ckp = none ∧
      ((s.eng.ckp ≠ none ∨ s.eng.rst ≠ none) →
        t.eng.reqs = (s.eng.reqs.filter fun r => decide (r.sect = 0x1000)) ∧
        t.eng.wait = (s.eng.wait.filter fun r => decide (r.sect = 0x1000))) ∧
      (s.eng.ckp = none → t.eng.rst = none ∧ (s.eng.rst ≠ none → t.fld Fld.SCN_RESTORE_STATE = 2) ∧
        (s.eng.rst = none → t.eng = s.eng)))) ∧
  (∀ (s : State) (winner dp : Nat), Canonical s → s.cmdEff = [.align winner dp] → s.fld Fld.SCN_RESTORE_STATE = 3 → s.ready = true →
    s.tim.cuesRun = false → s.controlHalted = false → NothingHeld s →
      ∃ t, exec .idleTick s = .next t ∧ SameStores s t ∧ t.fld Fld.SCN_RESTORE_STATE = 4 ∧ t.seedSet = true ∧
        (winner = 0 → t.fld Fld.SCN_STEP_STEP = s.fld Fld.SCN_STEP_STEP ∧
          (s.fld Fld.SCN_DATAPOS_STEP = dp → t.fld Fld.SCN_DATAPOS_STEP = s.fld Fld.SCN_STEP_STEP)) ∧
        (winner ≠ 0 → t.fld Fld.SCN_STEP_STEP = dp % 2 ^ 64 ∧ t.fld Fld.SCN_DATAPOS_STEP = s.fld Fld.SCN_DATAPOS_STEP)) ∧
  (∀ (k : Taken) (s : State), Canonical s →
    (Runs s k loadRule → ∃ t, exec .loadBooks s = .next t ∧ SameStores s t ∧ RingRegsOnly s t ∧
      t.host.long = some ⟨2, k.seq, k.notify, k.scene, bookAddrs k⟩) ∧
    (Runs s k unlockRule → ∃ t, exec .debugUnlock s = .next t ∧ SameStores s t ∧ RingRegsOnly s t ∧ t.door.token = some k.payload ∧
      t.host.long = some ⟨11, k.seq, k.notify, k.scene, []⟩) ∧
    (Runs s k ckpRule → ∃ t j, exec .checkpoint s = .next t ∧ SameStores s t ∧ RingRegsOnly s t ∧
      t.host.long = some ⟨8, k.seq, k.notify, k.scene, []⟩ ∧
      t.eng.ckp = some j ∧ j.id = k.at 16 8 ∧ j.maddr = k.at 56 6 ∧ j.route = ckpRoute k ∧ j.snap = none ∧ j.now = decide (k.at 28 1 = 1) ∧
      j.given = ((ckpSects k).map fun d => { d with bytes := d.size }) ∧
      t.eng.latch = if k.at 28 1 = 1 then some (snapAt s j) else none) ∧
    (Runs s k restoreRule → s.eng.ckp = none → s.eng.wait = [] →
      ((s.fld Fld.FAB_CTRL_QUIESCE = 1 ∨ 64 ≤ s.eng.reqs.length) →
        ∃ t, exec .restore s = .next t ∧ SameStores s t ∧ t.host.long = some ⟨9, k.seq, k.notify, k.scene, []⟩ ∧
          t.fld Fld.SCN_RESTORE_STATE = 1 ∧ t.fld Fld.SCN_RESTORE_GEN = k.at 24 4 % 2 ^ 32 ∧ t.eng.reqs = s.eng.reqs) ∧
      (∀ r, (routesOf k)[leAt k.payload 5 1]? = some r → s.fld Fld.FAB_CTRL_QUIESCE = 0 → s.eng.reqs.length < 64 →
        (∀ port, launchTest s r.route r.hops 24 none = .ok port →
          ∃ t j n, exec .restore s = .next t ∧ SameStores s t ∧ t.host.long = some ⟨9, k.seq, k.notify, k.scene, []⟩ ∧
            t.fld Fld.SCN_RESTORE_STATE = 1 ∧ t.fld Fld.SCN_RESTORE_GEN = k.at 24 4 % 2 ^ 32 ∧ t.eng.rst = some j ∧
            j.seed = BitVec.ofNat 64 (k.at 16 8) ∧ j.sects = (planBytes k).map Sect.decode ∧ j.passed = [] ∧ j.off = 1536 ∧
            t.eng.reqs = s.eng.reqs ++ [{ rstRead 0xFFF 0 1536 (leAt k.payload 8 6) r with tag := n, at_ := s.tim.now }] ∧
            Launched t port (firstHop s (requestPkt s (rstRead 0xFFF 0 1536 (leAt k.payload 8 6) r) n))) ∧
        (∀ cause hop, launchTest s r.route r.hops 24 none = .bad cause hop →
          ∃ t, exec .restore s = .next t ∧ SameStores s t ∧ t.host.long = none ∧ t.eng.rst = none ∧ t.eng.reqs = s.eng.reqs.filter
            (fun r => decide (r.sect = 0x1000)) ∧ t.fld Fld.SCN_RESTORE_STATE = 2 ∧ t.fld Fld.SCN_RESTORE_INFO_CAUSE = 3 ∧
            t.fld Fld.FAB_STATUS_ROUTE_ILLEGAL = 1))))

namespace Sys2Proof.Safety

open Sys2Proof.Machine

/-- A SET_POWER runs as the long command and shows its target; memory and the cores are as they were (R314, R316). -/
def PowerRuns (s t : State) (k : Taken) : Prop :=
  SameStores s t ∧ t.fld Fld.PWR_STATE_TARGET = k.at 16 1 ∧ t.fld Fld.PWR_STATE_PS = s.fld Fld.PWR_STATE_PS ∧
    t.host.long = some ⟨4, k.seq, k.notify, k.scene, [k.at 16 1, k.at 17 1]⟩

/-- A SET_POWER has completed at once with a status and DETAIL, in the state it was taken in; one that is refused had no effect (R304, R316). -/
def PowerEnded (s t : State) (k : Taken) (status detail : Nat) : Prop :=
  SameStores s t ∧ t.fld Fld.PWR_STATE_TARGET = k.at 16 1 ∧ t.fld Fld.PWR_STATE_PS = s.fld Fld.PWR_STATE_PS ∧ t.host.long = none ∧
    t.pwr.step = none ∧
    (k.seq ≠ 0 → Posted s t k.seq k.op status false k.scene (if status = 0 then s.fld Fld.SCN_COUNT_SCENE else 0) detail)

/-- The divider of the state that a SET_POWER asks for: its own in PS1 (R316). -/
def divOf (k : Taken) : Nat := if k.at 16 1 = 1 then k.at 17 1 else 1

/-- SET_POWER (R28, R314, R316, R321, R348, R402): into the state it is in, it completes at once. Out of PS0 or PS1 a step to PS2 waits for the next
cue, as does one between PS0 and PS1 unless a loaded program would not fit the slower clock. From PS2 into PS3 or PS4 it takes 3 or 5 ms;
into PS0 or PS1 it waits until admission is decided for every core, is rejected where the loaded set no longer passes its checks, and
otherwise takes effect at the next cue. From PS3 it takes 2 ms into PS2, or 5 ms into PS4, and in FAULT_STOP 5 ms into PS4. -/
def SetPowerRow : Prop :=
  (∀ (k : Taken) (s : State), Canonical s → Runs s k setPowerRule →
    (s.fld Fld.PWR_STATE_FAULT_STOP = 1 → ∃ t, exec .setPower s = .next t ∧ PowerRuns s t k ∧
      t.pwr.step = some ⟨4, 1, some (s.tim.now + 5 * 1000000 * unitNs)⟩) ∧
    (s.fld Fld.PWR_STATE_FAULT_STOP = 0 →
      (s.fld Fld.PWR_STATE_PS = k.at 16 1 → (k.at 16 1 = 1 → s.fld Fld.PWR_STATE_DIVIDER = k.at 17 1) →
        ∃ t, exec .setPower s = .next t ∧ PowerEnded s t k 0 0) ∧
      (s.fld Fld.PWR_STATE_PS ≤ 1 → 2 ≤ k.at 16 1 → ∃ t, exec .setPower s = .next t ∧ PowerRuns s t k ∧ t.pwr.step = some ⟨2, 1, none⟩) ∧
      (s.fld Fld.PWR_STATE_PS ≤ 1 → k.at 16 1 ≤ 1 → (s.fld Fld.PWR_STATE_PS ≠ k.at 16 1 ∨ s.fld Fld.PWR_STATE_DIVIDER ≠ k.at 17 1 ∧ k.at 16 1 = 1) →
        (s.div < divOf k ∧ budgetOk s (s.fld Fld.SCN_LEN_LEN) (divOf k) = false → ∃ t, exec .setPower s = .next t ∧ PowerEnded s t k 6 0) ∧
        (¬(s.div < divOf k ∧ budgetOk s (s.fld Fld.SCN_LEN_LEN) (divOf k) = false) →
          ∃ t, exec .setPower s = .next t ∧ PowerRuns s t k ∧ t.pwr.step = some ⟨k.at 16 1, divOf k, none⟩)) ∧
      (s.fld Fld.PWR_STATE_PS = 2 → 3 ≤ k.at 16 1 → ∃ t, exec .setPower s = .next t ∧ PowerRuns s t k ∧
        t.pwr.step = some ⟨k.at 16 1, 1, some (s.tim.now + (if k.at 16 1 = 3 then 3 else 5) * 1000000 * unitNs)⟩) ∧
      (s.fld Fld.PWR_STATE_PS = 2 → k.at 16 1 ≤ 1 →
        (admissionDone s = false → ∃ t, exec .setPower s = .next t ∧ PowerRuns s t k ∧ t.pwr.waits = true) ∧
        (∀ r, admissionDone s = true → setRecheck s = some r → ∃ t, exec .setPower s = .next t ∧
          t.fld Fld.SCN_LOAD_STATUS_CODE = r.code % 2 ^ Fld.SCN_LOAD_STATUS_CODE.w ∧ PowerEnded s t k 5 (t.reg Reg.SCN_LOAD_STATUS).toNat) ∧
        (admissionDone s = true → setRecheck s = none →
          (1 < divOf k ∧ budgetOk s (s.fld Fld.SCN_LEN_LEN) (divOf k) = false → ∃ t, exec .setPower s = .next t ∧ PowerEnded s t k 6 0) ∧
          (¬(1 < divOf k ∧ budgetOk s (s.fld Fld.SCN_LEN_LEN) (divOf k) = false) →
            ∃ t, exec .setPower s = .next t ∧ PowerRuns s t k ∧ t.pwr.step = some ⟨k.at 16 1, divOf k, none⟩))) ∧
      (s.fld Fld.PWR_STATE_PS = 3 → k.at 16 1 ≠ 3 → ∃ t, exec .setPower s = .next t ∧ PowerRuns s t k ∧
        t.pwr.step = some (if k.at 16 1 = 4 then ⟨4, 1, some (s.tim.now + 5 * 1000000 * unitNs)⟩
          else ⟨2, 1, some (s.tim.now + 2 * 1000000 * unitNs)⟩))))

/-- POWER_STEP_DONE (R314, R316, R345, R405): when the step's time has passed the state is reached. PS3 loses the loaded set, the seed and
the cores' contents, and stops the cues; PS2 out of PS3 finds the cores' contents zero; the stacks stay. PS4 leaves the device as a reset
does, with only the fuses, the flash and the strap of the Rehearsal seed, and completes its command. A step that waits for the cue, and one
while a JTAG halt holds the control pair, goes no further. -/
def PowerStepDoneRow : Prop :=
  (∀ s : State, Canonical s →
    (s.pwr.step = none ∨ (∃ p, s.pwr.step = some p ∧ p.due = none) ∨ s.controlHalted = true) → exec .powerStepDone s = .next s) ∧
  (∀ (p : PwrStep) (due : Nat) (s : State), Canonical s → s.pwr.step = some p → p.due = some due → s.controlHalted = false →
    (p.ps = 2 ∨ p.ps = 3 → ∃ t, exec .powerStepDone s = .next t ∧ t.fld Fld.PWR_STATE_PS = p.ps ∧ t.tim.now = max s.tim.now due ∧
      (p.ps = 3 → t.fld Fld.SCN_LOAD_STATUS_LOADED = 0 ∧ t.seedSet = false ∧ t.tim.cuesRun = false ∧ t.fld Fld.TIM_STATUS_LOCKED = 0 ∧
        t.fld Fld.TIM_STATUS_HOLDOVER = 1 ∧ t.fld Fld.HST_STATUS_TEL_PAUSED = 1 ∧ t.rhs.decided = [] ∧
        ∀ c : CoreId, t.fld (Fld.RHS_CORE_ADMITTED c.val) = 0) ∧
      (p.ps = 3 ∨ s.fld Fld.PWR_STATE_PS = 3 → (∀ c, t.core c = { phases := (s.core c).phases, phaseLost := (s.core c).phaseLost }) ∧
        (∀ a, 0xF00000000000 ≤ a → t.byte a = 0) ∧ ∀ a, a < 0xF00000000000 → t.byte a = s.byte a) ∧
      (p.ps = 2 → s.fld Fld.PWR_STATE_PS ≠ 3 → SameStores s t) ∧
      (s.fld Fld.PWR_STATE_PS = 2 → s.fld Fld.SCN_RESTORE_STATE = 4 → t.fld Fld.SCN_RESTORE_STATE = 0)) ∧
    (p.ps = 4 → ∃ t, exec .powerStepDone s = .next t ∧ t.fld Fld.PWR_STATE_PS = 4 ∧ t.mem = [] ∧ t.cores = [] ∧ t.ecc = [] ∧ t.win = [] ∧
      t.eng = {} ∧ t.fab = {} ∧ t.pendT = [] ∧ t.pendQ = [] ∧ t.seedSet = false ∧ (∀ f ∈ fusedFields, t.fld f = s.fld f) ∧
      t.reg Reg.RHS_SEED = s.rhs.seed0 ∧ t.door.flashSm = s.door.flashSm ∧ t.door.flashMc = s.door.flashMc ∧ t.door.key = s.door.key ∧
      t.door.certs = s.door.certs ∧ (∀ l, s.host.long = some l → LongEnded s t l 0 0) ∧
      ∀ a, (∀ f ∈ fusedFields, f.reg ≠ a) → a ≠ Reg.RHS_SEED → a ≠ Reg.PWR_STATE → t.reg a = regReset a))

end Sys2Proof.Safety

/-- SET_POWER and POWER_STEP_DONE (R314, R316): every pair of states, as `SetPowerRow` and `PowerStepDoneRow` say. -/
def Obligations.PowerStepsReachTheirState : Prop := SetPowerRow ∧ PowerStepDoneRow

namespace Sys2Proof.Safety

open Sys2Proof.Machine

/-- A nonce has been drawn from the DRBG (R388): its next 16 bytes, where it is seeded. -/
def NonceDrawn (s t : State) : Prop :=
  ∀ d, s.door.drbg = some d → t.fld Fld.SDR_NONCE_LO_NONCE = leAt (d.bytes 16) 0 8 ∧ t.fld Fld.SDR_NONCE_HI_NONCE = leAt (d.bytes 16) 8 8 ∧
    t.door.drbg = some d.next

/-- LOAD_BOOKS_DONE (R112, R125, R300): an uncorrectable line that it reads fails the command; a set with a failure leaves the loaded one in force,
reports the first failure and completes with SET_REJECTED; a set without one is in force: every core holds its book, is as after a load,
there is no seed, and the command completes. The stacks keep their bytes. -/
def LoadBooksDoneRow : Prop :=
  (∀ s : State, Canonical s → ((∀ l, s.host.long = some l → l.op ≠ 2) ∨ s.controlHalted = true) → exec .loadBooksDone s = .next s) ∧
  (∀ (l : LongCmd) (s : State), Canonical s → s.host.long = some l → l.op = 2 → s.controlHalted = false →
    (∀ e, bookError s l.words = some e → ∃ t, exec .loadBooksDone s = .next t ∧ SameStores s t ∧ t.host.long = none ∧
      t.fld Fld.SCN_LOAD_STATUS_LOADED = s.fld Fld.SCN_LOAD_STATUS_LOADED) ∧
    (Clean s → ∀ r, firstReject (setFails s l.words).1 = some r → ∃ t, exec .loadBooksDone s = .next t ∧ SameStores s t ∧
      t.fld Fld.SCN_LOAD_STATUS_LOADED = s.fld Fld.SCN_LOAD_STATUS_LOADED ∧ t.seedSet = s.seedSet ∧
      t.fld Fld.SCN_LOAD_STATUS_CODE = r.code % 2 ^ Fld.SCN_LOAD_STATUS_CODE.w ∧
      t.fld Fld.SCN_LOAD_STATUS_CORE = r.core % 2 ^ Fld.SCN_LOAD_STATUS_CORE.w ∧
      t.fld Fld.SCN_LOAD_STATUS_PROGRAM = r.program % 2 ^ Fld.SCN_LOAD_STATUS_PROGRAM.w ∧
      t.fld Fld.SCN_LOAD_STATUS_BUNDLE = r.bundle % 2 ^ Fld.SCN_LOAD_STATUS_BUNDLE.w ∧
      LongEnded s t l 5 (t.reg Reg.SCN_LOAD_STATUS).toNat) ∧
    (Clean s → firstReject (setFails s l.words).1 = none → ∃ t, exec .loadBooksDone s = .next t ∧ LongEnded s t l 0 0 ∧
      t.fld Fld.SCN_LOAD_STATUS_LOADED = 1 ∧ t.fld Fld.SCN_LOAD_STATUS_CODE = 0 ∧ t.seedSet = false ∧ t.wlt = [] ∧
      (∀ a, a < 0xF00000000000 → t.byte a = s.byte a) ∧
      ∀ b ∈ (setFails s l.words).2, ∃ k : Core, k.book = some b.book ∧ t.core b.core = k.fresh))

/-- CHECKPOINT_SNAPSHOT and CHECKPOINT_DONE (R359 to R361): a latched snapshot is taken with the digest of every section, whose parts leave once
QUIESCE is 0; a sent manifest whose last acknowledgement has come completes the checkpoint. Before that nothing happens. -/
def CheckpointRows : Prop :=
  (∀ s : State, Canonical s → (s.eng.ckp = none ∨ s.eng.latch = none) → exec .checkpointSnapshot s = .next s) ∧
  (∀ (j : CkpJob) (n : Snap) (s : State), Canonical s → s.eng.ckp = some j → s.eng.latch = some n →
    ∃ t, exec .checkpointSnapshot s = .next t ∧ SameStores s t ∧ t.eng.latch = none ∧
      (s.fld Fld.FAB_CTRL_QUIESCE = 1 → t.eng.reqs = s.eng.reqs ∧ t.eng.ckp = some { j with
        snap := some n, cur := 0, off := 0
        sects := (histSect n j.maddr :: j.given).zipWith (fun d x => { d with digest := x }) n.digs })) ∧
  (∀ s : State, Canonical s →
    (s.eng.ckp = none ∨ (∃ j, s.eng.ckp = some j ∧ (j.snap = none ∨ j.manifest = [] ∨ j.off < j.manifest.length)) ∨ jobQuiet s.eng = false ∨
      s.controlHalted = true) → exec .checkpointDone s = .next s) ∧
  (∀ (l : LongCmd) (j : CkpJob) (n : Snap) (s : State), Canonical s → s.host.long = some l → s.eng.ckp = some j → j.snap = some n →
    j.manifest ≠ [] → j.manifest.length ≤ j.off → jobQuiet s.eng = true → s.controlHalted = false →
      ∃ t, exec .checkpointDone s = .next t ∧ SameStores s t ∧ t.eng = { s.eng with ckp := none } ∧ LongEnded s t l 0 n.step ∧
        t.fld Fld.SCN_CKP_LAST_STEP = n.step % 2 ^ 64 ∧ t.fld Fld.SCN_CKP_ID_ID = j.id % 2 ^ 64)

/-- RESTORE_DONE (R213, R365, R366): a restore whose sections have all passed sets step, position, seed and the data-position record, and is READY if
that agrees with the step; otherwise it waits for RESTORE_ALIGN. Before that nothing happens. -/
def RestoreDoneRow : Prop :=
  (∀ s : State, Canonical s →
    (s.eng.rst = none ∨ (∃ j, s.eng.rst = some j ∧ (j.haveMan = false ∨ j.passed.length ≠ j.sects.length)) ∨ s.controlHalted = true) →
      exec .restoreDone s = .next s) ∧
  (∀ (l : LongCmd) (j : RstJob) (s : State), Canonical s → s.host.long = some l → s.eng.rst = some j → j.haveMan = true →
    j.passed.length = j.sects.length → s.controlHalted = false →
      ∃ t, exec .restoreDone s = .next t ∧ SameStores s t ∧ t.eng.rst = none ∧ t.host.long = none ∧ t.seed = j.seed ∧
        t.fld Fld.SCN_STEP_STEP = leAt j.manifest 32 8 % 2 ^ 64 ∧ t.fld Fld.SCN_SEQ_POS = leAt j.manifest 80 2 % 2 ^ 16 ∧
        t.fld Fld.SCN_RESTORE_DATAPOS_VALID = b2n j.dpValid ∧ t.fld Fld.SCN_DATAPOS_STEP = leAt j.manifest 40 8 % 2 ^ 64 ∧
        (j.dpValid = true → t.dp = (j.manifest.drop 256).take 256) ∧ t.hist.due = true ∧ t.hist.filled = filledOf j.sects ∧
        t.eng.restored = some (leAt j.manifest 32 8, leAt j.manifest 80 2, j.seed) ∧
        (j.dpValid = true → leAt j.manifest 40 8 = leAt j.manifest 32 8 → t.fld Fld.SCN_RESTORE_STATE = 4 ∧ t.seedSet = true ∧
          LongEnded s t l 0 (j.kept.length + 65536 * j.fetched)) ∧
        (j.dpValid = false ∨ leAt j.manifest 40 8 ≠ leAt j.manifest 32 8 → t.fld Fld.SCN_RESTORE_STATE = 3 ∧ t.seedSet = s.seedSet))

/-- TOKEN_EVALUATION (R388, R389, R395): a token waits while self-tests run. A refused one completes with AUTH_FAILED and its DETAIL and changes no
scope and no revocation; an accepted one sets the scope of the next cue, starts a zeroisation, or revokes keys. A new nonce is drawn after either. -/
def TokenEvaluationRow : Prop :=
  (∀ s : State, Canonical s → (s.door.token = none ∨ s.door.testing = true ∨ s.awake = false) → exec .tokenEvaluation s = .next s) ∧
  (∀ (l : LongCmd) (b : List Byte) (s : State), Canonical s → s.host.long = some l → s.door.token = some b → s.door.testing = false → s.awake = true →
    (∀ d, tokenRefused s b = some d → ∃ t, exec .tokenEvaluation s = .next t ∧ SameStores s t ∧ t.door.token = none ∧ LongEnded s t l 9 d ∧
      t.door.scopeNext = s.door.scopeNext ∧ NonceDrawn s t ∧ ∀ a, a ≠ Reg.SDR_NONCE_LO → a ≠ Reg.SDR_NONCE_HI → a ≠ Reg.HST_CPL_TAIL →
        a ≠ Reg.HST_INT → t.reg a = s.reg a) ∧
    (tokenRefused s b = none → ∃ t, exec .tokenEvaluation s = .next t ∧ SameStores s t ∧ t.door.token = none ∧ LongEnded s t l 0 0 ∧
      t.fld Fld.SDR_DEBUG_SCOPE = s.fld Fld.SDR_DEBUG_SCOPE ∧
      (leAt b 8 1 = 1 → t.door.scopeNext = some (leAt b 10 2) ∧ NonceDrawn s t) ∧
      (leAt b 8 1 = 2 → s.door.zeroing = none → t.door.zeroing = some false ∧ t.door.drbg = none ∧ t.fld Fld.SDR_NONCE_LO_NONCE = 0 ∧
        t.fld Fld.SDR_NONCE_HI_NONCE = 0) ∧
      (leAt b 8 1 = 3 → NonceDrawn s t ∧ t.fld Fld.SDR_KEY_REVOKE_FW = s.fld Fld.SDR_KEY_REVOKE_FW ||| leAt b 12 1 ∧
        t.fld Fld.SDR_KEY_REVOKE_TOKEN = s.fld Fld.SDR_KEY_REVOKE_TOKEN ||| leAt b 13 1)))

end Sys2Proof.Safety

/-- LOAD_BOOKS_DONE, CHECKPOINT_SNAPSHOT, CHECKPOINT_DONE, RESTORE_DONE and TOKEN_EVALUATION (R112, R125, R359 to R361, R365, R366, R388): the long
commands end, as the statement of each row says. -/
def Obligations.LoadsAndLongCommandsEnd : Prop := LoadBooksDoneRow ∧ CheckpointRows ∧ RestoreDoneRow ∧ TokenEvaluationRow

/-! ### The host interface -/

namespace Sys2Proof.Safety

open Sys2Proof.Machine

/-- No other transfer asks for the service bus: none waits, and the inbound control lane is empty (R324, R326). -/
def BusFree (s : State) : Prop := s.bus.waiting = [] ∧ s.fab.lane = []

/-- Record `r` has gone to place `wr mod n` of a telemetry ring that begins `off` bytes into the window, and its write counter has gone on;
no other byte changes (R308). -/
def Recorded (s t : State) (off n : Nat) (wr : Fld) (r : List Byte) : Prop :=
  BytesOutside (s.fld Fld.HST_TEL_BASE_BASE + off + r.length * (s.fld wr % n)) r.length s t ∧
    t.bytes (s.fld Fld.HST_TEL_BASE_BASE + off + r.length * (s.fld wr % n)) r.length = r ∧ t.fld wr = (s.fld wr + 1) % 2 ^ 32

end Sys2Proof.Safety

/-- QUEUED_NOTICE_POST, TELEMETRY_RECORD_STORE and COMMAND_WINDOW_WRITE (R292, R297, R303, R304, R307 to R309): the oldest waiting notice is
posted once the ring has room, as the cause of vector 1. Where no other transfer asks for the bus, the oldest phase, event or trace record
goes to its ring's next place in the stacks, and no other byte changes; a phase or event record waits while its ring is full, and one stored
may be the cause of vector 3 or 4. A write of at most 512 bytes of the command window changes its own bytes alone; a longer one, one beyond
the window and one while BAR2 is not decoded change nothing. -/
def Obligations.NoticesRecordsAndWindowWrites : Prop :=
  ∀ s : State, Canonical s →
    (s.host.notices = [] → exec .queuedNoticePost s = .next s) ∧
    (∀ code scene detail rest, s.host.notices = (code, scene, detail) :: rest →
      (0 < cplFree s → ∃ t, exec .queuedNoticePost s = .next t ∧ SameStores s t ∧ t.host.notices = rest ∧
        Posted s t 0 code 0 true scene 0 detail ∧ (t.fld Fld.HST_INT_PEND).testBit 1 = true) ∧
      (cplFree s = 0 → exec .queuedNoticePost s = .next s)) ∧
    (∀ ring c, telOn s = false → exec (.telemetryRecordStore ring c) s = .next s) ∧
    (∀ c r rest, telOn s = true → (s.core c).phases = r :: rest →
      (4194304 ≤ ringUnread (s.fld Fld.HST_TEL_PHASE_WR) (s.fld Fld.HST_TEL_PHASE_RD) → exec (.telemetryRecordStore 0 c) s = .next s) ∧
      (ringUnread (s.fld Fld.HST_TEL_PHASE_WR) (s.fld Fld.HST_TEL_PHASE_RD) < 4194304 → BusFree s →
        ∃ t, exec (.telemetryRecordStore 0 c) s = .next t ∧ t.core c = { s.core c with phases := rest } ∧
          (∀ k, k ≠ c → t.core k = s.core k) ∧ Recorded s t 0 4194304 Fld.HST_TEL_PHASE_WR r ∧
          (2097152 ≤ ringUnread (s.fld Fld.HST_TEL_PHASE_WR) (s.fld Fld.HST_TEL_PHASE_RD) → (t.fld Fld.HST_INT_PEND).testBit 3 = true))) ∧
    (∀ c r rest, telOn s = true → s.tel.events = r :: rest →
      (1048576 ≤ eventUnread s → exec (.telemetryRecordStore 1 c) s = .next s) ∧
      (eventUnread s < 1048576 → BusFree s → ∃ t, exec (.telemetryRecordStore 1 c) s = .next t ∧ (∀ k, t.core k = s.core k) ∧
        t.tel.events = rest ∧ Recorded s t 0x08000000 1048576 Fld.HST_TEL_EVENT_WR r ∧ (t.fld Fld.HST_INT_PEND).testBit 4 = true)) ∧
    (∀ c r rest, telOn s = true → s.tel.trace = r :: rest → BusFree s →
      ∃ t, exec (.telemetryRecordStore 2 c) s = .next t ∧ (∀ k, t.core k = s.core k) ∧ t.tel.trace = rest ∧
        Recorded s t 0x0C000000 2097152 Fld.HST_TEL_TRACE_WR r) ∧
    (∀ (off : BitVec 24) bs,
      (s.barOpen = true → off.toNat + bs.length ≤ 2 ^ 24 → bs.length ≤ 512 →
        ∃ t, exec (.commandWindowWrite off bs) s = .next t ∧ t.winBytes off.toNat bs.length = bs ∧
          (∀ a, a < off.toNat ∨ off.toNat + bs.length ≤ a → t.winByte a = s.winByte a) ∧ t = { s with win := t.win }) ∧
      ((s.barOpen = false ∨ 2 ^ 24 < off.toNat + bs.length ∨ 512 < bs.length) → exec (.commandWindowWrite off bs) s = .next s))

namespace Sys2Proof.Safety

open Sys2Proof.Machine

/-- FLR, D3HOT and PCIE_LINK_TRAINING (R292, R294): an FLR resets the HST_ block but telemetry and the live bits of HST_STATUS, and the
command window, discards a taken record and the completion of a long command, and keeps waiting notices; D3hot is one bit; a trained link of
a rate and width that the device supports shows its rate, width and mode, and any other changes nothing. -/
def PcieRows : Prop :=
  ∀ s : State, Canonical s →
    (s.awake = true → s.pwr.released = true → ∃ t, exec .flr s = .next t ∧ SameStores s t ∧ t.win = [] ∧ t.host.taken = none ∧
      t.host.notices = s.host.notices ∧ t.host.long = (s.host.long.map fun l => { l with seq := 0 }) ∧
      (∀ a, flrClears a = false → t.reg a = s.reg a) ∧
      (∀ a, flrClears a = true → a ≠ Reg.HST_STATUS → t.reg a = regReset a) ∧ (∀ f ∈ liveStatus, t.fld f = s.fld f) ∧
      t.fld Fld.HST_STATUS_D3HOT = 0) ∧
    (∀ enter, s.awake = true → s.pwr.released = true → exec (.d3hot enter) s = .next (s.setFld Fld.HST_STATUS_D3HOT (b2n enter))) ∧
    ((s.awake = false ∨ s.pwr.released = false) → exec .flr s = .next s ∧ ∀ enter, exec (.d3hot enter) s = .next s) ∧
    (∀ rate width flit,
      (s.awake = true → pcieOk rate.toNat width.toNat flit = true → ∃ t, exec (.pcieLinkTraining rate width flit) s = .next t ∧
        SameStores s t ∧ (∀ a, a ≠ Reg.HST_STATUS → t.reg a = s.reg a) ∧ t.fld Fld.HST_STATUS_RATE = rate.toNat ∧
        t.fld Fld.HST_STATUS_WIDTH = width.toNat ∧ t.fld Fld.HST_STATUS_FLIT = b2n flit ∧
        t.fld Fld.HST_STATUS_CAPT_EXACT = b2n (decide (rate = 6) && flit)) ∧
      ((s.awake = false ∨ pcieOk rate.toNat width.toNat flit = false) → exec (.pcieLinkTraining rate width flit) s = .next s))

/-- A requester has lost as often as its LIMIT (R326). -/
def Forced (s : State) (r : Nat) : Prop := s.fld (Fld.SVC_ARB_LIMIT r) ≠ 0 ∧ s.fld (Fld.SVC_ARB_WAIT r) = s.fld (Fld.SVC_ARB_LIMIT r)

/-- SERVICE_BUS_TRANSFER (R324 to R326): of those that ask, one at its LIMIT wins before all others, and otherwise one of the highest CLASS; the
winner's WAIT falls to 0 and its WINS counts, and each loser's WAIT counts. With none that asks nothing happens. -/
def BusDecides : Prop :=
  ∀ (new : List BusReq) (s u : State), Canonical s → u = enqueueBus new s →
    (asking u = [] → exec (.serviceBusTransfer new) s = .next s) ∧
    (asking u ≠ [] → ∃ t w, exec (.serviceBusTransfer new) s = .next t ∧ w ∈ asking u ∧
      ((∃ r ∈ asking u, Forced s r) → Forced s w) ∧
      ((∀ r ∈ asking u, ¬Forced s r) → ∀ r ∈ asking u, s.fld (Fld.SVC_ARB_CLASS r) ≤ s.fld (Fld.SVC_ARB_CLASS w)) ∧
      t.fld (Fld.SVC_ARB_WAIT w) = 0 ∧ Counted (Fld.SVC_ARB_WINS w) s t ∧
      (∀ r ∈ asking u, r ≠ w → Counted (Fld.SVC_ARB_WAIT r) s t) ∧ ∀ c, t.core c = s.core c)

/-- SERVICE_BUS_TRANSFER (R295, R308, R324, R325): a transfer that asks alone is carried out. In the stacks it reads, or writes its own bytes and no
other; a register reads as `readReg` says; the command window is read and written; the telemetry window reads the stacks at HST_TEL_BASE, and
a write to it is discarded. What a read gives returns on its requester's lane. -/
def BusCarries : Prop :=
  ∀ (q : BusReq) (s : State), Canonical s → Clean s → BusFree s → mayAsk s q.req.toNat = true → busReqOk q = true →
    ∃ t, exec (.serviceBusTransfer [q]) s = .next t ∧ t.bus.waiting = [] ∧ (∀ c, t.core c = s.core c) ∧
      Counted (Fld.SVC_ARB_WINS q.req.toNat) s t ∧
      (q.space = .device → s.stacksRest = false → q.write = false → s.inStacks q.addr.toNat q.len.toNat = true →
        (∀ a, t.byte a = s.byte a) ∧ SMap.get [] t.bus.data q.req.toNat = s.bytes q.addr.toNat q.len.toNat) ∧
      (q.space = .device → s.stacksRest = false → q.write = true → s.inStacks q.addr.toNat q.data.length = true →
        BytesOutside q.addr.toNat q.data.length s t ∧ t.bytes q.addr.toNat q.data.length = q.data) ∧
      (q.space = .device → q.write = false → q.len = 8 → q.addr.toNat % 8 = 0 → regAt q.addr.toNat ≠ none →
        (∀ r, r < 8 → q.addr.toNat ≠ Reg.SVC_ARB r) →
          (∀ a, t.byte a = s.byte a) ∧ SMap.get [] t.bus.data q.req.toNat = leBytes 8 (readReg s q.addr.toNat).toNat) ∧
      (q.space = .window → q.write = true → t.winBytes q.addr.toNat q.data.length = q.data ∧ (∀ a, t.byte a = s.byte a) ∧
        ∀ a, a < q.addr.toNat ∨ q.addr.toNat + q.data.length ≤ a → t.winByte a = s.winByte a) ∧
      (q.space = .window → q.write = false → t.win = s.win ∧ (∀ a, t.byte a = s.byte a) ∧
        SMap.get [] t.bus.data q.req.toNat = s.winBytes q.addr.toNat q.len.toNat) ∧
      (q.space = .telemetry → q.write = true → t.win = s.win ∧ t.bus.data = s.bus.data ∧ ∀ a, t.byte a = s.byte a) ∧
      (q.space = .telemetry → q.write = false → s.stacksRest = false →
        s.inStacks (s.fld Fld.HST_TEL_BASE_BASE + q.addr.toNat) q.len.toNat = true → (∀ a, t.byte a = s.byte a) ∧
          SMap.get [] t.bus.data q.req.toNat = s.bytes (s.fld Fld.HST_TEL_BASE_BASE + q.addr.toNat) q.len.toNat)

end Sys2Proof.Safety

/-- FLR, D3HOT, PCIE_LINK_TRAINING and SERVICE_BUS_TRANSFER (R292, R294, R324 to R326), as the statement of each says. -/
def Obligations.PcieAndServiceBusAct : Prop := PcieRows ∧ BusDecides ∧ BusCarries

/-! ### Register writes -/

namespace Sys2Proof.Safety

open Sys2Proof.Machine

/-- The rows that write one field of a register and are held in shadow whatever the value: field, value, and whether its class is Q
(R31, R32, R39, R40, R240, R302, R336, R337, R383, R387, R389, R395). -/
def heldRow : Instr → Option (Fld × Nat × Bool)
  | .clearHalt => some (Fld.SCN_CTRL_CLEAR_HALT, 1, false)
  | .timRoleWrite root => some (Fld.TIM_ROLE_ROOT, b2n root, true)
  | .timCtrlWrite en => some (Fld.TIM_CTRL_CUE_EN, b2n en, true)
  | .timEpochWrite e => some (Fld.TIM_EPOCH_EPOCH, e.toNat, true)
  | .hstCplHeadWrite h => some (Fld.HST_CPL_HEAD_HEAD, h.toNat, false)
  | .pinClear => some (Fld.FLT_CTRL_PIN_CLEAR, 1, false)
  | .pinTest => some (Fld.FLT_CTRL_PIN_TEST, 1, false)
  | .trlInjectRes c => some (Fld.TRL_INJECT_RES c, 1, false)
  | .trlInjectSec c => some (Fld.TRL_INJECT_SEC c, 1, false)
  | .cfrInjectSec c => some (Fld.CFR_INJECT_SEC c, 1, false)
  | .spdInjectSec c => some (Fld.SPD_INJECT_SEC c, 1, false)
  | .memInjectSym k => some (Fld.MEM_INJECT_SYM k.val, 1, false)
  | .klInjectCrc k => some (Fld.KL_INJECT_CRC k.val, 1, false)
  | .klInjectFec k => some (Fld.KL_INJECT_FEC k.val, 1, false)
  | .xclInjectRes => some (Fld.XCL_INJECT_RES, 1, false)
  | .rhsInjectDigest => some (Fld.RHS_INJECT_DIGEST, 1, false)
  | .retrain k => some (Fld.KL_CTRL_RETRAIN k.val, 1, false)
  | .selftest => some (Fld.SDR_CTRL_SELFTEST, 1, false)
  | .zeroise => some (Fld.SDR_CTRL_ZEROISE, 1, false)
  | .debugLock => some (Fld.SDR_CTRL_DEBUG_LOCK, 1, false)
  | .fwCommit => some (Fld.SDR_CTRL_FW_COMMIT, 1, false)
  | .svnAdvance => some (Fld.SDR_CTRL_SVN_ADVANCE, 1, false)
  | _ => none

/-- The rows that write a whole register: its address and the value. -/
def regRow : Instr → Option (Nat × Word)
  | .registerWrite a v => some (a.toNat, v)
  | .scnLenWrite len => some (Reg.SCN_LEN, BitVec.ofNat 64 len.toNat)
  | .timCueParentWrite port => some (Reg.TIM_CUE_PARENT, BitVec.ofNat 64 port.toNat)
  | .timCueChildWrite mask => some (Reg.TIM_CUE_CHILD, BitVec.ofNat 64 mask.toNat)
  | .cfrOvfWrite c size v => some (if size then Reg.CFR_OVF_SIZE c else Reg.CFR_OVF_BASE c, v)
  | .cfgHistWrite count v => some (if count then Reg.CFG_HIST else Reg.CFG_HIST_BASE, v)
  | .hstTelBaseWrite v => some (Reg.HST_TEL_BASE, v)
  | .fabHopmapWrite i v => some (Reg.FAB_HOPMAP i.toNat, v)
  | .fabResWrite r v => some (Reg.FAB_RES r.toNat, v)
  | .xclRctxCfgWrite i v => some (Reg.XCL_RCTX_CFG i.toNat, v)
  | .wltTagWrite i v => some (Reg.WLT_TAG i.toNat, v)
  | .fltSrcCfgWrite i v => some (Reg.FLT_SRC_CFG (i.val + 1), v)
  | .scnDbgHaltWrite high v => some (if high then Reg.SCN_DBG_HALT1 else Reg.SCN_DBG_HALT0, v)
  | _ => none


/-- A write of `x` to field `f` is held in the shadow of its class, the last one to that field (R322). -/
def HeldWrite (q : Bool) (f : Fld) (x : Nat) (t : State) : Prop :=
  (⟨f.reg, f.lo, f.w, x⟩ : PendW) ∈ (if q then t.pendQ else t.pendT) ∧
    ∀ p ∈ (if q then t.pendQ else t.pendT), p.on f = true → p.val = x

/-- A register write has changed registers, shadows and the arbiter's pointers alone. -/
def OnlyWrites (s t : State) : Prop := t = { s with regs := t.regs, bus := t.bus, pendT := t.pendT, pendQ := t.pendQ }

/-- Every register but the arbiter's reads as before. -/
def SameRegs (s t : State) : Prop := ∀ a, (∀ r, r < 8 → a ≠ Reg.SVC_ARB r) → t.reg a = s.reg a

/-- The host's writes reach the register file now: BAR0 is decoded, no start-up has stopped at an assembly mismatch, and no other transfer
asks for the bus (R294, R326, R401). -/
def HostWrites (s : State) : Prop := s.barOpen = true ∧ s.fld Fld.SMG_BOOT_STAGE ≠ 5 ∧ BusFree s

/-- The rows that write one field, the value held whatever it is (R31, R32, R39, R40, R240, R302, R322, R336, R337, R383, R387, R389, R395). -/
def HeldRows : Prop :=
  ∀ (i : Instr) (f : Fld) (x : Nat) (q : Bool) (s : State), heldRow i = some (f, x, q) → Canonical s →
    (s.barOpen = false → exec i s = .next s) ∧
    (HostWrites s → emptySite s f.reg = false → ∃ t, exec i s = .next t ∧ OnlyWrites s t ∧ SameRegs s t ∧ HeldWrite q f x t) ∧
    (s.barOpen = true → BusFree s → (s.fld Fld.SMG_BOOT_STAGE = 5 ∨ emptySite s f.reg = true) → ∃ t, exec i s = .next t ∧
      OnlyWrites s t ∧ SameRegs s t ∧ t.pendT = s.pendT ∧ t.pendQ = s.pendQ)

/-- A T or Q field of a register that a row writes (R322): a value that its rule takes is held in its class's shadow, and one that it refuses
is not, and sets the rule's status bits; the field keeps its value. -/
def RegisterRows : Prop :=
  ∀ (i : Instr) (a n : Nat) (v : Word) (r : RegRow) (f : FieldRow) (s : State),
    regRow i = some (a, v) → Canonical s → regAt a = some (r, n) → f ∈ r.fields → f.acc = .rw → (f.apply = .t ∨ f.apply = .q) →
    (s.barOpen = false → exec i s = .next s) ∧
    (HostWrites s → emptySite s a = false → regRule s a v = none → ∃ t, exec i s = .next t ∧ OnlyWrites s t ∧
      t.fld ⟨a, f.lo, f.w⟩ = s.fld ⟨a, f.lo, f.w⟩ ∧
      (∀ x flags, fieldRule s a f.lo (bitsGet v f.lo f.w) = .keep x flags → HeldWrite (decide (f.apply = .q)) ⟨a, f.lo, f.w⟩ x t ∧
        ∀ g ∈ flags, t.fld g = 1) ∧
      (∀ flags, fieldRule s a f.lo (bitsGet v f.lo f.w) = .refuse flags →
        (∀ p : PendW, p.on ⟨a, f.lo, f.w⟩ = true → (p ∈ t.pendT ↔ p ∈ s.pendT) ∧ (p ∈ t.pendQ ↔ p ∈ s.pendQ)) ∧
        ∀ g ∈ flags, t.fld g = 1)) ∧
    (HostWrites s → emptySite s a = false → ∀ flags, regRule s a v = some flags → ∃ t, exec i s = .next t ∧ OnlyWrites s t ∧
      t.pendT = s.pendT ∧ t.pendQ = s.pendQ ∧ ∀ g ∈ flags, t.fld g = 1)

/-- REGISTER_WRITE outside the MSI-X table (R10, R11, R220, R322, R330, R401): a write of an unassigned address, and one of an X field that differs, set the
bus's status bit; one of a register of an empty site, and any after an assembly mismatch, does nothing; a register of RO fields keeps its
value, and the 1 bits written to a W1C field clear it. -/
def OtherRegisters : Prop :=
  ∀ (a : BitVec 48) (v : Word) (s : State), Canonical s → s.barOpen = true → BusFree s →
    (a.toNat < 0xFF0000048000 ∨ 0xFF0000048400 ≤ a.toNat) → ∃ t, exec (.registerWrite a v) s = .next t ∧ OnlyWrites s t ∧
      ((s.fld Fld.SMG_BOOT_STAGE = 5 ∨ emptySite s a.toNat = true) → SameRegs s t ∧ t.pendT = s.pendT ∧ t.pendQ = s.pendQ) ∧
      (s.fld Fld.SMG_BOOT_STAGE ≠ 5 → emptySite s a.toNat = false →
        (regAt a.toNat = none → t.fld Fld.SVC_STATUS_UNASSIGNED = 1 ∧ t.pendT = s.pendT ∧ t.pendQ = s.pendQ) ∧
        (∀ r n f, regAt a.toNat = some (r, n) → f ∈ r.fields → f.apply = .x → f.acc ≠ .w1c → bitsGet v f.lo f.w ≠ s.fld ⟨a.toNat, f.lo, f.w⟩ →
          regRule s a.toNat v = none → t.fld Fld.SVC_STATUS_X_WRITE = 1) ∧
        (∀ r n, regAt a.toNat = some (r, n) → (∀ f ∈ r.fields, f.acc = .ro ∧ f.apply = .now) → SameRegs s t) ∧
        (∀ r n f, regAt a.toNat = some (r, n) → (∀ g ∈ r.fields, (g.acc = .ro ∨ g.acc = .w1c) ∧ g.apply = .now) → f ∈ r.fields → f.acc = .w1c →
          regRule s a.toNat v = none → ∀ b, (t.fld ⟨a.toNat, f.lo, f.w⟩).testBit b =
            ((s.fld ⟨a.toNat, f.lo, f.w⟩).testBit b && !(bitsGet v f.lo f.w).testBit b)))

end Sys2Proof.Safety

/-- REGISTER_WRITE and the rows of single registers (R10, R322, R323): T and Q fields wait in shadow, and every other register does as its class and
access say; nothing but registers, shadows and the arbiter changes. While BAR0 is not decoded nothing changes. -/
def Obligations.WritesWaitInShadow : Prop := HeldRows ∧ RegisterRows ∧ OtherRegisters

/-- Writes outside their range (R25, R180, R211, R261, R290, R308, R405) are refused at once: nothing of them enters a shadow, the fields keep
their values, and the status bit of the rule is set. So is every write of SCN_DBG_HALT without the HALT scope or in PS3, whatever its value. -/
def Obligations.IllegalWritesAreRefused : Prop :=
  ∀ s : State, Canonical s → HostWrites s →
    (∀ len : BitVec 24, (len.toNat < 72000 ∨ 14400000 < len.toNat ∨ len.toNat % 360 ≠ 0) →
      ∃ t, exec (.scnLenWrite len) s = .next t ∧ OnlyWrites s t ∧ t.pendQ = s.pendQ ∧ t.fld Fld.SCN_LEN_LEN = s.fld Fld.SCN_LEN_LEN ∧
        t.fld Fld.SCN_STATUS_LEN_INVALID = 1) ∧
    (∀ (c : CoreId) (v : Word), ovfLegal s (bitsGet v 0 48) (s.eff (Fld.CFR_OVF_SIZE_PAGES c)) = false →
      ∃ t, exec (.cfrOvfWrite c false v) s = .next t ∧ OnlyWrites s t ∧ t.pendQ = s.pendQ ∧
        t.fld (Fld.CFR_OVF_BASE_BASE c) = s.fld (Fld.CFR_OVF_BASE_BASE c) ∧ t.fld (Fld.CFR_STATUS_OVF_INVALID c) = 1) ∧
    (∀ (c : CoreId) (v : Word), ovfLegal s (s.eff (Fld.CFR_OVF_BASE_BASE c)) (bitsGet v 0 21) = false →
      ∃ t, exec (.cfrOvfWrite c true v) s = .next t ∧ OnlyWrites s t ∧ t.pendQ = s.pendQ ∧
        t.fld (Fld.CFR_OVF_SIZE_PAGES c) = s.fld (Fld.CFR_OVF_SIZE_PAGES c) ∧ t.fld (Fld.CFR_STATUS_OVF_INVALID c) = 1) ∧
    (∀ v : Word, histLegal s (bitsGet v 0 48) (s.eff Fld.CFG_HIST_COUNT) = false →
      ∃ t, exec (.cfgHistWrite false v) s = .next t ∧ OnlyWrites s t ∧ t.pendQ = s.pendQ ∧
        t.fld Fld.CFG_HIST_BASE_BASE = s.fld Fld.CFG_HIST_BASE_BASE ∧ t.fld Fld.CFG_HIST_INVALID = 1) ∧
    (∀ v : Word, histLegal s (s.eff Fld.CFG_HIST_BASE_BASE) (bitsGet v 0 17) = false →
      ∃ t, exec (.cfgHistWrite true v) s = .next t ∧ OnlyWrites s t ∧ t.pendQ = s.pendQ ∧
        t.fld Fld.CFG_HIST_COUNT = s.fld Fld.CFG_HIST_COUNT ∧ t.fld Fld.CFG_HIST_INVALID = 1) ∧
    (∀ v : Word, (bitsGet v 0 48 % 2 ^ 28 ≠ 0 ∨ s.inStacks (bitsGet v 0 48) (2 ^ 28) = false) →
      ∃ t, exec (.hstTelBaseWrite v) s = .next t ∧ OnlyWrites s t ∧ t.pendQ = s.pendQ ∧
        t.fld Fld.HST_TEL_BASE_BASE = s.fld Fld.HST_TEL_BASE_BASE ∧ t.fld Fld.HST_STATUS_TEL_INVALID = 1) ∧
    (∀ (r : BitVec 10) (v : Word), 256 < bitsGet v 6 8 + bitsGet v 14 8 →
      ∃ t, exec (.fabResWrite r v) s = .next t ∧ OnlyWrites s t ∧ t.pendQ = s.pendQ ∧ t.reg (Reg.FAB_RES r.toNat) = s.reg (Reg.FAB_RES r.toNat) ∧
        t.fld Fld.FAB_STATUS_RES_INVALID = 1) ∧
    (∀ (i : BitVec 8) (v : Word), rctxLegal s i.toNat v = false →
      ∃ t, exec (.xclRctxCfgWrite i v) s = .next t ∧ OnlyWrites s t ∧ t.pendQ = s.pendQ ∧
        t.reg (Reg.XCL_RCTX_CFG i.toNat) = s.reg (Reg.XCL_RCTX_CFG i.toNat) ∧ t.fld Fld.XCL_STATUS_RCTX_INVALID = 1) ∧
    (∀ (high : Bool) (v : Word),
      ((s.fld Fld.SDR_DEBUG_SCOPE).testBit 1 = false ∨ s.fld Fld.PWR_STATE_PS = 3) →
      ∃ t, exec (.scnDbgHaltWrite high v) s = .next t ∧ OnlyWrites s t ∧ t.pendT = s.pendT ∧
        t.fld Fld.SCN_DBG_HALT0_CORES = s.fld Fld.SCN_DBG_HALT0_CORES ∧ t.fld Fld.SCN_DBG_HALT1_CORES = s.fld Fld.SCN_DBG_HALT1_CORES ∧
        t.fld Fld.SCN_DBG_HALT1_DENIED = 1)

/-- R49: a TIM_CUE_PARENT write that names a link of an empty site, or a value from 48 to 0x3E, leaves the field unchanged, and a
TIM_CUE_CHILD write stores 0 in the bits of links on empty sites; either sets TREE_EMPTY. -/
def Obligations.TreeWritesNameFittedLinks : Prop :=
  ∀ s : State, Canonical s → HostWrites s → s.linkDies ≤ 4 →
    (∀ port : BitVec 6, 12 * s.linkDies ≤ port.toNat → port.toNat < 0x3F →
      ∃ t, exec (.timCueParentWrite port) s = .next t ∧ OnlyWrites s t ∧ t.pendT = s.pendT ∧ t.pendQ = s.pendQ ∧
        t.fld Fld.TIM_CUE_PARENT_PORT = s.fld Fld.TIM_CUE_PARENT_PORT ∧ t.fld Fld.TIM_STATUS_TREE_EMPTY = 1) ∧
    (∀ mask : BitVec 48, ∃ t, exec (.timCueChildWrite mask) s = .next t ∧ OnlyWrites s t ∧
      HeldWrite true Fld.TIM_CUE_CHILD_MASK (mask.toNat % 2 ^ (12 * s.linkDies)) t ∧
      (2 ^ (12 * s.linkDies) ≤ mask.toNat → t.fld Fld.TIM_STATUS_TREE_EMPTY = 1) ∧
      (mask.toNat < 2 ^ (12 * s.linkDies) → t.fld Fld.TIM_STATUS_TREE_EMPTY = s.fld Fld.TIM_STATUS_TREE_EMPTY))

/-- SVC_ARB_WRITE, MSIX_TABLE_WRITE and DISCARD_Q (R311, R323, R327): CLASS and LIMIT are in force at once and WAIT is not changed by the
write; an MSI-X entry's half or whole is in force at once, and a vector that it unmasks while pending is sent; DISCARD_Q clears every pending Q
write. While BAR0 is not decoded nothing changes. -/
def Obligations.WritesInForceAtOnce : Prop :=
  (∀ (i : Instr) (s : State), Canonical s → s.barOpen = false →
    ((∃ r v, i = .svcArbWrite r v) ∨ (∃ j w v, i = .msixTableWrite j w v) ∨ i = .discardQ) → exec i s = .next s) ∧
  ∀ s : State, Canonical s → HostWrites s →
    (∀ (r : BitVec 3) (v : Word), ∃ t, exec (.svcArbWrite r v) s = .next t ∧ OnlyWrites s t ∧ t.pendT = s.pendT ∧ t.pendQ = s.pendQ ∧
      SameRegs s t ∧ t.fld (Fld.SVC_ARB_CLASS r.toNat) = bitsGet v 0 2 ∧ t.fld (Fld.SVC_ARB_LIMIT r.toNat) = bitsGet v 8 8 ∧
      (∀ n, n < 8 → n ≠ 0 → t.fld (Fld.SVC_ARB_WAIT n) = s.fld (Fld.SVC_ARB_WAIT n)) ∧ t.fld (Fld.SVC_ARB_WAIT 0) = 0 ∧
      Counted (Fld.SVC_ARB_WINS 0) s t) ∧
    (∀ (i : BitVec 8) (wide : Bool) (v : Word),
      ∃ t, exec (.msixTableWrite i wide v) s = .next t ∧ t.pendT = s.pendT ∧ t.pendQ = s.pendQ ∧ SameStores s t ∧
        (wide = false → t.fld ⟨Reg.HST_MSIX (i.toNat / 2), 32 * (i.toNat % 2), 32⟩ = v.toNat % 2 ^ 32 ∧
          t.fld ⟨Reg.HST_MSIX (i.toNat / 2), 32 - 32 * (i.toNat % 2), 32⟩ = s.fld ⟨Reg.HST_MSIX (i.toNat / 2), 32 - 32 * (i.toNat % 2), 32⟩) ∧
        (wide = true → t.reg (Reg.HST_MSIX (i.toNat / 2)) = if i.toNat % 2 = 0 then v else s.reg (Reg.HST_MSIX (i.toNat / 2))) ∧
        (∀ e : BitVec 8, e.toNat / 2 ≠ i.toNat / 2 → t.reg (Reg.HST_MSIX (e.toNat / 2)) = s.reg (Reg.HST_MSIX (e.toNat / 2))) ∧
        ((s.reg Reg.HST_PBA).getLsbD (i.toNat / 4) = true → vectorMasked t (i.toNat / 4) = false →
          (t.reg Reg.HST_PBA).getLsbD (i.toNat / 4) = false ∧
          OutItem.msix (i.toNat / 4) (t.reg (Reg.HST_MSIX (2 * (i.toNat / 4)))).toNat
            (bitsGet (t.reg (Reg.HST_MSIX (2 * (i.toNat / 4) + 1))) 0 32) ∈ t.out)) ∧
    (∃ t, exec .discardQ s = .next t ∧ OnlyWrites s t ∧ t.pendQ = [] ∧ t.pendT = s.pendT ∧ t.fld Fld.SMG_APPLY_Q_DISCARDED = 1 ∧
      ∀ a, (∀ r, r < 8 → a ≠ Reg.SVC_ARB r) → a ≠ Reg.SMG_APPLY → t.reg a = s.reg a)


/-! ### The Stage Door -/

namespace Sys2Proof.Safety

open Sys2Proof.Machine

/-- The SPDM request of each row of the mailbox (R391). -/
def spdmRow : Instr → Option SpdmReq
  | .getVersion => some { kind := 0 }
  | .getCapabilities => some { kind := 1 }
  | .negotiateAlgorithms => some { kind := 2 }
  | .getDigests => some { kind := 3 }
  | .getCertificate slot off len => some ⟨4, slot.toNat, off.toNat, len.toNat⟩
  | .challenge slot => some { kind := 5, a := slot.toNat }
  | .getMeasurements index sign => some { kind := 6, a := index.toNat, b := b2n sign }
  | _ => none

/-- A response has left by the mailbox, and nothing else has changed. -/
def Responds (i : Instr) (s : State) (code : Nat) (bytes : List Byte) : Prop :=
  exec i s = .next { s with out := s.out ++ [.spdm code bytes] }

/-- A response with a nonce has left by the mailbox: the nonce is the DRBG's next 32 bytes where it is seeded, and a signed response ends with the
signature of a digest under the identity key (R379, R391; what is signed is free, assumption 79). Nothing else changes but the DRBG. -/
def RespondsFresh (i : Instr) (s : State) (code : Nat) (pre : List Byte) (sign : Bool) : Prop :=
  ∃ t nonce sig, exec i s = .next t ∧ SameMaps s t ∧ (∀ c, t.core c = s.core c) ∧ nonce.length = 32 ∧
    t.out = s.out ++ [.spdm code (pre ++ nonce ++ sig)] ∧ t.door = { s.door with drbg := t.door.drbg } ∧
    (∀ d, s.door.drbg = some d → nonce = d.bytes 32 ∧ t.door.drbg = some d.next) ∧
    (sign = false → sig = []) ∧ (sign = true → ∃ digest : List Byte, digest.length = 32 ∧ sig = rsaSign s.door.key digest)

/-- The measurement fields before the nonce (R392, R393): the number of blocks for index 0, every block for 0xFF, or the one block. -/
def measPre (s : State) (i : Nat) : Option (List Byte) :=
  if i = 0 then some (leBytes 1 (measIndices s).length ++ [0, 0, 0, 0])
  else if i = 0xFF then
    some ([0] ++ leBytes 1 (measIndices s).length ++ leBytes 3 ((measIndices s).flatMap (measBlock s)).length ++
      (measIndices s).flatMap (measBlock s))
  else if (measurement s i).isSome then some ([0, 1] ++ leBytes 3 (measBlock s i).length ++ measBlock s i)
  else none

/-- The Stage Door has booted, holds no error, and runs no self-test (R383, R384). -/
def DoorAnswers (s : State) : Prop := s.awake = true ∧ s.fld Fld.SDR_STATUS_STATE = 1 ∧ s.door.testing = false

/-- The commit whose image has been read, and no self-test that defers it (R383, R387). -/
def CommitAtEnd (s : State) (c : Commit) : Prop := s.door.commit = some c ∧ c.read = true ∧ s.door.testing = false ∧ s.awake = true

/-- Every register but those of the Stage Door named is as it was. -/
def DoorRegsOnly (rs : List Nat) (s t : State) : Prop := ∀ a, a ∉ rs → t.reg a = s.reg a

end Sys2Proof.Safety

/-- The SPDM requests (R383, R384, R391 to R394): unanswered before the Stage Door has booted; the DOE Error bit and no response in the
error state; waiting while self-tests run; ERROR Unspecified after GET_VERSION in a RETIRED device, where certificates or a key to sign with
are missing; otherwise each request's own response, with a nonce, and a signature where one is asked for. -/
def Obligations.SpdmRequestsAreAnswered : Prop :=
  ∀ (i : Instr) (q : SpdmReq) (s : State), spdmRow i = some q →
    (s.awake = false ∨ s.fld Fld.SDR_STATUS_STATE = 0 → exec i s = .next s) ∧
    (s.awake = true → s.fld Fld.SDR_STATUS_STATE = 2 → exec i s = .next { s with door := { s.door with doeError := true } }) ∧
    (s.awake = true → s.fld Fld.SDR_STATUS_STATE = 1 → s.door.testing = true →
      exec i s = .next { s with door := { s.door with deferred := s.door.deferred ++ [.spdm q] } }) ∧
    (DoorAnswers s → q.kind = 0 → Responds i s 0x04 [1, 0x00, 0x12]) ∧
    (DoorAnswers s → q.kind ≠ 0 → s.fld Fld.SDR_STATUS_LIFECYCLE = 2 → Responds i s 0x7F [5]) ∧
    (DoorAnswers s → s.fld Fld.SDR_STATUS_LIFECYCLE ≠ 2 →
      (q.kind = 1 → Responds i s 0x61 [13, 0x16, 0, 0, 0]) ∧
      (q.kind = 2 → Responds i s 0x63 [1, 2, 0, 0, 0, 4, 0, 0, 0, 1, 0, 0, 0]) ∧
      (s.door.certs = none → 3 ≤ q.kind → q.kind ≤ 5 → Responds i s 0x7F [5]) ∧
      (s.door.certs ≠ none →
        (q.kind = 3 → Responds i s 0x01 (1 :: sha256 (certChain s))) ∧
        (q.kind = 4 ∨ q.kind = 5 → q.a ≠ 0 → Responds i s 0x7F [1]) ∧
        (q.kind = 4 → q.a = 0 → (certChain s).length ≤ q.b → Responds i s 0x7F [1]) ∧
        (q.kind = 4 → q.a = 0 → q.b < (certChain s).length → ∃ part, part = ((certChain s).drop q.b).take q.c ∧
          Responds i s 0x02 (leBytes 2 part.length ++ leBytes 2 ((certChain s).length - q.b - part.length) ++ part)) ∧
        (q.kind = 5 → q.a = 0 → canSign s = true → RespondsFresh i s 0x03 (sha256 (certChain s)) true) ∧
        (q.kind = 5 → q.a = 0 → canSign s = false → Responds i s 0x7F [5])) ∧
      (q.kind = 6 → q.b = 1 → canSign s = false → Responds i s 0x7F [5]) ∧
      (q.kind = 6 → (q.b = 0 ∨ canSign s = true) → measPre s q.a = none → Responds i s 0x7F [1]) ∧
      (∀ pre, q.kind = 6 → (q.b = 0 ∨ canSign s = true) → measPre s q.a = some pre → RespondsFresh i s 0x60 pre (decide (q.b = 1))))

/-- ENTROPY_SAMPLE, SELFTEST_DONE, TAMPER, ZEROISATION_DONE and FW_COMMIT_DONE (R383, R384, R387, R395): a failed test enters the error
state with its cause, and what the tests deferred is then answered as the state allows; a break in the mesh starts zeroisation, which ends
RETIRED with the key overwritten and every scope open; a commit of a good image writes the inactive copy and makes it active if it reads
back, and any other keeps both copies in force. Without a test, a zeroisation or a commit to end, and in a device that does not run, nothing
happens. -/
def Obligations.StageDoorEventsEnd : Prop :=
  ∀ s : State, Canonical s →
    (∀ pass, (s.awake = false ∨ s.fld Fld.SDR_STATUS_STATE ≠ 1) → exec (.entropySample pass) s = .next s) ∧
    (∀ pass, s.awake = true → s.fld Fld.SDR_STATUS_STATE = 1 → ∃ t, exec (.entropySample pass) s = .next t ∧ SameStores s t ∧
      DoorRegsOnly [Reg.SDR_STATUS, Reg.SDR_TEST] s t ∧ t.door = s.door ∧
      t.fld Fld.SDR_STATUS_STATE = (if pass then 1 else 2) ∧ (pass = false → t.fld Fld.SDR_STATUS_CAUSE = 3) ∧
      (t.fld Fld.SDR_TEST_PASS).testBit 6 = pass ∧ (t.fld Fld.SDR_TEST_FAIL).testBit 6 = !pass) ∧
    (∀ fails, (s.door.testing = false ∨ s.awake = false) → exec (.selftestDone fails) s = .next s) ∧
    (∀ fails, s.door.testing = true → s.awake = true → s.fld Fld.SDR_STATUS_STATE = 1 →
      ∃ t, exec (.selftestDone fails) s = .next t ∧ SameStores s t ∧ t.door.testing = false ∧ t.door.deferred = [] ∧
        t.fld Fld.SDR_TEST_FAIL % 128 = fails.toNat % 128 ∧ t.fld Fld.SDR_TEST_PASS % 128 = 127 - fails.toNat % 128 ∧
        (fails.toNat % 128 = 0 →
          ((∀ n d, (DoorReq.keygen n d) ∉ s.door.deferred) → t.fld Fld.SDR_STATUS_STATE = 1) ∧
          (s.door.svnWaits = true → t.fld Fld.SDR_FW_FUSED_SVN =
            max (s.fld Fld.SDR_FW_FUSED_SVN) (min (s.fld Fld.SDR_FW_SM_SVN) (s.fld Fld.SDR_FW_MC_SVN)) % 2 ^ Fld.SDR_FW_FUSED_SVN.w) ∧
          (∀ c, s.door.commit = some c → ∃ d, t.door.commit = some d ∧ d.read = true)) ∧
        (fails.toNat % 128 ≠ 0 → t.fld Fld.SDR_STATUS_STATE = 2 ∧ t.fld Fld.SDR_STATUS_CAUSE = 1 ∧
          t.fld Fld.SDR_FW_FUSED_SVN = s.fld Fld.SDR_FW_FUSED_SVN ∧
          (∀ q, DoorReq.spdm q ∈ s.door.deferred → t.door.doeError = true) ∧
          (∀ c, s.door.commit = some c → c.read = false → t.door.commit = none))) ∧
    ((s.awake = false ∨ s.door.zeroing ≠ none) → exec .tamper s = .next s) ∧
    (s.awake = true → s.door.zeroing = none → ∃ t, exec .tamper s = .next t ∧ SameStores s t ∧
      DoorRegsOnly [Reg.SDR_NONCE_LO, Reg.SDR_NONCE_HI] s t ∧ t.door = { s.door with zeroStarted := true, zeroing := some true, drbg := none } ∧
      t.fld Fld.SDR_NONCE_LO_NONCE = 0 ∧ t.fld Fld.SDR_NONCE_HI_NONCE = 0) ∧
    ((s.awake = false ∨ s.door.zeroing = none) → exec .zeroisationDone s = .next s) ∧
    (∀ mesh, s.awake = true → s.door.zeroing = some mesh → ∃ t, exec .zeroisationDone s = .next t ∧ SameStores s t ∧
      t.door.zeroing = none ∧ t.door.keyArea = 2 ∧ t.door.key = (List.replicate 384 0xFF, List.replicate 384 0xFF) ∧
      t.door.scopeNext = none ∧ t.fld Fld.SDR_STATUS_LIFECYCLE = 2 ∧ t.fld Fld.SDR_STATUS_ZEROISED = 1 ∧
      t.fld Fld.SDR_STATUS_IDKEY = 0 ∧ t.fld Fld.SDR_DEBUG_SCOPE = 7 ∧
      t.fld Fld.SDR_STATUS_TAMPER = (if mesh then 1 else s.fld Fld.SDR_STATUS_TAMPER)) ∧
    (∀ readback, (s.door.commit = none ∨ (∃ c, s.door.commit = some c ∧ c.read = false) ∨ s.door.testing = true ∨ s.awake = false) →
      exec (.fwCommitDone readback) s = .next s) ∧
    (∀ c readback, CommitAtEnd s c → ∃ t, exec (.fwCommitDone readback) s = .next t ∧ SameStores s t ∧
      DoorRegsOnly [Reg.SDR_FW] s t ∧ t.door.commit = none ∧ t.fld Fld.SDR_FW_COMMIT_BUSY = 0 ∧
      (c.result ≠ 1 → c.result < 8 → t.fld Fld.SDR_FW_COMMIT_RESULT = c.result ∧ t.fld Fld.SDR_FW_ACTIVE = s.fld Fld.SDR_FW_ACTIVE ∧
        t.door.flashSm = s.door.flashSm ∧ t.door.flashMc = s.door.flashMc) ∧
      (c.result = 1 → s.fld Fld.CFG_STRAP_FLASH_WP = 1 → t.fld Fld.SDR_FW_COMMIT_RESULT = 6 ∧
        t.fld Fld.SDR_FW_ACTIVE = s.fld Fld.SDR_FW_ACTIVE ∧ t.door.flashSm = s.door.flashSm ∧ t.door.flashMc = s.door.flashMc) ∧
      (c.result = 1 → s.fld Fld.CFG_STRAP_FLASH_WP = 0 → ∃ img : FlashCopy, img.length = c.copy.length ∧ (readback = true → img = c.copy) ∧
        t.fld Fld.SDR_FW_COMMIT_RESULT = (if readback then 1 else 6) ∧
        (c.mc = false → t.door.flashMc = s.door.flashMc ∧
          t.door.flashSm = (if (s.fld Fld.SDR_FW_ACTIVE).testBit 0 then (img, s.door.flashSm.2) else (s.door.flashSm.1, img))) ∧
        (c.mc = true → t.door.flashSm = s.door.flashSm ∧
          t.door.flashMc = (if (s.fld Fld.SDR_FW_ACTIVE).testBit 1 then (img, s.door.flashMc.2) else (s.door.flashMc.1, img))) ∧
        (t.fld Fld.SDR_FW_ACTIVE).testBit 0 = xor (s.fld Fld.SDR_FW_ACTIVE |>.testBit 0) (readback && !c.mc) ∧
        (t.fld Fld.SDR_FW_ACTIVE).testBit 1 = xor (s.fld Fld.SDR_FW_ACTIVE |>.testBit 1) (readback && c.mc)))

/-- IDENTITY_KEY_GENERATION, CERTIFICATE_WRITE, DEPLOY, JTAG_DEBUG and TRST (R383, R389, R390, R394, R421): on the open manufacture port a
key is generated once, kept if its pairwise test passes, and its public key leaves; the certificates are written once, and a device with
certificates becomes DEPLOYED with no scope open. While self-tests run these wait; where the port is closed nothing happens. The test access
port of a supplied device answers IDCODE, the scan and SDR_STATUS, and halts, resumes and steps a pair under the SMG scope. -/
def Obligations.ManufacturePortAndJtagAct : Prop :=
  ∀ s : State, Canonical s →
    (∀ i q, ((∃ n d, i = .identityKeyGeneration (n, d) ∧ q = DoorReq.keygen n d) ∨ (∃ d ca, i = .certificateWrite d ca ∧ q = DoorReq.certs d ca) ∨
        i = .deploy ∧ q = DoorReq.deploy) →
      (mfgPort s = false → exec i s = .next s) ∧
      (mfgPort s = true → s.door.testing = true → exec i s = .next { s with door := { s.door with deferred := s.door.deferred ++ [q] } })) ∧
    (mfgPort s = true → s.door.testing = false →
      (∀ n d, s.door.keyArea = 0 → ∃ t, exec (.identityKeyGeneration (n, d)) s = .next t ∧ SameStores s t ∧
        DoorRegsOnly [Reg.SDR_STATUS, Reg.SDR_TEST] s t ∧
        (keyConsistent (n, d) = true → t.door = { s.door with keyArea := 1, key := (n, d) } ∧ t.fld Fld.SDR_STATUS_IDKEY = 1 ∧
          t.fld Fld.SDR_STATUS_STATE = 1 ∧ t.out = s.out ++ [.jtag 3 (beNat n)]) ∧
        (keyConsistent (n, d) = false → t.door = s.door ∧ t.fld Fld.SDR_STATUS_STATE = 2 ∧ t.fld Fld.SDR_STATUS_CAUSE = 1)) ∧
      (∀ n d, s.door.keyArea ≠ 0 → exec (.identityKeyGeneration (n, d)) s = .next s) ∧
      (∀ d ca, s.door.certs = none → d.length + ca.length ≤ 4096 →
        exec (.certificateWrite d ca) s = .next { s with door := { s.door with certs := some (d, ca) } }) ∧
      (∀ d ca, (s.door.certs ≠ none ∨ 4096 < d.length + ca.length) → exec (.certificateWrite d ca) s = .next s) ∧
      (s.door.certs = none → exec .deploy s = .next s) ∧
      (s.door.certs ≠ none → ∃ t, exec .deploy s = .next t ∧ SameStores s t ∧ DoorRegsOnly [Reg.SDR_STATUS, Reg.SDR_DEBUG] s t ∧
        t.door = s.door ∧ t.fld Fld.SDR_STATUS_LIFECYCLE = 1 ∧ t.fld Fld.SDR_DEBUG_SCOPE = 0)) ∧
    (∀ op, s.pwr.supplied = false → exec (.jtagDebug op) s = .next s) ∧
    (s.pwr.supplied = true →
      exec (.jtagDebug .idcode) s = .next { s with tap := { s.tap with active := true }, out := s.out ++ [.jtag 0 Config.idcode.toNat] } ∧
      (∀ bits, exec (.jtagDebug (.scan bits)) s =
        .next { s with tap := { s.tap with active := true, scan := bits }, out := s.out ++ [.jtag 1 (lands s)] }) ∧
      (s.awake = true → exec (.jtagDebug .status) s =
        .next { s with tap := { s.tap with active := true }, out := s.out ++ [.jtag 2 (readReg s Reg.SDR_STATUS).toNat] }) ∧
      (∀ pair, smgScope s = true →
        (pair ∉ s.tap.halted → exec (.jtagDebug (.halt pair)) s = .next { s with tap := { s.tap with active := true, halted := pair :: s.tap.halted } }) ∧
        exec (.jtagDebug (.resume pair)) s =
          .next { s with tap := { s.tap with active := true, halted := s.tap.halted.filter fun h => h != pair } } ∧
        (pair ∈ s.tap.halted → exec (.jtagDebug (.single pair)) s = .next { s with tap := { s.tap with active := true, steps := s.tap.steps + 1 } })) ∧
      (∀ pair op, smgScope s = false → (op = .halt pair ∨ op = .resume pair ∨ op = .single pair) →
        exec (.jtagDebug op) s = .next { s with tap := { s.tap with active := true } })) ∧
    exec .trst s = .next { s with tap := { s.tap with active := false, scan := 0 } }

/-! ### Supplies and start-up -/

namespace Sys2Proof.Safety

open Sys2Proof.Machine

/-- The device as a reset leaves it (R397): the stores are empty, what fuses hold, the flash, the keys and the certificates are kept, and
every other register but those of `but` has its reset value. -/
def Cold (but : List Nat) (s t : State) : Prop :=
  t.mem = [] ∧ t.ecc = [] ∧ t.cores = [] ∧ t.win = [] ∧ t.pendT = [] ∧ t.pendQ = [] ∧ t.cmdEff = [] ∧ t.seedSet = false ∧
    t.pwr.released = false ∧ t.tim = State.reset.tim ∧ t.host = State.reset.host ∧ t.eng = State.reset.eng ∧
    t.door.flashSm = s.door.flashSm ∧ t.door.flashMc = s.door.flashMc ∧ t.door.certs = s.door.certs ∧ t.door.keyArea = s.door.keyArea ∧
    t.door.key = s.door.key ∧ t.door.fwKeys = s.door.fwKeys ∧ t.door.tokenKeys = s.door.tokenKeys ∧ t.door.zeroStarted = s.door.zeroStarted ∧
    t.door.token = none ∧ t.door.drbg = none ∧ (∀ f ∈ fusedFields, t.fld f = s.fld f) ∧ t.reg Reg.RHS_SEED = s.rhs.seed0 ∧
    ∀ a, (∀ f ∈ fusedFields, f.reg ≠ a) → a ≠ Reg.RHS_SEED → a ∉ but → t.reg a = regReset a

/-- A device that leaves reset (R396, R398, R422): cold, the straps sampled, every scope open outside DEPLOYED, the fault pair low. -/
def LeavesReset (s t : State) (mfg wp spare : Bool) : Prop :=
  Cold [Reg.CFG_STRAP, Reg.SDR_DEBUG] s t ∧ t.pwr.supplied = true ∧ t.pwr.perst = false ∧ t.fld Fld.CFG_STRAP_MFG = b2n mfg ∧
    t.fld Fld.CFG_STRAP_FLASH_WP = b2n wp ∧ t.fld Fld.CFG_STRAP_SPARE = b2n spare ∧
    t.fld Fld.SDR_DEBUG_SCOPE = (if s.fld Fld.SDR_STATUS_LIFECYCLE = 1 then 0 else 7) ∧ t.out = s.out ++ [.pin 0 0]

end Sys2Proof.Safety

/-- PERST_ASSERT, AUX_UNDERVOLTAGE, PERST_DEASSERT, POWER_LOSS and POWER_UP (R397, R414 to R416): each leaves the device cold, with only the fuses
and the flash as they were; it is held in reset, or off, or begins start-up with its straps sampled. -/
def Obligations.SuppliesAndPerstResetTheDevice : Prop :=
  ∀ s : State, Canonical s →
    (∀ i, (i = .perstAssert ∨ i = .auxUndervoltage) →
      (s.pwr.supplied = true → ∃ t, exec i s = .next t ∧ Cold [] s t ∧ t.pwr.perst = true ∧ t.awake = false ∧ t.out = s.out ++ [.pin 0 0]) ∧
      (s.pwr.supplied = false → exec i s = .next s)) ∧
    (∃ t, exec .powerLoss s = .next t ∧ Cold [] s t ∧ t.pwr.supplied = false ∧ t.awake = false ∧ t.out = s.out ++ [.pin 0 0]) ∧
    (∀ mfg wp spare,
      (s.pwr.supplied = true → s.pwr.perst = true → ∃ t, exec (.perstDeassert mfg wp spare) s = .next t ∧ LeavesReset s t mfg wp spare) ∧
      (s.pwr.supplied = false ∨ s.pwr.perst = false → exec (.perstDeassert mfg wp spare) s = .next s) ∧
      (s.pwr.supplied = false → ∃ t, exec (.powerUp mfg wp spare) s = .next t ∧ LeavesReset s t mfg wp spare) ∧
      (s.pwr.supplied = true → exec (.powerUp mfg wp spare) s = .next s))

namespace Sys2Proof.Safety

open Sys2Proof.Machine

/-- The copies of the Stage Manager's firmware and of the microcode that boot (R382). -/
def bootPair (s : State) : Option (FlashCopy × FlashCopy) :=
  match bootCopy s 1 ((s.fld Fld.SDR_FW_ACTIVE).testBit 0) s.door.flashSm, bootCopy s 2 ((s.fld Fld.SDR_FW_ACTIVE).testBit 1) s.door.flashMc with
  | some sm, some mc => some (sm, mc)
  | _, _ => none

/-- STAGE_DOOR_BOOT_DONE (R22, R382, R384, R395, R398, R401, R425): a failed test or the want of a valid image leaves the error state and no release; an
interrupted zeroisation is finished first. The images that boot are loaded and reported, and an assembly that differs stops start-up with its cause and
unit; otherwise, with every sensor at least 10 °C (160 sixteenths) below its trip value (no reading lies 159 sixteenths below it or higher), the
rails ramp, and a warmer one holds the ramp and trips the device. -/
def BootRow : Prop :=
  ∀ (fails : BitVec 8) (answers : BitVec 16) (s : State), Canonical s →
    ((s.awake = false ∨ s.pwr.released = true ∨ s.fld Fld.SDR_STATUS_STATE ≠ 0) → exec (.stageDoorBootDone fails answers) s = .next s) ∧
    (s.awake = true → s.pwr.released = false → s.fld Fld.SDR_STATUS_STATE = 0 →
      (fails.toNat % 128 ≠ 0 → ∃ t, exec (.stageDoorBootDone fails answers) s = .next t ∧ SameStores s t ∧ t.pwr.released = false ∧
        t.fld Fld.SDR_STATUS_STATE = 2 ∧ t.fld Fld.SDR_STATUS_CAUSE = 1 ∧ t.fld Fld.SDR_TEST_FAIL % 128 = fails.toNat % 128) ∧
      (fails.toNat % 128 = 0 → s.door.zeroStarted = true → s.fld Fld.SDR_STATUS_LIFECYCLE ≠ 2 →
        ∃ t, exec (.stageDoorBootDone fails answers) s = .next t ∧ t.door.keyArea = 2 ∧ t.fld Fld.SDR_STATUS_LIFECYCLE = 2 ∧
          t.fld Fld.SDR_STATUS_ZEROISED = 1 ∧ t.fld Fld.SDR_STATUS_IDKEY = 0 ∧ t.fld Fld.SDR_DEBUG_SCOPE = 7 ∧
          (s.door.zeroing = some true → t.fld Fld.SDR_STATUS_TAMPER = 1)) ∧
      (fails.toNat % 128 = 0 → bootPair s = none → ∃ t, exec (.stageDoorBootDone fails answers) s = .next t ∧ SameStores s t ∧
        t.pwr.released = false ∧ t.fld Fld.SDR_STATUS_STATE = 2 ∧ t.fld Fld.SDR_STATUS_CAUSE = 2) ∧
      (∀ sm mc, fails.toNat % 128 = 0 → bootPair s = some (sm, mc) →
        ∃ t, exec (.stageDoorBootDone fails answers) s = .next t ∧ (∀ a, t.byte a = s.byte a) ∧ t.pwr.released = true ∧
          t.fld Fld.SDR_STATUS_STATE = 1 ∧ t.fld Fld.SDR_TEST_FAIL % 128 = 0 ∧ t.door.drbg ≠ none ∧
          t.fld Fld.SDR_FW_SM_SVN = leAt sm 12 4 % 64 ∧ t.fld Fld.SDR_FW_MC_SVN = leAt mc 12 4 % 64 ∧
          t.fld Fld.SMG_STATUS_FW_VERSION = leAt sm 20 2 % 2 ^ Fld.SMG_STATUS_FW_VERSION.w ∧
          t.door.tcm = imageBody sm ∧ t.door.microcode = imageBody mc ∧ t.door.smDigest = sha256 (sm.take (imageLen sm)) ∧
          t.door.mcDigest = sha256 (mc.take (imageLen mc)) ∧
          (∀ cause unit, assemblyFault s answers.toNat = some (cause, unit) → (∀ c, t.core c = s.core c) ∧ t.fld Fld.SMG_BOOT_STAGE = 5 ∧
            t.fld Fld.SMG_BOOT_CAUSE = cause ∧ t.fld Fld.SMG_BOOT_UNIT = unit ∧ t.fld Fld.PWR_STATE_PS = 7 ∧ t.fld Fld.FLT_STATUS_PIN = 1 ∧
            t.pwr.ramping = s.pwr.ramping) ∧
          (assemblyFault s answers.toNat = none → tripOf s s.pwr.readings 159 = none → (∀ c, t.core c = s.core c) ∧ t.pwr.ramping = true ∧
            t.fld Fld.SMG_BOOT_STAGE = 2 ∧ t.fld Fld.FLT_STATUS_PIN = 0) ∧
          (∀ cause rail, assemblyFault s answers.toNat = none → tripOf s s.pwr.readings 159 = some (cause, rail) →
            s.fld Fld.PWR_STATE_FAULT_STOP = 0 → t.fld Fld.PWR_THERM_RAMP_HELD = 1 ∧ t.fld Fld.PWR_STATE_FAULT_STOP = 1 ∧
              t.fld Fld.PWR_TRIP_INFO_CAUSE = cause ∧ t.fld Fld.PWR_TRIP_INFO_RAIL = rail ∧ t.pwr.ramping = false)))

/-- RAIL_RAMP_DONE and MEMORY_CLEAR_DONE (R240, R398, R401): the rails of the fitted units regulate, each K-link stands at rest or at DETECT, and the
memories are cleared; then the device stands in PS2, where its first idle tick is due, suspect if a stack failed to clear. -/
def RampAndClearRows : Prop :=
  ∀ s : State, Canonical s →
    ((s.awake = false ∨ s.pwr.ramping = false) → exec .railRampDone s = .next s) ∧
    (s.awake = true → s.pwr.ramping = true → ∃ t, exec .railRampDone s = .next t ∧ SameStores s t ∧ t.pwr.ramping = false ∧
      t.pwr.clearing = true ∧ t.fld Fld.SMG_BOOT_STAGE = 3 ∧ t.fld Fld.PWR_THERM_RAMP_HELD = 0 ∧
      (∀ i, railExists s i = true → i < 113 → t.fld (Fld.PWR_RAIL_ON i) = 1) ∧
      ∀ k : LinkId, t.fld (Fld.KL_STATUS_STATE k.val) = restState s k.val) ∧
    (∀ failed : BitVec 12, (s.awake = false ∨ s.pwr.clearing = false) → exec (.memoryClearDone failed) s = .next s) ∧
    (∀ failed : BitVec 12, s.awake = true → s.pwr.clearing = true → ∃ t, exec (.memoryClearDone failed) s = .next t ∧ t.mem = [] ∧
      t.ecc = [] ∧ (∀ c, t.core c = s.core c) ∧ t.pwr.clearing = false ∧ t.fld Fld.SMG_BOOT_STAGE = 4 ∧ t.fld Fld.PWR_STATE_PS = 2 ∧
      t.tim.idleDue = s.tim.now ∧ t.fld Fld.SMG_BOOT_STACK_INIT = failed.toNat % 2 ^ s.nStacks % 2 ^ Fld.SMG_BOOT_STACK_INIT.w ∧
      (failed.toNat % 2 ^ s.nStacks = 0 → t.fld Fld.FLT_STATUS_SUSPECT = s.fld Fld.FLT_STATUS_SUSPECT) ∧
      (failed.toNat % 2 ^ s.nStacks ≠ 0 → t.fld Fld.FLT_STATUS_SUSPECT = 1 ∧ t.fld Fld.FLT_STATUS_SEVERE = 1))

end Sys2Proof.Safety

/-- STAGE_DOOR_BOOT_DONE, RAIL_RAMP_DONE and MEMORY_CLEAR_DONE (R22, R382, R384, R398, R401): start-up reaches PS2 or stops with its cause, as the
statement of each says. -/
def Obligations.StartUpReachesPs2 : Prop := BootRow ∧ RampAndClearRows

/-! ### Trips and severe events -/

namespace Sys2Proof.Safety

open Sys2Proof.Machine

/-- The rows that trip the device, with the cause and the rail that PWR_TRIP_INFO names, where their condition holds (R313, R320, R424). -/
def tripRow (s : State) : Instr → Option (Nat × Nat)
  | .vinOvercurrent => some (1, 0x7F)
  | .railFault rail => if railExists s rail.toNat then some (2, rail.toNat) else none
  | .sensorRead r => tripOf s r 0
  | .lockstep _ => if s.pwr.released then some (5, 0x7F) else none
  | .tcmUncorr => if s.pwr.released then some (6, 0x7F) else none
  | _ => none

/-- A row of a trip whose condition does not hold: a rail of no fitted site, or a pair of a Stage Manager that does not run. -/
def noTrip (s : State) (i : Instr) : Prop :=
  (∃ rail, i = .railFault rail ∧ railExists s rail.toNat = false) ∨
    (((∃ pair, i = .lockstep pair) ∨ i = .tcmUncorr) ∧ s.pwr.released = false)

end Sys2Proof.Safety

/-- VIN_OVERCURRENT, RAIL_FAULT, SENSOR_READ, LOCKSTEP and TCM_UNCORR (R239, R313, R320, R321, R333, R424): a trip enters FAULT_STOP with
its cause and rail and the time; every core stops and its rail is off, no K-link carries anything, no cues run and no long command, the pair
is at its fault level and the event is severe, a suspect mark following for the causes of the Stage Manager's own pairs. A device in
FAULT_STOP, or without power, or a rail or pair that is not there, does not trip; a reading is shown, and a lost pair reported, in
FAULT_STOP too. -/
def Obligations.TripsEnterFaultStop : Prop :=
  ∀ (i : Instr) (s : State), Canonical s →
    (∀ cause rail, tripRow s i = some (cause, rail) → s.awake = true → s.fld Fld.PWR_STATE_FAULT_STOP = 0 →
      ∃ t, exec i s = .next t ∧ (∀ a, t.byte a = s.byte a) ∧ (∀ c, t.core c = { s.core c with stopped := true }) ∧
        (∀ c : CoreId, t.fld (Fld.PWR_RAIL_ON c.val) = 0) ∧ (∀ k : LinkId, t.fld (Fld.KL_STATUS_STATE k.val) = 0) ∧
        t.fld Fld.PWR_STATE_FAULT_STOP = 1 ∧ t.fld Fld.PWR_TRIP_INFO_CAUSE = cause ∧ t.fld Fld.PWR_TRIP_INFO_RAIL = rail ∧
        t.fld Fld.PWR_TRIP_TIME_TIME = s.ns % 2 ^ 64 ∧ t.tim.cuesRun = false ∧ t.tim.sceneOn = false ∧ t.host.long = none ∧
        t.eng.reqs = [] ∧ t.eng.wait = [] ∧ t.pwr.step = none ∧ t.rhs.running = [] ∧ t.fld Fld.FLT_STATUS_PIN = 1 ∧
        t.fld Fld.FLT_STATUS_SEVERE = 1 ∧ (5 ≤ cause → t.fld Fld.FLT_STATUS_SUSPECT = 1) ∧
        (∀ pair, i = .lockstep pair → t.fld (if pair then Fld.SMG_STATUS_PAIR1_OK else Fld.SMG_STATUS_PAIR0_OK) = 0)) ∧
    (noTrip s i → exec i s = .next s) ∧
    ((∃ x, tripRow s i = some x) → s.awake = false → exec i s = .next s) ∧
    (s.fld Fld.PWR_STATE_FAULT_STOP = 1 →
      ((i = .vinOvercurrent ∨ (∃ rail, i = .railFault rail) ∨ i = .tcmUncorr) → exec i s = .next s) ∧
      (∀ pair, i = .lockstep pair → s.awake = true → s.pwr.released = true →
        exec i s = .next (s.setFld (if pair then Fld.SMG_STATUS_PAIR1_OK else Fld.SMG_STATUS_PAIR0_OK) 0))) ∧
    (∀ r, i = .sensorRead r → s.awake = false → exec i s = .next s) ∧
    (∀ r, i = .sensorRead r → s.awake = true → (tripOf s r 0 = none ∨ s.fld Fld.PWR_STATE_FAULT_STOP = 1) →
      ∃ t, exec i s = .next t ∧ SameStores s t ∧ t.pwr = { s.pwr with readings := r } ∧
        t.fld Fld.PWR_STATE_FAULT_STOP = s.fld Fld.PWR_STATE_FAULT_STOP ∧ t.fld Fld.PWR_THERM_COLDPLATE = r.coldplate.toNat ∧
        (0 ≤ wholeMargin s r → t.fld Fld.PWR_THERM_MARGIN = min 127 (wholeMargin s r).toNat) ∧
        t.fld Fld.PWR_THERM_MIN_IX = (marginOf s r).2 ∧
        ∀ n, railExists s n = true → n < 113 → t.fld (Fld.PWR_RAIL_TEMP n) = (r.temps.getD n 0).toNat)

/-- SEVERE (R306, R333, R336, R348): the oldest severe event sets SEVERE, posts SEVERE_EVENT with its source, drives the pair where its
source says so and, unless it was injected, marks the device suspect where its source says so: once, with its source, unit, index and scene,
one more in the fuse count, and an overrun at the next cue. -/
def Obligations.SevereEventsAct : Prop :=
  ∀ s : State, Canonical s →
    (s.flt.severe = [] → exec .severe s = .next s) ∧
    (∀ d ds, s.flt.severe = d :: ds → ∃ t, exec .severe s = .next t ∧ SameStores s t ∧ t.flt.severe = ds ∧ t.fld Fld.FLT_STATUS_SEVERE = 1 ∧
      (0 < cplFree s → s.host.notices = [] → Posted s t 0 5 0 true (s.fld Fld.SCN_COUNT_SCENE) 0 d.src) ∧
      (s.fld (Fld.FLT_SRC_CFG_PIN d.src) = 1 → t.fld Fld.FLT_STATUS_PIN = 1) ∧
      ((d.injected = true ∨ s.fld (Fld.FLT_SRC_CFG_SUSPECT d.src) = 0) → t.fld Fld.FLT_STATUS_SUSPECT = s.fld Fld.FLT_STATUS_SUSPECT ∧
        t.fld Fld.FLT_FUSE_COUNT = s.fld Fld.FLT_FUSE_COUNT ∧ t.tim = s.tim) ∧
      (d.injected = false → s.fld (Fld.FLT_SRC_CFG_SUSPECT d.src) = 1 → t.fld Fld.FLT_STATUS_SUSPECT = 1 ∧
        (s.fld Fld.FLT_STATUS_SUSPECT = 1 → t.fld Fld.FLT_FUSE_COUNT = s.fld Fld.FLT_FUSE_COUNT ∧ t.tim = s.tim) ∧
        (s.fld Fld.FLT_STATUS_SUSPECT = 0 → Counted Fld.FLT_FUSE_COUNT s t ∧ t.fld Fld.FLT_STATUS_PIN = 1 ∧
          t.fld Fld.FLT_SUSPECT_INFO_SOURCE = d.src % 64 ∧ t.fld Fld.FLT_SUSPECT_INFO_UNIT = d.unit % 8 ∧
          t.fld Fld.FLT_SUSPECT_INFO_INDEX = d.index % 256 ∧ t.fld Fld.FLT_SUSPECT_SCENE_SCENE = s.fld Fld.SCN_COUNT_SCENE ∧
          t.tim.overrunDue ≠ none)))

/-! ### Rehearsal -/

namespace Sys2Proof.Safety

open Sys2Proof.Machine

/-- REHEARSAL_DUE (R342, R344): a round begins when it is due in PS0 to PS2: a core that had passed is due again, and one that had not
defers, up to 16, where it is forced. Before that, and while JTAG halts the health pair, nothing happens. -/
def RehearsalDueRow : Prop :=
  ∀ s : State, Canonical s →
    ((s.rhs.d0 = false ∨ s.healthHalted = true ∨ s.fld Fld.SCN_COUNT_SCENE < s.fld Fld.RHS_DUE_SCENE + s.fld Fld.RHS_CTRL_INTERVAL ∨
        2 < s.fld Fld.PWR_STATE_PS) → exec .rehearsalDue s = .next s) ∧
    (s.rhs.d0 = true → s.healthHalted = false → s.fld Fld.RHS_DUE_SCENE + s.fld Fld.RHS_CTRL_INTERVAL ≤ s.fld Fld.SCN_COUNT_SCENE →
      s.fld Fld.PWR_STATE_PS ≤ 2 →
      ∃ t, exec .rehearsalDue s = .next t ∧ SameStores s t ∧ t.fld Fld.RHS_ROUND_ROUND = (s.fld Fld.RHS_ROUND_ROUND + 1) % 2 ^ 32 ∧
        t.fld Fld.RHS_DUE_SCENE = s.fld Fld.RHS_DUE_SCENE + s.fld Fld.RHS_CTRL_INTERVAL ∧ t.rhs.ran = [] ∧ t.rhs.running = s.rhs.running ∧
        ∀ c : CoreId, t.fld (Fld.RHS_CORE_DONE c.val) = 0 ∧ t.fld (Fld.RHS_CORE_ADMITTED c.val) = s.fld (Fld.RHS_CORE_ADMITTED c.val) ∧
          t.fld (Fld.RHS_CORE_DEFER c.val) =
            (if s.fld (Fld.RHS_CORE_DONE c.val) = 1 then s.fld (Fld.RHS_CORE_DEFER c.val) else min 16 (s.fld (Fld.RHS_CORE_DEFER c.val) + 1)) ∧
          (s.fld (Fld.RHS_CORE_DONE c.val) = 0 → 15 ≤ s.fld (Fld.RHS_CORE_DEFER c.val) →
            (c.val, s.fld Fld.SCN_COUNT_SCENE) ∈ t.rhs.forced))

/-- REHEARSAL_START and FORCED_REHEARSAL (R341, R342, R344, R407): the pair of a core starts at an opportunity if it is due and free, and
runs 57,600 cycles; a forced core's pair runs before the scene's first bundle, which both cores hold until cycle 57,600. Where any of these
fails nothing happens. -/
def RehearsalStartRows : Prop :=
  ∀ (s : State) (c : CoreId) a b, Canonical s → pairOf s c.val = (a, b) →
    ((pairDue s a b = false ∨ pairFree s a b = false ∨ opportunity s a b = false) → exec (.rehearsalStart c) s = .next s) ∧
    (pairDue s a b = true → pairFree s a b = true → opportunity s a b = true → ∃ t r, exec (.rehearsalStart c) s = .next t ∧
      SameStores s t ∧ t.rhs.running = s.rhs.running ++ [r] ∧ r.a = a ∧ r.b = b ∧ r.due = s.tim.now + rhsLength s ∧ r.forced = false ∧
      r.round = s.fld Fld.RHS_ROUND_ROUND ∧ a ∈ t.rhs.ran) ∧
    (((∀ n, (c.val, n) ∈ s.rhs.forced → s.fld Fld.SCN_COUNT_SCENE ≤ n) ∨ s.tim.sceneOn = false ∨ pairFree s a b = false ∨
        s.cycleAt 0 < s.tim.now) → exec (.forcedRehearsal c) s = .next s) ∧
    (∀ n, (c.val, n) ∈ s.rhs.forced → n < s.fld Fld.SCN_COUNT_SCENE → s.tim.sceneOn = true → pairFree s a b = true →
      s.tim.now ≤ s.cycleAt 0 → ∃ t r, exec (.forcedRehearsal c) s = .next t ∧ (∀ x, t.byte x = s.byte x) ∧
        t.fld Fld.RHS_STATUS_FORCED = 1 ∧ t.rhs.running = s.rhs.running ++ [r] ∧ r.a = a ∧ r.b = b ∧ r.due = s.cycleAt 57600 ∧
        r.forced = true ∧ (∀ m, (c.val, m) ∉ t.rhs.forced) ∧
        ∀ d : CoreId, t.core d = if d.val = a ∨ d.val = b then { s.core d with holdUntil := max (s.core d).holdUntil 57600 }
          else s.core d)

/-- The lowest failing test of a run (R340, R341, R345): what its residues and an armed Trellis injection fail, and the tests whose digests differ. -/
def failingTest (s : State) (r : RhsRun) (found : RhsReport) : Nat :=
  lowestTest (residueFails found.residue ++ (if r.spoil then [1] else []) ++ rhsDiffers s r found.upsets r.inj)

/-- REHEARSAL_END (R341, R345, R402): a pass admits both cores as of now, a failure reports the pair and its lowest failing test and admits none; either decides
their admission. A core of no run, and a test that does not exist, end nothing. -/
def RehearsalEndRow : Prop :=
  ∀ (s : State) (c : CoreId) (found : RhsReport), Canonical s →
    (((s.rhs.running.find? fun r => decide (r.a = c.val ∨ r.b = c.val)) = none ∨ found.residue = 7) → exec (.rehearsalEnd c found) s = .next s) ∧
    (∀ r test, (s.rhs.running.find? fun r => decide (r.a = c.val ∨ r.b = c.val)) = some r → r.a < 96 → r.b < 96 → found.residue ≠ 7 →
      test = failingTest s r found →
      ∃ t, exec (.rehearsalEnd c found) s = .next t ∧ SameStores s t ∧ t.tim.now = max s.tim.now r.due ∧
        t.rhs.running = s.rhs.running.erase r ∧ r.a ∈ t.rhs.decided ∧ r.b ∈ t.rhs.decided ∧
        (admissionDone t = true → t.rhs.d0 = true ∧ (s.rhs.d0 = false → t.fld Fld.RHS_DUE_SCENE = s.fld Fld.SCN_COUNT_SCENE)) ∧
        (test = 0 → ∀ n, (n = r.a ∨ n = r.b) → t.fld (Fld.RHS_CORE_DONE n) = 1 ∧ t.fld (Fld.RHS_CORE_DEFER n) = 0 ∧
          t.fld (Fld.RHS_CORE_LAST_PASS n) = s.fld Fld.SCN_COUNT_SCENE % 2 ^ 56 ∧
          t.fld (Fld.RHS_CORE_STEP_STEP n) = s.fld Fld.SCN_STEP_STEP ∧
          (s.rhs.decided.contains n = false → t.fld (Fld.RHS_CORE_ADMITTED n) = 1)) ∧
        (test ≠ 0 → t.fld Fld.RHS_STATUS_FAIL = 1 ∧ t.fld Fld.RHS_FAIL_INFO_TEST = test ∧ t.fld Fld.RHS_FAIL_INFO_CORE_A = r.a ∧
          t.fld Fld.RHS_FAIL_INFO_CORE_B = r.b ∧ t.fld Fld.RHS_FAIL_SCENE_SCENE = s.fld Fld.SCN_COUNT_SCENE ∧
          ∀ n, n < 96 → t.fld (Fld.RHS_CORE_ADMITTED n) = s.fld (Fld.RHS_CORE_ADMITTED n)))

end Sys2Proof.Safety

/-- REHEARSAL_DUE, REHEARSAL_START, FORCED_REHEARSAL and REHEARSAL_END (R340 to R345): rounds fall due, runs start and end, as the statement of each says. -/
def Obligations.RehearsalsRunTheirCourse : Prop := RehearsalDueRow ∧ RehearsalStartRows ∧ RehearsalEndRow

/-! ### Watches, the scrub and twin mode -/

namespace Sys2Proof.Safety

open Sys2Proof.Machine

/-- An event record of code `code` waits for the streamer, with the tag and the counter of a Wilt Watch event (R210, R334). -/
def WiltLogged (s t : State) (code : Nat) (d : WiltDue) : Prop :=
  ∃ r : List Byte, r.length = 64 ∧ t.tel.events = s.tel.events ++ [r] ∧ leNat ((r.drop 24).take 2) = code ∧
    leNat ((r.drop 40).take 2) = d.tag % 2 ^ 16 ∧ leNat ((r.drop 42).take 3) = d.count % 2 ^ 24

/-- An event record that is raised now is not lost (R308, R309). -/
def EventsTaken (s : State) : Prop := (eventUnread s < 2 ^ 20 ∧ s.stacksRest = false) ∨ s.tel.events.length < 1024

/-- FROST_WATCH_WARM, WILT_ALARM and WILT_LONG (R210, R350, R351): after 4,096 updates LOW_CONF falls and one SECURE_NOW is posted; the oldest due
alarm is logged with its tag and counter, sets its bit and, for WILT_ALARM, is the cause of vector 2. With nothing due nothing happens. -/
def WatchRows : Prop :=
  ∀ s : State, Canonical s →
    (4096 ≤ s.frost.n → s.frost.warm = false → ∃ t, exec .frostWatchWarm s = .next t ∧ SameStores s t ∧
      t.frost = { s.frost with warm := true, last := some (s.fld Fld.SCN_COUNT_SCENE) } ∧ t.fld Fld.FRW_SCORE_LOW_CONF = 0 ∧
      (0 < cplFree s → s.host.notices = [] → Posted s t 0 1 0 true (s.fld Fld.SCN_COUNT_SCENE) 0 (s.fld Fld.FRW_SCORE_SCORE))) ∧
    (s.frost.n < 4096 ∨ s.frost.warm = true → exec .frostWatchWarm s = .next s) ∧
    (s.wiltAlarms = [] → exec .wiltAlarm s = .next s) ∧
    (∀ d ds, s.wiltAlarms = d :: ds → ∃ t, exec .wiltAlarm s = .next t ∧ SameStores s t ∧ t.wiltAlarms = ds ∧
      t.fld Fld.WLT_STATUS_ALARM = 1 ∧ (t.fld Fld.HST_INT_PEND).testBit 2 = true ∧ t.fld Fld.SCN_STEP_STEP = s.fld Fld.SCN_STEP_STEP ∧
      (EventsTaken s → WiltLogged s t 0x44 d)) ∧
    (s.wiltLongs = [] → exec .wiltLong s = .next s) ∧
    (∀ d ds, s.wiltLongs = d :: ds → ∃ t, exec .wiltLong s = .next t ∧ SameStores s t ∧ t.wiltLongs = ds ∧
      t.fld Fld.WLT_STATUS_LONG = 1 ∧ t.fld Fld.SCN_STEP_STEP = s.fld Fld.SCN_STEP_STEP ∧ (EventsTaken s → WiltLogged s t 0x45 d))

/-- Code word `w` lies in the lines that the scrub reads in its next turn of stack `k` (R233). -/
def ScrubReads (s : State) (k w : Nat) : Prop :=
  k < s.nStacks ∧ s.scrub.line < 2 ^ 24 ∧ (stackSize * k + 8192 * s.scrub.line) / 16 ≤ w ∧ w < (stackSize * k + 8192 * s.scrub.line) / 16 + 512

/-- SCRUB_READ (R226, R233): at the scrub's position of its next turn, the correctable words of the lines that the turn before found are
written back, and nothing else of the code changes; an uncorrectable word among those read sets SCRUB_UNCORR, and a line with correctable
ones alone is found. The walk goes on a line of each channel, and counts a pass at the last. While the scrub is off nothing happens. -/
def ScrubRow : Prop :=
  ∀ s : State, Canonical s →
    (scrubOn s = false → exec .scrubRead s = .next s) ∧
    (scrubOn s = true → ∃ t, exec .scrubRead s = .next t ∧ SameStores s t ∧
      t.tim.now = max s.tim.now (s.cueCycleAt (turnCycle (max (turnFrom 2 s.sinceCue) s.scrub.turn) 2)) ∧
      t.scrub.turn = max (turnFrom 2 s.sinceCue) s.scrub.turn + 1 ∧
      (∀ e, e ∈ t.ecc ↔ e ∈ s.ecc ∧ ¬(e.1 / 4 ∈ s.scrub.back ∧ e.2 = .corr)) ∧
      (∀ k e, e ∈ t.ecc → ScrubReads s k e.1 →
        (s.uncorr (64 * (e.1 / 4)) 64 = true → t.fld (Fld.MEM_STATUS_SCRUB_UNCORR k) = 1) ∧
        (s.uncorr (64 * (e.1 / 4)) 64 = false → e.1 / 4 ∈ t.scrub.back)) ∧
      (s.ecc = [] → t.scrub.back = [] ∧ (s.scrub.line + 1 < 2 ^ 24 → ∀ a, t.reg a = s.reg a)) ∧
      (s.scrub.line + 1 < 2 ^ 24 → t.scrub.line = s.scrub.line + 1) ∧
      (2 ^ 24 ≤ s.scrub.line + 1 → t.scrub.line = 0 ∧ ∀ n, n < s.nStacks → Counted (Fld.MEM_SCRUB_PASSES n) s t))

/-- The writes of an exchange to the partner's inbox (R372): the records from slot SEQ mod 64 on, in at most two. -/
def exchangeWrites (s : State) : List EngReq :=
  let rs := s.twin.done.zipIdx.map fun (r : TwinRec × Nat) => (s.twin.seq + r.2, r.1)
  let n := min 63 (min rs.length (64 - s.twin.seq % 64))
  twinWrite s (s.twin.seq % 64) (rs.take n) ++ twinWrite s ((s.twin.seq % 64 + n) % 64) (rs.drop n)

/-- TWIN_EXCHANGE (R253, R371, R372, R408): at a cue where an exchange is due, the records completed since the last one are numbered on and
written to the partner's inbox, where the route passes; where it does not, and while QUIESCE is 1, they are lost with SEND_FAIL. With no
exchange due nothing happens. -/
def TwinExchangeRow : Prop :=
  ∀ s : State, Canonical s →
    (s.twin.due = false → exec .twinExchange s = .next s) ∧
    (s.twin.due = true → s.fld Fld.FAB_CTRL_QUIESCE = 1 → ∃ t, exec .twinExchange s = .next t ∧ SameStores s t ∧ t.eng = s.eng ∧
      t.twin = { s.twin with due := false, done := [], seq := s.twin.seq + s.twin.done.length } ∧
      t.fld Fld.XCL_TWIN_STATUS_SEND_FAIL = (if s.twin.done = [] then s.fld Fld.XCL_TWIN_STATUS_SEND_FAIL else 1)) ∧
    (s.twin.due = true → s.fld Fld.FAB_CTRL_QUIESCE = 0 → s.eng.ckp = none → s.eng.rst = none → s.eng.wait = [] →
      s.eng.reqs.length + (exchangeWrites s).length ≤ 64 →
      ∃ t, exec .twinExchange s = .next t ∧ SameStores s t ∧
        t.twin = { s.twin with due := false, done := [], seq := s.twin.seq + s.twin.done.length } ∧
        (s.twin.done = [] → t = { s with twin := t.twin }) ∧
        (∀ port, launchTest s (twinRoute s).route (twinRoute s).hops 24 none = .ok port → ∃ tags : List Nat,
          tags.length = (exchangeWrites s).length ∧
          t.eng.reqs = s.eng.reqs ++ ((exchangeWrites s).zip tags).map (fun (z : EngReq × Nat) => { z.1 with tag := z.2, at_ := s.tim.now }) ∧
          ∀ z ∈ (exchangeWrites s).zip tags, Launched t port (firstHop s (requestPkt s z.1 z.2))) ∧
        (∀ cause hop, s.twin.done ≠ [] → launchTest s (twinRoute s).route (twinRoute s).hops 24 none = .bad cause hop →
          t.eng.reqs = s.eng.reqs ∧ t.fld Fld.XCL_TWIN_STATUS_SEND_FAIL = 1 ∧ t.fld Fld.FAB_STATUS_ROUTE_ILLEGAL = 1))

end Sys2Proof.Safety

/-- FROST_WATCH_WARM, WILT_ALARM, WILT_LONG, SCRUB_READ and TWIN_EXCHANGE (R210, R233, R351, R371, R372), as the statement of each says. -/
def Obligations.WatchesAndScrubAct : Prop := WatchRows ∧ ScrubRow ∧ TwinExchangeRow

/-- R375: SILENT is set once 4 × K scenes have passed without a new record while EN is 1, and the next record that a cue or an idle tick finds in
the inbox clears it. -/
def Obligations.TwinSilenceIsReported : Prop :=
  ∀ s : State, Canonical s →
    (s.fld Fld.XCL_TWIN_CTRL_EN = 1 → s.twin.since + 4 * s.fld Fld.XCL_TWIN_CTRL_K ≤ s.fld Fld.SCN_COUNT_SCENE →
      ∃ t, exec .silent s = .next t ∧ SameStores s t ∧ t.fld Fld.XCL_TWIN_STATUS_SILENT = 1 ∧ ∀ a, a ≠ Reg.XCL_TWIN_STATUS → t.reg a = s.reg a) ∧
    (s.fld Fld.XCL_TWIN_CTRL_EN = 0 ∨ s.fld Fld.SCN_COUNT_SCENE < s.twin.since + 4 * s.fld Fld.XCL_TWIN_CTRL_K → exec .silent s = .next s) ∧
    (∀ x, s.fld Fld.XCL_TWIN_CTRL_EN = 1 → s.healthHalted = false → inboxNext s = some x →
      (twinTick s).fld Fld.XCL_TWIN_STATUS_SILENT = 0 ∧ (twinTick s).twin.since = s.fld Fld.SCN_COUNT_SCENE ∧
      (s.ready = true → s.tim.cuesRun = false → s.controlHalted = false → NothingHeld s → s.cmdEff = [] → s.posadd = [] → s.twin.on = true →
        ∃ t, exec .idleTick s = .next t ∧ t.fld Fld.XCL_TWIN_STATUS_SILENT = 0))
end

