-- ==== Sys2Proof/Laws/SMap.lean ====
section
/-! SUPPORT. Laws of the sparse stores: a read after a write, and that every operation keeps the canonical form. -/

namespace Sys2Proof.Machine

variable {β : Type} [DecidableEq β]

theorem SMap.wfFrom_nil (d : Nat → β) (b : Nat) : SMap.wfFrom d b [] = true := rfl

theorem SMap.wfFrom_cons (d : Nat → β) (b a : Nat) (v : β) (m : SMap β) :
    SMap.wfFrom d b ((a, v) :: m) = true ↔ b ≤ a ∧ v ≠ d a ∧ SMap.wfFrom d (a + 1) m = true := by
  simp [SMap.wfFrom, and_assoc]

/-- A lower bound on the keys may be lowered. -/
theorem SMap.wfFrom_mono {d : Nat → β} {b c : Nat} (h : b ≤ c) : ∀ {m : SMap β}, SMap.wfFrom d c m = true → SMap.wfFrom d b m = true
  | [], _ => rfl
  | (_, _) :: _, w => by
    rw [SMap.wfFrom_cons] at *
    exact ⟨le_trans h w.1, w.2⟩

/-- Below every listed key a store reads its default. -/
theorem SMap.get_below {d : Nat → β} {b k : Nat} {e : β} : ∀ {m : SMap β}, SMap.wfFrom d b m = true → k < b → SMap.get e m k = e
  | [], _, _ => rfl
  | (a, v) :: m, w, h => by
    rw [SMap.wfFrom_cons] at w
    simp [SMap.get, show k ≠ a by omega, show k < a by omega]

theorem SMap.wfFrom_insert {d : Nat → β} {k : Nat} {v : β} (hv : v ≠ d k) :
    ∀ {b : Nat} {m : SMap β}, SMap.wfFrom d b m = true → b ≤ k → SMap.wfFrom d b (SMap.insert m k v) = true
  | b, [], _, hb => by simp [SMap.insert, SMap.wfFrom, hv, hb]
  | b, (a, w) :: m, h, hb => by
    have h' := h
    rw [SMap.wfFrom_cons] at h'
    simp only [SMap.insert]
    split
    · next e => subst e; rw [SMap.wfFrom_cons]; exact ⟨hb, hv, h'.2.2⟩
    · split
      · rw [SMap.wfFrom_cons, SMap.wfFrom_cons]; exact ⟨hb, hv, by omega, h'.2⟩
      · rw [SMap.wfFrom_cons]
        exact ⟨h'.1, h'.2.1, SMap.wfFrom_insert hv h'.2.2 (by omega)⟩

theorem SMap.wfFrom_erase {d : Nat → β} {k : Nat} :
    ∀ {b : Nat} {m : SMap β}, SMap.wfFrom d b m = true → SMap.wfFrom d b (SMap.erase m k) = true
  | _, [], _ => rfl
  | b, (a, w) :: m, h => by
    have h' := h
    rw [SMap.wfFrom_cons] at h'
    simp only [SMap.erase]
    split
    · exact SMap.wfFrom_mono (by omega) h'.2.2
    · split
      · exact h
      · rw [SMap.wfFrom_cons]; exact ⟨h'.1, h'.2.1, SMap.wfFrom_erase h'.2.2⟩

/-- A write keeps the canonical form. -/
theorem SMap.wf_set {d : Nat → β} {m : SMap β} (k : Nat) (v : β) (h : SMap.wf d m = true) :
    SMap.wf d (SMap.set (d k) m k v) = true := by
  unfold SMap.set SMap.wf at *
  split
  · exact SMap.wfFrom_erase h
  · exact SMap.wfFrom_insert ‹_› h (Nat.zero_le k)

/-- A store keeps its canonical form when entries are taken out. -/
theorem SMap.wfFrom_filter {d : Nat → β} (p : Nat × β → Bool) :
    ∀ {b : Nat} {m : SMap β}, SMap.wfFrom d b m = true → SMap.wfFrom d b (m.filter p) = true
  | _, [], _ => rfl
  | b, (a, w) :: m, h => by
    rw [SMap.wfFrom_cons] at h
    rw [List.filter_cons]
    split
    · rw [SMap.wfFrom_cons]; exact ⟨h.1, h.2.1, SMap.wfFrom_filter p h.2.2⟩
    · exact SMap.wfFrom_mono (by omega) (SMap.wfFrom_filter p h.2.2)

theorem SMap.wf_filter {d : Nat → β} {m : SMap β} (p : Nat × β → Bool) (h : SMap.wf d m = true) : SMap.wf d (m.filter p) = true :=
  SMap.wfFrom_filter p h

/-- A store keeps its canonical form when its values are changed. -/
theorem SMap.wfFrom_mapVals {e : β} (f : β → β) :
    ∀ {b : Nat} {m : SMap β}, SMap.wfFrom (fun _ => e) b m = true → SMap.wfFrom (fun _ => e) b (SMap.mapVals e f m) = true
  | _, [], _ => rfl
  | b, (a, w) :: m, h => by
    rw [SMap.wfFrom_cons] at h
    have ih := SMap.wfFrom_mapVals f h.2.2
    unfold SMap.mapVals at ih ⊢
    rw [List.filterMap_cons]
    by_cases hw : f w = e
    · simp only [hw, if_true]
      exact SMap.wfFrom_mono (by omega) ih
    · simp only [hw, if_false]
      rw [SMap.wfFrom_cons]
      exact ⟨h.1, hw, ih⟩

theorem SMap.wf_mapVals {e : β} {m : SMap β} (f : β → β) (h : SMap.wf (fun _ => e) m = true) :
    SMap.wf (fun _ => e) (SMap.mapVals e f m) = true :=
  SMap.wfFrom_mapVals f h

/-- A write keeps the canonical form of a store with one default. -/
theorem SMap.wf_put {e : β} {m : SMap β} {k : Nat} {v : β} (h : SMap.wf (fun _ => e) m = true) :
    SMap.wf (fun _ => e) (SMap.set e m k v) = true :=
  SMap.wf_set (d := fun _ => e) k v h

theorem SMap.wf_nil (d : Nat → β) : SMap.wf d ([] : SMap β) = true := rfl

theorem SMap.get_insert_same {e : β} {k : Nat} {v : β} : ∀ (m : SMap β), SMap.get e (SMap.insert m k v) k = v
  | [] => by simp [SMap.insert, SMap.get]
  | (a, w) :: m => by
    simp only [SMap.insert]
    split
    · simp [SMap.get]
    · split
      · simp [SMap.get]
      · simp [SMap.get, *, SMap.get_insert_same m]

theorem SMap.get_insert_other {e : β} {k j : Nat} {v : β} (hj : j ≠ k) : ∀ (m : SMap β), SMap.get e (SMap.insert m k v) j = SMap.get e m j
  | [] => by simp [SMap.insert, SMap.get, hj]
  | (a, w) :: m => by
    simp only [SMap.insert]
    split
    · next h => subst h; simp [SMap.get, hj]
    · split
      · simp only [SMap.get, hj, if_false]
        split
        · rw [if_neg (by omega), if_pos (by omega)]
        · rfl
      · simp only [SMap.get, SMap.get_insert_other hj m]

theorem SMap.get_erase_same {d : Nat → β} {e : β} {k : Nat} :
    ∀ {b : Nat} {m : SMap β}, SMap.wfFrom d b m = true → SMap.get e (SMap.erase m k) k = e
  | _, [], _ => rfl
  | b, (a, w) :: m, h => by
    rw [SMap.wfFrom_cons] at h
    simp only [SMap.erase]
    split
    · next he => subst he; exact SMap.get_below h.2.2 (Nat.lt_succ_self _)
    · split
      · simp [SMap.get, *]
      · simp [SMap.get, *, SMap.get_erase_same h.2.2]

theorem SMap.get_erase_other {d : Nat → β} {e : β} {k j : Nat} (hj : j ≠ k) :
    ∀ {b : Nat} {m : SMap β}, SMap.wfFrom d b m = true → SMap.get e (SMap.erase m k) j = SMap.get e m j
  | _, [], _ => rfl
  | b, (a, w) :: m, h => by
    rw [SMap.wfFrom_cons] at h
    simp only [SMap.erase]
    split
    · next he =>
      subst he
      simp only [SMap.get, hj, if_false]
      split
      · exact SMap.get_below h.2.2 (by omega)
      · rfl
    · split
      · rfl
      · simp only [SMap.get, SMap.get_erase_other hj h.2.2]

/-- A read of the key just written gives the value written. -/
theorem SMap.get_set_same {d : Nat → β} {m : SMap β} (k : Nat) (v : β) (h : SMap.wf d m = true) :
    SMap.get (d k) (SMap.set (d k) m k v) k = v := by
  unfold SMap.set
  split
  · next e => rw [SMap.get_erase_same h, e]
  · exact SMap.get_insert_same m

/-- A write leaves every other key alone. -/
theorem SMap.get_set_other {d : Nat → β} {m : SMap β} {k j : Nat} (v : β) (h : SMap.wf d m = true) (hj : j ≠ k) (e : β) :
    SMap.get e (SMap.set (d k) m k v) j = SMap.get e m j := by
  unfold SMap.set
  split
  · exact SMap.get_erase_other hj h
  · exact SMap.get_insert_other hj m

/-- Two stores in canonical form that read alike are equal. -/
theorem SMap.ext_of_get {d : Nat → β} : ∀ {b : Nat} {m n : SMap β}, SMap.wfFrom d b m = true → SMap.wfFrom d b n = true →
    (∀ k, SMap.get (d k) m k = SMap.get (d k) n k) → m = n
  | _, [], [], _, _, _ => rfl
  | b, [], (a, v) :: n, _, h, e => by
    rw [SMap.wfFrom_cons] at h
    have := e a
    simp [SMap.get] at this
    exact absurd this.symm h.2.1
  | b, (a, v) :: m, [], h, _, e => by
    rw [SMap.wfFrom_cons] at h
    have := e a
    simp [SMap.get] at this
    exact absurd this h.2.1
  | b, (a, v) :: m, (c, w) :: n, hm, hn, e => by
    rw [SMap.wfFrom_cons] at hm hn
    rcases Nat.lt_trichotomy a c with h | h | h
    · have := e a
      simp [SMap.get, show a ≠ c by omega, h] at this
      exact absurd this hm.2.1
    · subst h
      have hv := e a
      simp [SMap.get] at hv
      subst hv
      have : m = n := by
        refine SMap.ext_of_get hm.2.2 hn.2.2 fun k => ?_
        by_cases hk : k < a + 1
        · rw [SMap.get_below hm.2.2 hk, SMap.get_below hn.2.2 hk]
        · have := e k
          simpa [SMap.get, show k ≠ a by omega, show ¬ k < a by omega] using this
      rw [this]
    · have := e c
      simp [SMap.get, show c ≠ a by omega, h] at this
      exact absurd this.symm hn.2.1

/-- Writing the value that a key already reads as changes nothing. -/
theorem SMap.set_get {d : Nat → β} {m : SMap β} (k : Nat) (h : SMap.wf d m = true) :
    SMap.set (d k) m k (SMap.get (d k) m k) = m := by
  refine SMap.ext_of_get (d := d) (b := 0) (SMap.wf_set k _ h) h fun j => ?_
  by_cases hj : j = k
  · subst hj; rw [SMap.get_set_same j _ h]
  · rw [SMap.get_set_other _ h hj]

/-- A second write of a key replaces the first. -/
theorem SMap.set_set {d : Nat → β} {m : SMap β} (k : Nat) (v w : β) (h : SMap.wf d m = true) :
    SMap.set (d k) (SMap.set (d k) m k v) k w = SMap.set (d k) m k w := by
  have h1 : SMap.wf d (SMap.set (d k) m k v) = true := SMap.wf_set k v h
  refine SMap.ext_of_get (d := d) (b := 0) (SMap.wf_set k w h1) (SMap.wf_set k w h) fun j => ?_
  by_cases hj : j = k
  · subst hj; rw [SMap.get_set_same j w h1, SMap.get_set_same j w h]
  · rw [SMap.get_set_other w h1 hj, SMap.get_set_other v h hj, SMap.get_set_other w h hj]

end Sys2Proof.Machine
end

