-- ==== Sys2Proof/Laws/Good.lean ====
section
/-! SUPPORT. What every operation keeps: the queue, and the canonical form of every store. `Good q s` says that the queue of
`s` is `q` and that `s` is canonical; here it is shown of the named operations of Machine/Ops.lean, with the lemmas that
carry it through a record update, a fold, a pair and an option. -/

namespace Sys2Proof.Laws

open Sys2Proof.Machine Sys2Proof.Safety

/-- The queue is `q`, and every store is in its canonical form. -/
structure Good (q : List Instr) (s : State) : Prop where
  pending : s.pending = q
  canon : Canonical s

/-- The next state, where there is one, is good. -/
structure GoodOut (q : List Instr) (o : Out) : Prop where
  next : ∀ t, o = .next t → Good q t

/-- The state, where there is one, is good. -/
structure GoodOpt (q : List Instr) (o : Option State) : Prop where
  some : ∀ t, o = .some t → Good q t

/-- The state of a check, where it holds one, is good. -/
structure GoodCheck (q : List Instr) (o : Check) : Prop where
  ok : ∀ t, o = .ok t → Good q t
  stop : ∀ t, o = .stop t → Good q t

/-- The state in which reads go on, or that a fault has taken, is good. -/
structure GoodReads (q : List Instr) (o : Reads) : Prop where
  ok : ∀ v l t, o = .ok v l t → Good q t
  stop : ∀ t, o = .stop t → Good q t

variable {q : List Instr} {s t : State}

theorem cut_of {p r : Prop} (h1 : p) (h2 : p → r) : r := h2 h1

/-! ### Register files -/

theorem filesOk_nil : FilesOk {} := ⟨rfl, rfl, rfl, rfl, rfl⟩
theorem coreOk_nil : CoreOk {} := ⟨filesOk_nil, by intro r h; simp at h⟩
theorem coreOk_regs {k : Core} (h : CoreOk k) : FilesOk k.regs := h.1
theorem coreOk_shadow {k : Core} {r : Region} (h : CoreOk k) (e : k.region = some r) : FilesOk r.shadow := h.2 r e

theorem setG_ok {r : Regs} {i : BitVec 6} {v : Word} (h : FilesOk r) : FilesOk (r.setG i v) := by
  unfold Regs.setG
  split
  · exact h
  · exact ⟨SMap.wf_set _ _ h.1, h.2⟩
theorem setP_ok {r : Regs} {i : BitVec 4} {v : Addr} (h : FilesOk r) : FilesOk (r.setP i v) :=
  ⟨h.1, SMap.wf_set _ _ h.2.1, h.2.2⟩
theorem setV_ok {r : Regs} {i : BitVec 5} {v : Lanes} (h : FilesOk r) : FilesOk (r.setV i v) :=
  ⟨h.1, h.2.1, SMap.wf_set (d := fun _ => zeroLanes) _ _ h.2.2.1, h.2.2.2⟩
theorem setQ_ok {r : Regs} {i : BitVec 3} {v : Word} (h : FilesOk r) : FilesOk (r.setQ i v) := by
  unfold Regs.setQ
  split
  · exact h
  · exact ⟨h.1, h.2.1, h.2.2.1, SMap.wf_set _ _ h.2.2.2.1, h.2.2.2.2⟩
theorem setT_ok {r : Regs} {i : BitVec 4} {d : Desc} (h : FilesOk r) : FilesOk (r.setT i d) :=
  ⟨h.1, h.2.1, h.2.2.1, h.2.2.2.1, SMap.wf_set (d := fun _ => (none : Option Desc)) i.toNat (some d) h.2.2.2.2⟩
theorem slot_ok {r : Regs} {n : BitVec 6} (h : FilesOk r) : FilesOk { r with slot := n } := h

theorem coreOk_lit_iff {regs : Regs} {pool : SMap Desc} {book : Option Book} {prog : Option Nat} {pc : Nat} {loops : List
    LoopFrame} {holdUntil : Nat} {atCueWait : Bool} {stopped : Bool} {compiled : Nat} {nextOrd : Nat} {region : Option
    Region} {confirm : Option (QEntry × BitVec 6)} {admitOp : Option (QEntry × BitVec 6 × Nat)} {sources : List SrcRegion}
    {pend : SMap (Option Pend)} {uM : List QEntry} {uT : List QEntry} {uV : List QEntry} {uD : List QEntry} {uF : List
    QEntry} {uC : List QEntry} {tiles : List Tile} {spilled : List (Nat × Bool)} {inflight : List PPartial} {tWait : List
    FenceOp} {cmps : List Cmp} {dm : List DmXfer} {port : List PortXfer} {cf : SMap CfEntry} {phases : List (List Byte)}
    {phaseLost : Bool} {slip : Nat} {fenceSlip : Nat} {ranScene : Bool} {issued : Nat} {mFree : Nat} {tNext : Nat} {tFree : Nat}
    {tileOrd : Nat} {wheel : SMap Nat} {landing : List Landing} {ready : List (RegName × Nat)} :
    CoreOk (Core.mk regs pool book prog pc loops holdUntil atCueWait stopped compiled nextOrd region confirm admitOp
      sources pend uM uT uV uD uF uC tiles spilled inflight tWait cmps dm port cf phases phaseLost slip
      fenceSlip ranScene issued mFree tNext tFree tileOrd wheel landing ready) ↔
      (FilesOk regs ∧ ∀ r, region = some r → FilesOk r.shadow) := Iff.rfl

theorem shadow_map {f : Region → Region} {o : Option Region} (h : ∀ r, o = some r → FilesOk r.shadow)
    (hf : ∀ r, FilesOk r.shadow → FilesOk (f r).shadow) : ∀ r, o.map f = some r → FilesOk r.shadow := by
  cases o with
  | none => intro r e; cases e
  | some r0 => intro r e; cases e; exact hf _ (h _ rfl)

/-! ### Ways in -/

theorem Good.mem_ok (h : Good q s) : SMap.wf (fun _ => (0 : Byte)) s.mem = true := h.canon.mem
theorem Good.regs_ok (h : Good q s) : SMap.wf (fun a => regReset a) s.regs = true := h.canon.regs
theorem Good.ecc_ok (h : Good q s) : SMap.wf (fun _ => Ecc.ok) s.ecc = true := h.canon.ecc
theorem Good.win_ok (h : Good q s) : SMap.wf (fun _ => (0 : Byte)) s.win = true := h.canon.win
theorem Good.cores_wf (h : Good q s) : SMap.wf (fun _ => ({} : Core)) s.cores = true := h.canon.cores.1
theorem Good.cores_ok (h : Good q s) : ∀ e ∈ s.cores, CoreOk e.2 := h.canon.cores.2

theorem Good.stores_ok (h : Good q s) : StoresOk s.links s.fab.used s.red s.wit s.frostX s.wlt s.subkeys := h.canon.stores

/-- A state whose queue and stores are those of good states is good. -/
theorem good_of (h : Good q s) (e1 : t.pending = s.pending) (e2 : t.mem = s.mem) (e3 : t.regs = s.regs) (e4 : t.ecc = s.ecc)
    (e5 : t.win = s.win) (e6 : t.cores = s.cores) (e7 : t.links = s.links) (e8 : t.fab.used = s.fab.used) (e9 : t.red = s.red)
    (e10 : t.wit = s.wit) (e11 : t.frostX = s.frostX) (e12 : t.wlt = s.wlt) (e13 : t.subkeys = s.subkeys) : Good q t := by
  refine ⟨e1.trans h.pending, ?_, ?_, ?_, ?_, ?_, ?_⟩
  · unfold MemOk; rw [e2]; exact h.mem_ok
  · unfold RegsOk; rw [e3]; exact h.regs_ok
  · unfold EccOk; rw [e4]; exact h.ecc_ok
  · unfold WinOk; rw [e5]; exact h.win_ok
  · unfold CoresOk; rw [e6]; exact ⟨h.cores_wf, h.cores_ok⟩
  · rw [e7, e8, e9, e10, e11, e12, e13]; exact h.stores_ok

theorem good_lit_iff {pending : List Instr} {regs : SMap Word} {mem : List Host.Cell} {ecc : SMap Ecc} {cores : SMap Core} {tim :
    Tim} {host : HostSt} {tel : Tel} {flt : Flt} {frostX : SMap Nat} {posadd : List (BitVec 6 × Nat)} {wlt : SMap WiltCnt} {seed :
    Word} {seedSet : Bool} {subkeys : SMap Word} {inj : List (Nat × Nat)} {out_ : List OutItem} {fab : FabSt} {links : SMap
    LinkSt} {red : SMap RedCtx} {wit : SMap WitRun} {pendT : List PendW} {pendQ : List PendW} {cmdEff : List CmdEff} {bus :
    BusSt} {pwr : PwrSt} {rhs : RhsSt} {frost : FrostSt} {door : DoorSt} {tap : TapSt} {eng : EngSt} {twin : TwinSt} {scrub :
    ScrubSt} {hist : HistSt} {wiltAlarms : List WiltDue} {wiltLongs : List WiltDue} {dp : List Byte} {win : List Host.Cell}
    {freeCtr : Nat}
    :
    Good q (State.mk pending regs mem ecc cores tim host tel flt frostX posadd wlt seed seedSet subkeys inj out_ fab
      links red wit pendT pendQ cmdEff bus pwr rhs frost door tap eng twin scrub hist wiltAlarms wiltLongs dp
      win freeCtr) ↔
      (pending = q ∧ SMap.wf (fun _ => (0 : Byte)) mem = true ∧ SMap.wf (fun a => regReset a) regs = true ∧
        SMap.wf (fun _ => Ecc.ok) ecc = true ∧ SMap.wf (fun _ => (0 : Byte)) win = true ∧
        SMap.wf (fun _ => ({} : Core)) cores = true ∧ (∀ e ∈ cores, CoreOk e.2) ∧
        StoresOk links fab.used red wit frostX wlt subkeys) :=
  ⟨fun h => ⟨h.pending, h.mem_ok, h.regs_ok, h.ecc_ok, h.win_ok, h.cores_wf, h.cores_ok, h.stores_ok⟩,
    fun ⟨e1, e2, e3, e4, e5, e6, e7, e8⟩ => ⟨e1, e2, e3, e4, e5, ⟨e6, e7⟩, e8⟩⟩

theorem storesOk_mk {links : SMap LinkSt} {used : SMap Nat} {red : SMap RedCtx} {wit : SMap WitRun} {frostX : SMap Nat}
    {wlt : SMap WiltCnt} {subkeys : SMap Word} (h1 : SMap.wf (fun _ => ({} : LinkSt)) links = true)
    (h2 : SMap.wf (fun _ => (0 : Nat)) used = true) (h3 : SMap.wf (fun _ => ({} : RedCtx)) red = true)
    (h4 : SMap.wf (fun _ => ({} : WitRun)) wit = true) (h5 : SMap.wf (fun _ => (0 : Nat)) frostX = true)
    (h6 : SMap.wf (fun _ => ({} : WiltCnt)) wlt = true) (h7 : SMap.wf (fun _ => (0 : Word)) subkeys = true) :
    StoresOk links used red wit frostX wlt subkeys := ⟨h1, h2, h3, h4, h5, h6, h7⟩

theorem good_fst {α : Type} {r : State × α} {a : State} {b : α} (e : r = (a, b)) (h : Good q r.1) : Good q a := by
  subst e; exact h
theorem good_snd {α : Type} {r : α × State} {a : State} {b : α} (e : r = (b, a)) (h : Good q r.2) : Good q a := by
  subst e; exact h
theorem good_some {o : Option State} {a : State} (e : o = some a) (h : GoodOpt q o) : Good q a := h.some a e
theorem good_next {o : Out} {a : State} (e : o = .next a) (h : GoodOut q o) : Good q a := h.next a e
theorem good_ok {o : Check} {a : State} (e : o = .ok a) (h : GoodCheck q o) : Good q a := h.ok a e
theorem good_stop {o : Check} {a : State} (e : o = .stop a) (h : GoodCheck q o) : Good q a := h.stop a e

theorem goodOut_next (h : Good q s) : GoodOut q (.next s) := ⟨fun t e => by cases e; exact h⟩
theorem goodOut_fault {r : Fault} : GoodOut q (.fault r) := ⟨fun t e => by cases e⟩
theorem goodOpt_some (h : Good q s) : GoodOpt q (some s) := ⟨fun t e => by cases e; exact h⟩
theorem goodOpt_none : GoodOpt q none := ⟨fun t e => by cases e⟩
theorem goodCheck_ok (h : Good q s) : GoodCheck q (.ok s) := ⟨fun t e => by cases e; exact h, fun t e => by cases e⟩
theorem goodCheck_stop (h : Good q s) : GoodCheck q (.stop s) := ⟨fun t e => (by cases e), fun t e => by cases e; exact h⟩
theorem goodCheck_wait : GoodCheck q .wait := ⟨fun t e => (by cases e), fun t e => (by cases e)⟩

theorem goodReads_ok {v : State} {l : List Nat} (h : Good q s) : GoodReads q (.ok v l s) :=
  ⟨fun _ _ _ e => by cases e; exact h, fun _ e => by cases e⟩
theorem goodReads_stop (h : Good q s) : GoodReads q (.stop s) := ⟨fun _ _ _ e => (by cases e), fun _ e => by cases e; exact h⟩
theorem goodReads_wait : GoodReads q .wait := ⟨fun _ _ _ e => (by cases e), fun _ e => (by cases e)⟩
theorem good_rok {o : Reads} {v a : State} {l : List Nat} (e : o = .ok v l a) (h : GoodReads q o) : Good q a := h.ok v l a e
theorem good_rstop {o : Reads} {a : State} (e : o = .stop a) (h : GoodReads q o) : Good q a := h.stop a e

theorem good_getD {o : Option State} (h1 : GoodOpt q o) (h2 : Good q s) : Good q (o.getD s) := by
  cases o with
  | none => exact h2
  | some a => exact h1.some a rfl
theorem goodOpt_map {α : Type} {o : Option α} {f : α → State} (h : ∀ a, Good q (f a)) : GoodOpt q (o.map f) := by
  cases o with
  | none => exact goodOpt_none
  | some a => exact goodOpt_some (h a)

theorem goodOpt_mapState {o : Option State} {f : State → State} (h : GoodOpt q o) (hf : ∀ a, Good q a → Good q (f a)) :
    GoodOpt q (o.map f) := by
  cases o with
  | none => exact goodOpt_none
  | some a => exact goodOpt_some (hf a (h.some a rfl))

theorem good_foldl {α : Type} {f : State → α → State} (hf : ∀ s a, Good q s → Good q (f s a)) :
    ∀ (l : List α) {s : State}, Good q s → Good q (l.foldl f s)
  | [], _, h => h
  | a :: l, _, h => good_foldl hf l (hf _ a h)
theorem good_foldl_fst {α β : Type} {f : State × β → α → State × β} (hf : ∀ s b a, Good q s → Good q (f (s, b) a).1) :
    ∀ (l : List α) {s : State} {b : β}, Good q s → Good q (l.foldl f (s, b)).1
  | [], _, _, h => h
  | a :: l, s, b, h => by
    rw [List.foldl_cons]
    exact good_foldl_fst hf l (s := (f (s, b) a).1) (b := (f (s, b) a).2) (hf _ _ a h)
theorem good_foldl_snd {α β : Type} {f : β × State → α → β × State} (hf : ∀ s b a, Good q s → Good q (f (b, s) a).2) :
    ∀ (l : List α) {s : State} {b : β}, Good q s → Good q (l.foldl f (b, s)).2
  | [], _, _, h => h
  | a :: l, s, b, h => by
    rw [List.foldl_cons]
    exact good_foldl_snd hf l (s := (f (b, s) a).2) (b := (f (b, s) a).1) (hf _ _ a h)
theorem coreOk_foldl {α : Type} {f : Core → α → Core} (hf : ∀ s a, CoreOk s → CoreOk (f s a)) :
    ∀ (l : List α) {s : Core}, CoreOk s → CoreOk (l.foldl f s)
  | [], _, h => h
  | a :: l, _, h => coreOk_foldl hf l (hf _ a h)
theorem filesOk_foldl {α : Type} {f : Regs → α → Regs} (hf : ∀ s a, FilesOk s → FilesOk (f s a)) :
    ∀ (l : List α) {s : Regs}, FilesOk s → FilesOk (l.foldl f s)
  | [], _, h => h
  | a :: l, _, h => filesOk_foldl hf l (hf _ a h)
theorem wf_foldl {α β : Type} [DecidableEq β] {d : Nat → β} {f : SMap β → α → SMap β}
    (hf : ∀ m a, SMap.wf d m = true → SMap.wf d (f m a) = true) :
    ∀ (l : List α) {m : SMap β}, SMap.wf d m = true → SMap.wf d (l.foldl f m) = true
  | [], _, h => h
  | a :: l, _, h => wf_foldl hf l (hf _ a h)

/-! ### The named operations -/

theorem memWrite_wf : ∀ (bs : List Byte) (a : Nat) {m : SMap Byte}, SMap.wf (fun _ => (0 : Byte)) m = true →
    SMap.wf (fun _ => (0 : Byte)) (memWrite m a bs) = true
  | [], _, _, h => h
  | b :: bs, a, _, h => memWrite_wf bs (a + 1) (SMap.wf_set (d := fun _ => (0 : Byte)) a b h)

theorem memWriteMasked_wf : ∀ (bs : List (Option Byte)) (a : Nat) {m : SMap Byte}, SMap.wf (fun _ => (0 : Byte)) m = true →
    SMap.wf (fun _ => (0 : Byte)) (memWriteMasked m a bs) = true
  | [], _, _, h => h
  | none :: bs, a, _, h => memWriteMasked_wf bs (a + 1) h
  | some b :: bs, a, _, h => memWriteMasked_wf bs (a + 1) (SMap.wf_set (d := fun _ => (0 : Byte)) a b h)

theorem eccFold_wf {f : Nat → Ecc → Ecc} (l : List Nat) {m : SMap Ecc} (h : SMap.wf (fun _ => Ecc.ok) m = true) :
    SMap.wf (fun _ => Ecc.ok) (l.foldl (fun m w => SMap.set .ok m w (f w (SMap.get .ok m w))) m) = true :=
  wf_foldl (fun _ a w => SMap.wf_set (d := fun _ => Ecc.ok) a _ w) l h

theorem setReg_good {a : Nat} {v : Word} (h : Good q s) : Good q (s.setReg a v) :=
  ⟨h.pending, h.mem_ok, SMap.wf_set (d := fun a => regReset a) a v h.regs_ok, h.ecc_ok, h.win_ok, h.canon.cores, h.stores_ok⟩
theorem setFld_good {f : Fld} {x : Nat} (h : Good q s) : Good q (s.setFld f x) := setReg_good h
theorem addSat_good {f : Fld} {n : Nat} (h : Good q s) : Good q (s.addSat f n) := setFld_good h
theorem setByte_good {a : Nat} {b : Byte} (h : Good q s) : Good q (s.setByte a b) :=
  ⟨h.pending, SMap.wf_set (d := fun _ => (0 : Byte)) a b h.mem_ok, h.regs_ok, h.ecc_ok, h.win_ok, h.canon.cores, h.stores_ok⟩
theorem setEcc_good {a : Nat} {e : Ecc} (h : Good q s) : Good q (s.setEcc a e) :=
  ⟨h.pending, h.mem_ok, h.regs_ok, SMap.wf_set (d := fun _ => Ecc.ok) _ e h.ecc_ok, h.win_ok, h.canon.cores, h.stores_ok⟩
theorem write_good {a : Nat} {bs : List Byte} (h : Good q s) : Good q (s.write a bs) :=
  ⟨h.pending, memWrite_wf bs a h.mem_ok, h.regs_ok, eccFold_wf _ h.ecc_ok, h.win_ok, h.canon.cores, h.stores_ok⟩
theorem writeMasked_good {a : Nat} {bs : List (Option Byte)} (h : Good q s) : Good q (s.writeMasked a bs) := by
  refine ⟨h.pending, memWriteMasked_wf bs a h.mem_ok, h.regs_ok, ?_, h.win_ok, h.canon.cores, h.stores_ok⟩
  refine wf_foldl (fun m w hm => ?_) _ h.ecc_ok
  dsimp only
  split
  · exact SMap.wf_set (d := fun _ => Ecc.ok) w _ hm
  · split
    · exact SMap.wf_set (d := fun _ => Ecc.ok) w _ hm
    · exact hm

theorem coreOk_get {m : SMap Core} (h : ∀ e ∈ m, CoreOk e.2) (n : Nat) : CoreOk (SMap.get {} m n) := by
  induction m with
  | nil => exact coreOk_nil
  | cons e m ih =>
    obtain ⟨a, v⟩ := e
    simp only [SMap.get]
    split
    · exact h _ (List.mem_cons_self ..)
    · split
      · exact coreOk_nil
      · exact ih fun e he => h e (List.mem_cons_of_mem _ he)

theorem mem_insert {β : Type} {m : SMap β} {n : Nat} {k : β} {e : Nat × β} (h : e ∈ SMap.insert m n k) : e = (n, k) ∨ e ∈ m := by
  induction m with
  | nil => simpa [SMap.insert] using h
  | cons x m ih =>
    obtain ⟨a, v⟩ := x
    simp only [SMap.insert] at h
    split at h
    · rcases List.mem_cons.1 h with h | h
      · exact .inl h
      · exact .inr (List.mem_cons_of_mem _ h)
    · split at h
      · rcases List.mem_cons.1 h with h | h
        · exact .inl h
        · exact .inr h
      · rcases List.mem_cons.1 h with h | h
        · exact .inr (h ▸ List.mem_cons_self ..)
        · exact (ih h).imp_right (List.mem_cons_of_mem _)

theorem mem_erase {β : Type} {m : SMap β} {n : Nat} {e : Nat × β} (h : e ∈ SMap.erase m n) : e ∈ m := by
  induction m with
  | nil => simp [SMap.erase] at h
  | cons x m ih =>
    obtain ⟨a, v⟩ := x
    simp only [SMap.erase] at h
    split at h
    · exact List.mem_cons_of_mem _ h
    · split at h
      · exact h
      · rcases List.mem_cons.1 h with h | h
        · exact h ▸ List.mem_cons_self ..
        · exact List.mem_cons_of_mem _ (ih h)

theorem mem_set {β : Type} [DecidableEq β] {d : β} {m : SMap β} {n : Nat} {k : β} {e : Nat × β} (h : e ∈ SMap.set d m n k) :
    e = (n, k) ∨ e ∈ m := by
  unfold SMap.set at h
  split at h
  · exact .inr (mem_erase h)
  · exact mem_insert h

theorem core_ok {n : CoreId} (h : Good q s) : CoreOk (s.core n) := coreOk_get h.cores_ok n.val

theorem setCore_good {n : CoreId} {k : Core} (hk : CoreOk k) (h : Good q s) : Good q (s.setCore n k) := by
  refine ⟨h.pending, h.mem_ok, h.regs_ok, h.ecc_ok, h.win_ok, ⟨SMap.wf_set (d := fun _ => ({} : Core)) n.val k h.cores_wf, ?_⟩,
    h.stores_ok⟩
  intro e he
  rcases mem_set he with he | he
  · subst he; exact hk
  · exact h.cores_ok e he

theorem updCore_good {n : CoreId} {f : Core → Core} (hf : ∀ k, CoreOk k → CoreOk (f k)) (h : Good q s) : Good q (s.updCore n f) :=
  setCore_good (hf _ (core_ok h)) h

theorem filesOk_ite {p : Prop} [Decidable p] {a b : Regs} (h1 : FilesOk a) (h2 : FilesOk b) : FilesOk (if p then a else b) := by
  split
  · exact h1
  · exact h2

end Sys2Proof.Laws
end

