-- ==== Sys2Proof/Laws/GoodFaults.lean ====
section
/-! SUPPORT. What each definition of Machine/Faults.lean keeps: the queue and the canonical form of every store. -/

namespace Sys2Proof.Laws

open Sys2Proof.Machine Sys2Proof.Safety

theorem irq_good {Q : List Instr} {v : Nat} {s : State} (h_s : Good Q s) :
    Good Q (irq v s) := by
  unfold Sys2Proof.Machine.irq
  repeat' first
    | with_reducible assumption
    | with_reducible apply setFld_good (q := Q)
    | with_reducible exact Good.mem_ok (q := Q) (by assumption)
    | with_reducible exact Good.regs_ok (q := Q) (by assumption)
    | with_reducible exact Good.ecc_ok (q := Q) (by assumption)
    | with_reducible exact Good.win_ok (q := Q) (by assumption)
    | with_reducible exact Good.cores_wf (q := Q) (by assumption)
    | with_reducible exact Good.cores_ok (q := Q) (by assumption)
    | with_reducible exact Good.stores_ok (q := Q) (by assumption)
    | with_reducible exact Good.pending (q := Q) (by assumption)
    | (extract_lets +onlyGivenNames x; refine cut_of (p := Good Q x) ?_ fun hx => ?_; (on_goal 1 => (dsimp -zeta only [x]; clear x)); (on_goal 2 => clear_value x))
    | (extract_lets +onlyGivenNames x; clear_value x)
    | split
    | (simp -zeta only [good_lit_iff]; refine ⟨?_, ?_, ?_, ?_, ?_, ?_, ?_, ?_⟩)

theorem cplWrite_good {Q : List Instr} {seq code status : Nat} {notice : Bool} {taken applied detail : Nat} {s : State} (h_s : Good Q s) :
    Good Q (cplWrite seq code status notice taken applied detail s) := by
  unfold Sys2Proof.Machine.cplWrite
  repeat' first
    | with_reducible assumption
    | with_reducible apply setFld_good (q := Q)
    | with_reducible exact Good.mem_ok (q := Q) (by assumption)
    | with_reducible exact Good.regs_ok (q := Q) (by assumption)
    | with_reducible exact Good.ecc_ok (q := Q) (by assumption)
    | with_reducible exact Good.win_ok (q := Q) (by assumption)
    | with_reducible exact Good.cores_wf (q := Q) (by assumption)
    | with_reducible exact Good.cores_ok (q := Q) (by assumption)
    | with_reducible exact Good.stores_ok (q := Q) (by assumption)
    | with_reducible exact Good.pending (q := Q) (by assumption)
    | (extract_lets +onlyGivenNames x; refine cut_of (p := Good Q x) ?_ fun hx => ?_; (on_goal 1 => (dsimp -zeta only [x]; clear x)); (on_goal 2 => clear_value x))
    | (extract_lets +onlyGivenNames x; clear_value x)
    | split
    | (simp -zeta only [good_lit_iff]; refine ⟨?_, ?_, ?_, ?_, ?_, ?_, ?_, ?_⟩)

theorem traceRec_good {Q : List Instr} {kind code status seq detail : Nat} {s : State} (h_s : Good Q s) :
    Good Q (traceRec kind code status seq detail s) := by
  unfold Sys2Proof.Machine.traceRec
  repeat' first
    | with_reducible exact Good.mem_ok (q := Q) (by assumption)
    | with_reducible exact Good.regs_ok (q := Q) (by assumption)
    | with_reducible exact Good.ecc_ok (q := Q) (by assumption)
    | with_reducible exact Good.win_ok (q := Q) (by assumption)
    | with_reducible exact Good.cores_wf (q := Q) (by assumption)
    | with_reducible exact Good.cores_ok (q := Q) (by assumption)
    | with_reducible exact Good.stores_ok (q := Q) (by assumption)
    | with_reducible exact Good.pending (q := Q) (by assumption)
    | (extract_lets +onlyGivenNames x; clear_value x)
    | (simp -zeta only [good_lit_iff]; refine ⟨?_, ?_, ?_, ?_, ?_, ?_, ?_, ?_⟩)

theorem writeNotice_good {Q : List Instr} {code scene detail : Nat} {s : State} (h_s : Good Q s) :
    Good Q (writeNotice code scene detail s) := by
  unfold Sys2Proof.Machine.writeNotice
  repeat' first
    | with_reducible assumption
    | with_reducible apply irq_good
    | with_reducible apply cplWrite_good
    | with_reducible apply traceRec_good

theorem postNotice_good {Q : List Instr} {code detail : Nat} {s : State} (h_s : Good Q s) :
    Good Q (postNotice code detail s) := by
  unfold Sys2Proof.Machine.postNotice
  repeat' first
    | with_reducible assumption
    | with_reducible apply addSat_good (q := Q)
    | with_reducible apply writeNotice_good
    | with_reducible exact Good.mem_ok (q := Q) (by assumption)
    | with_reducible exact Good.regs_ok (q := Q) (by assumption)
    | with_reducible exact Good.ecc_ok (q := Q) (by assumption)
    | with_reducible exact Good.win_ok (q := Q) (by assumption)
    | with_reducible exact Good.cores_wf (q := Q) (by assumption)
    | with_reducible exact Good.cores_ok (q := Q) (by assumption)
    | with_reducible exact Good.stores_ok (q := Q) (by assumption)
    | with_reducible exact Good.pending (q := Q) (by assumption)
    | (extract_lets +onlyGivenNames x; clear_value x)
    | split
    | (simp -zeta only [good_lit_iff]; refine ⟨?_, ?_, ?_, ?_, ?_, ?_, ?_, ?_⟩)

theorem logRecord_good {Q : List Instr} {r : List Byte} {s : State} (h_s : Good Q s) :
    Good Q (logRecord r s) := by
  unfold Sys2Proof.Machine.logRecord
  repeat' first
    | with_reducible assumption
    | with_reducible apply setFld_good (q := Q)
    | with_reducible apply addSat_good (q := Q)
    | with_reducible apply postNotice_good
    | with_reducible exact Good.mem_ok (q := Q) (by assumption)
    | with_reducible exact Good.regs_ok (q := Q) (by assumption)
    | with_reducible exact Good.ecc_ok (q := Q) (by assumption)
    | with_reducible exact Good.win_ok (q := Q) (by assumption)
    | with_reducible exact Good.cores_wf (q := Q) (by assumption)
    | with_reducible exact Good.cores_ok (q := Q) (by assumption)
    | with_reducible exact Good.stores_ok (q := Q) (by assumption)
    | with_reducible exact Good.pending (q := Q) (by assumption)
    | (extract_lets +onlyGivenNames x; refine cut_of (p := Good Q x) ?_ fun hx => ?_; (on_goal 1 => (dsimp -zeta only [x]; clear x)); (on_goal 2 => clear_value x))
    | (extract_lets +onlyGivenNames x; clear_value x)
    | split
    | (simp -zeta only [good_lit_iff]; refine ⟨?_, ?_, ?_, ?_, ?_, ?_, ?_, ?_⟩)

theorem logEvent_good {Q : List Instr} {code : Nat} {o : Origin} {payload : List Byte} {s : State} (h_s : Good Q s) :
    Good Q (logEvent code o payload s) := by
  unfold Sys2Proof.Machine.logEvent
  repeat' first
    | with_reducible assumption
    | with_reducible apply logRecord_good

theorem countEvent_good {Q : List Instr} {src : Nat} {s : State} (h_s : Good Q s) :
    Good Q (countEvent src s).1 := by
  unfold Sys2Proof.Machine.countEvent
  repeat' first
    | with_reducible assumption
    | with_reducible apply setFld_good (q := Q)
    | with_reducible apply addSat_good (q := Q)
    | with_reducible exact Good.mem_ok (q := Q) (by assumption)
    | with_reducible exact Good.regs_ok (q := Q) (by assumption)
    | with_reducible exact Good.ecc_ok (q := Q) (by assumption)
    | with_reducible exact Good.win_ok (q := Q) (by assumption)
    | with_reducible exact Good.cores_wf (q := Q) (by assumption)
    | with_reducible exact Good.cores_ok (q := Q) (by assumption)
    | with_reducible exact Good.stores_ok (q := Q) (by assumption)
    | with_reducible exact Good.pending (q := Q) (by assumption)
    | (extract_lets +onlyGivenNames x; refine cut_of (p := Good Q x) ?_ fun hx => ?_; (on_goal 1 => (dsimp -zeta only [x]; clear x)); (on_goal 2 => clear_value x))
    | (extract_lets +onlyGivenNames x; clear_value x)
    | split
    | (simp -zeta only [good_lit_iff]; refine ⟨?_, ?_, ?_, ?_, ?_, ?_, ?_, ?_⟩)
    | extract_lets +onlyGivenNames x

theorem raise_good {Q : List Instr} {src : Nat} {o : Origin} {payload : List Byte} {s : State} (h_s : Good Q s) :
    Good Q (raise src o payload s) := by
  unfold Sys2Proof.Machine.raise
  repeat' first
    | with_reducible assumption
    | with_reducible apply setFld_good (q := Q)
    | with_reducible apply irq_good
    | with_reducible apply logRecord_good
    | with_reducible apply countEvent_good
    | with_reducible exact Good.mem_ok (q := Q) (by assumption)
    | with_reducible exact Good.regs_ok (q := Q) (by assumption)
    | with_reducible exact Good.ecc_ok (q := Q) (by assumption)
    | with_reducible exact Good.win_ok (q := Q) (by assumption)
    | with_reducible exact Good.cores_wf (q := Q) (by assumption)
    | with_reducible exact Good.cores_ok (q := Q) (by assumption)
    | with_reducible exact Good.stores_ok (q := Q) (by assumption)
    | with_reducible exact Good.pending (q := Q) (by assumption)
    | with_reducible refine good_fst (by assumption) ?_
    | (extract_lets +onlyGivenNames x; refine cut_of (p := Good Q x) ?_ fun hx => ?_; (on_goal 1 => (dsimp -zeta only [x]; clear x)); (on_goal 2 => clear_value x))
    | (extract_lets +onlyGivenNames x; clear_value x)
    | split
    | (simp -zeta only [good_lit_iff]; refine ⟨?_, ?_, ?_, ?_, ?_, ?_, ?_, ?_⟩)
    | with_reducible exact StoresOk.links (Good.stores_ok (q := Q) (by assumption))
    | with_reducible exact StoresOk.used (Good.stores_ok (q := Q) (by assumption))
    | with_reducible exact StoresOk.red (Good.stores_ok (q := Q) (by assumption))
    | with_reducible exact StoresOk.wit (Good.stores_ok (q := Q) (by assumption))
    | with_reducible exact StoresOk.frostX (Good.stores_ok (q := Q) (by assumption))
    | with_reducible exact StoresOk.wlt (Good.stores_ok (q := Q) (by assumption))
    | with_reducible exact StoresOk.subkeys (Good.stores_ok (q := Q) (by assumption))
    | with_reducible apply SMap.wf_put
    | with_reducible apply storesOk_mk

theorem raiseMany_good {Q : List Instr} {src : Nat} {o : Origin} : ∀ {n : Nat} {s : State}, Good Q s →
    Good Q (raiseMany src o n s)
  | 0, _, h => h
  | n + 1, s, h => by
    unfold raiseMany
    exact raiseMany_good (raise_good h)

theorem stopCore_good {Q : List Instr} {c : CoreId} {s : State} (h_s : Good Q s) :
    Good Q (stopCore c s) := by
  unfold Sys2Proof.Machine.stopCore
  repeat' first
    | with_reducible assumption
    | with_reducible apply updCore_good
    | with_reducible exact coreOk_regs (by assumption)
    | with_reducible exact coreOk_shadow (by assumption) (by assumption)
    | (simp -zeta only [coreOk_lit_iff]; refine And.intro ?_ ?_)
    | intro x hx

theorem regionFault_good {Q : List Instr} {c : CoreId} {s : State} (h_s : Good Q s) :
    Good Q (regionFault c s) := by
  unfold Sys2Proof.Machine.regionFault
  repeat' first
    | with_reducible assumption
    | with_reducible apply updCore_good
    | with_reducible exact coreOk_regs (by assumption)
    | with_reducible exact coreOk_shadow (by assumption) (by assumption)
    | with_reducible apply shadow_map
    | (simp -zeta only [coreOk_lit_iff]; refine And.intro ?_ ?_)
    | intro x hx

theorem spdInfo_good {Q : List Instr} {c : CoreId} {kind slot bundle addr : Nat} {s : State} (h_s : Good Q s) :
    Good Q (spdInfo c kind slot bundle addr s) := by
  unfold Sys2Proof.Machine.spdInfo
  repeat' first
    | with_reducible assumption
    | with_reducible apply setFld_good (q := Q)
    | split

theorem operandRange_good {Q : List Instr} {c : CoreId} {bundle slot : Nat} {w : Bool} {s : State} (h_s : Good Q s) :
    Good Q (operandRange c bundle slot w s) := by
  unfold Sys2Proof.Machine.operandRange
  repeat' first
    | with_reducible assumption
    | with_reducible apply raise_good
    | with_reducible apply stopCore_good

theorem addressFault_good {Q : List Instr} {c : CoreId} {kind bundle slot : Nat} {w : Bool} {addr : Nat} {s : State} (h_s : Good Q s) :
    Good Q (addressFault c kind bundle slot w addr s) := by
  unfold Sys2Proof.Machine.addressFault
  repeat' first
    | with_reducible assumption
    | with_reducible apply setFld_good (q := Q)
    | with_reducible apply raise_good
    | with_reducible apply stopCore_good
    | with_reducible apply spdInfo_good

theorem sramUncorr_good {Q : List Instr} {c : CoreId} {bundle slot : Nat} {w : Bool} {addr : Nat} {injected : Bool} {s : State} (h_s : Good Q s) :
    Good Q (sramUncorr c bundle slot w addr injected s) := by
  unfold Sys2Proof.Machine.sramUncorr
  repeat' first
    | with_reducible assumption
    | with_reducible apply setFld_good (q := Q)
    | with_reducible apply raise_good
    | with_reducible apply stopCore_good
    | with_reducible apply spdInfo_good

theorem stackUncorr_good {Q : List Instr} {c : CoreId} {bundle : Nat} {w : Bool} {addr stack : Nat} {injected : Bool} {s : State} (h_s : Good Q s) :
    Good Q (stackUncorr c bundle w addr stack injected s) := by
  unfold Sys2Proof.Machine.stackUncorr
  repeat' first
    | with_reducible assumption
    | with_reducible apply setFld_good (q := Q)
    | with_reducible apply raise_good
    | with_reducible apply stopCore_good
    | with_reducible apply spdInfo_good

theorem sramCorr_good {Q : List Instr} {c : CoreId} {n : Nat} {s : State} (h_s : Good Q s) :
    Good Q (sramCorr c n s) := by
  unfold Sys2Proof.Machine.sramCorr
  repeat' first
    | with_reducible assumption
    | with_reducible apply setFld_good (q := Q)
    | with_reducible apply addSat_good (q := Q)
    | with_reducible apply raiseMany_good
    | split

theorem storeCorr_good {Q : List Instr} {c : CoreId} {n : Nat} {s : State} (h_s : Good Q s) :
    Good Q (storeCorr c n s) := by
  unfold Sys2Proof.Machine.storeCorr
  repeat' first
    | with_reducible assumption
    | with_reducible apply raiseMany_good

theorem specEscape_good {Q : List Instr} {c : CoreId} {bundle slot : Nat} {s : State} (h_s : Good Q s) :
    Good Q (specEscape c bundle slot s) := by
  unfold Sys2Proof.Machine.specEscape
  repeat' first
    | with_reducible assumption
    | with_reducible apply setFld_good (q := Q)
    | with_reducible apply raise_good
    | with_reducible apply regionFault_good
    | split

theorem useInj_good {Q : List Instr} {reg bit : Nat} {s : State} (h_s : Good Q s) :
    Good Q (useInj reg bit s) := by
  unfold Sys2Proof.Machine.useInj
  repeat' first
    | with_reducible apply setFld_good (q := Q)
    | with_reducible exact Good.mem_ok (q := Q) (by assumption)
    | with_reducible exact Good.regs_ok (q := Q) (by assumption)
    | with_reducible exact Good.ecc_ok (q := Q) (by assumption)
    | with_reducible exact Good.win_ok (q := Q) (by assumption)
    | with_reducible exact Good.cores_wf (q := Q) (by assumption)
    | with_reducible exact Good.cores_ok (q := Q) (by assumption)
    | with_reducible exact Good.stores_ok (q := Q) (by assumption)
    | with_reducible exact Good.pending (q := Q) (by assumption)
    | (simp -zeta only [good_lit_iff]; refine ⟨?_, ?_, ?_, ?_, ?_, ?_, ?_, ?_⟩)

end Sys2Proof.Laws
end

