-- ==== Sys2Proof/Laws/GoodOperands.lean ====
section
/-! SUPPORT. What each definition of Machine/Operands.lean keeps: the queue and the canonical form of every store. -/

namespace Sys2Proof.Laws

open Sys2Proof.Machine Sys2Proof.Safety

theorem Core_setQueue_good {k : Core} {u : UnitId} {q : List QEntry} (h_k : CoreOk k) :
    CoreOk (Sys2Proof.Machine.Core.setQueue k u q) := by
  unfold Sys2Proof.Machine.Core.setQueue
  repeat' first
    | with_reducible exact coreOk_regs (by assumption)
    | with_reducible exact coreOk_shadow (by assumption) (by assumption)
    | (simp -zeta only [coreOk_lit_iff]; refine And.intro ?_ ?_)
    | intro x hx
    | split

theorem Core_deliver_good {k : Core} {i : Instr} {n : Nat} (h_k : CoreOk k) :
    CoreOk (Sys2Proof.Machine.Core.deliver k i n) := by
  unfold Sys2Proof.Machine.Core.deliver
  repeat' first
    | with_reducible assumption
    | with_reducible exact coreOk_regs (by assumption)
    | with_reducible exact coreOk_shadow (by assumption) (by assumption)
    | (simp -zeta only [coreOk_lit_iff]; refine And.intro ?_ ?_)
    | intro x hx
    | split

theorem delivered_good {Q : List Instr} {c : CoreId} {i : Instr} {s : State} {o : Option State} (h : Good Q s) (h_o : GoodOpt Q o) :
    Good Q (delivered c i s o) := by
  cases o with
  | none => exact h
  | some t =>
    have hd : ∀ k, CoreOk k → CoreOk (k.deliver i t.cycle) := fun k hk => Core_deliver_good hk
    unfold delivered
    exact updCore_good hd (h_o.some t rfl)

theorem runUnit_good {Q : List Instr} {c : CoreId} {u : UnitId} {i : Instr} {s : State} {f : Ctx → State → Option State} (h_s : Good Q s) (h_f : ∀ a0 a1, Good Q a1 → GoodOpt Q (f a0 a1)) :
    Good Q (runUnit c u i s f) := by
  unfold Sys2Proof.Machine.runUnit
  repeat' first
    | with_reducible assumption
    | with_reducible apply Core_setQueue_good
    | with_reducible apply delivered_good
    | with_reducible apply updCore_good
    | with_reducible exact coreOk_regs (by assumption)
    | with_reducible exact coreOk_shadow (by assumption) (by assumption)
    | (simp -zeta only [coreOk_lit_iff]; refine And.intro ?_ ?_)
    | intro x hx
    | split
    | extract_lets +onlyGivenNames x
    | apply h_f

theorem Core_writeRegs_good {k : Core} {x : Ctx} {f : Regs → Regs} (h : CoreOk k)
    (h_f : ∀ r, FilesOk r → FilesOk (f r)) : CoreOk (Sys2Proof.Machine.Core.writeRegs k x f) := by
  refine ⟨h_f _ h.1, shadow_map h.2 fun r hr => ?_⟩
  split
  · exact hr
  · exact h_f _ hr

theorem wr_good {Q : List Instr} {x : Ctx} {f : Regs → Regs} {s : State}
    (h_f : ∀ r, FilesOk r → FilesOk (f r)) (h : Good Q s) : Good Q (wr x f s) :=
  updCore_good (fun _ hk => Core_writeRegs_good hk h_f) h

theorem Check_bind_good {Q : List Instr} {k : Check} {f : State → Option State} (h : GoodCheck Q k)
    (h_f : ∀ a0, Good Q a0 → GoodOpt Q (f a0)) : GoodOpt Q (Sys2Proof.Machine.Check.bind k f) := by
  cases k with
  | ok a => exact h_f a (h.ok a rfl)
  | wait => exact goodOpt_none
  | stop a => exact goodOpt_some (h.stop a rfl)

theorem wingsEarly_good {Q : List Instr} {x : Ctx} {s : State} (h_s : Good Q s) :
    Good Q (wingsEarly x s) := by
  unfold Sys2Proof.Machine.wingsEarly
  repeat' first
    | with_reducible assumption
    | with_reducible apply setFld_good (q := Q)
    | with_reducible apply raise_good
    | with_reducible apply stopCore_good
    | with_reducible apply regionFault_good
    | split

theorem earlyView_good {Q : List Instr} {c : CoreId} {rs : List (Nat × Nat)} {s : State} (h_s : Good Q s) :
    Good Q (earlyView c rs s) := by
  unfold Sys2Proof.Machine.earlyView
  repeat' first
    | with_reducible assumption
    | with_reducible apply good_foldl
    | with_reducible apply memWrite_wf
    | with_reducible exact Good.mem_ok (q := Q) (by assumption)
    | with_reducible exact Good.regs_ok (q := Q) (by assumption)
    | with_reducible exact Good.ecc_ok (q := Q) (by assumption)
    | with_reducible exact Good.win_ok (q := Q) (by assumption)
    | with_reducible exact Good.cores_wf (q := Q) (by assumption)
    | with_reducible exact Good.cores_ok (q := Q) (by assumption)
    | with_reducible exact Good.stores_ok (q := Q) (by assumption)
    | with_reducible exact Good.pending (q := Q) (by assumption)
    | intro x hx
    | intro x
    | (simp -zeta only [good_lit_iff]; refine ⟨?_, ?_, ?_, ?_, ?_, ?_, ?_, ?_⟩)

theorem Reads_bind_good {Q : List Instr} {k : Reads} {f : State → List Nat → State → Option State} (h : GoodReads Q k)
    (h_f : ∀ v l a, Good Q a → GoodOpt Q (f v l a)) : GoodOpt Q (Sys2Proof.Machine.Reads.bind k f) := by
  cases k with
  | ok v l a => exact h_f v l a (h.ok v l a rfl)
  | wait => exact goodOpt_none
  | stop a => exact goodOpt_some (h.stop a rfl)

theorem readScr_good {Q : List Instr} {x : Ctx} {rs : List (Nat × Nat)} {s : State} (h_s : Good Q s) :
    GoodReads Q (readScr x rs s) := by
  unfold Sys2Proof.Machine.readScr
  repeat' first
    | with_reducible assumption
    | with_reducible exact goodReads_wait
    | with_reducible apply addressFault_good
    | with_reducible apply sramUncorr_good
    | with_reducible apply sramCorr_good
    | with_reducible apply wingsEarly_good
    | with_reducible apply goodReads_ok
    | with_reducible apply goodReads_stop
    | (extract_lets +onlyGivenNames x; refine cut_of (p := Good Q x) ?_ fun hx => ?_; (on_goal 1 => (dsimp -zeta only [x]; clear x)); (on_goal 2 => clear_value x))
    | (extract_lets +onlyGivenNames x; clear_value x)
    | split

theorem checkReads_good {Q : List Instr} {x : Ctx} {rs : List (Nat × Nat)} {s : State} (h_s : Good Q s) :
    GoodCheck Q (checkReads x rs s) := by
  unfold Sys2Proof.Machine.checkReads
  repeat' first
    | with_reducible assumption
    | with_reducible exact goodCheck_wait
    | with_reducible apply addressFault_good
    | with_reducible apply sramUncorr_good
    | with_reducible apply sramCorr_good
    | with_reducible apply wingsEarly_good
    | with_reducible apply goodCheck_ok
    | with_reducible apply goodCheck_stop
    | split

theorem checkWrites_good {Q : List Instr} {x : Ctx} {rs : List (Nat × Nat)} {s : State} (h_s : Good Q s) :
    GoodCheck Q (checkWrites x rs s) := by
  unfold Sys2Proof.Machine.checkWrites
  repeat' first
    | with_reducible assumption
    | with_reducible apply addressFault_good
    | with_reducible apply specEscape_good
    | with_reducible apply goodCheck_ok
    | with_reducible apply goodCheck_stop
    | split

theorem injectWord_good {Q : List Instr} {reg bit a : Nat} {s : State} (h_s : Good Q s) :
    Good Q (injectWord reg bit a s) := by
  unfold Sys2Proof.Machine.injectWord
  repeat' first
    | with_reducible assumption
    | with_reducible apply setEcc_good (q := Q)
    | with_reducible apply useInj_good
    | split

theorem State_store_good {Q : List Instr} {s : State} {a : Nat} {bs : List Byte} (h_s : Good Q s) :
    Good Q (Sys2Proof.Machine.State.store s a bs) := by
  unfold Sys2Proof.Machine.State.store
  repeat' first
    | with_reducible assumption
    | with_reducible apply write_good (q := Q)
    | with_reducible apply injectWord_good
    | split

theorem markPending_good {Q : List Instr} {x : Ctx} {a n : Nat} {s : State} (h_s : Good Q s) :
    Good Q (markPending x a n s) := by
  unfold Sys2Proof.Machine.markPending
  repeat' first
    | with_reducible assumption
    | with_reducible apply updCore_good
    | with_reducible exact coreOk_regs (by assumption)
    | with_reducible exact coreOk_shadow (by assumption) (by assumption)
    | (simp -zeta only [coreOk_lit_iff]; refine And.intro ?_ ?_)
    | intro x hx
    | split

theorem writeScr_good {Q : List Instr} {x : Ctx} {a : Nat} {bs : List Byte} {s : State} (h_s : Good Q s) :
    Good Q (writeScr x a bs s) := by
  unfold Sys2Proof.Machine.writeScr
  repeat' first
    | with_reducible assumption
    | with_reducible apply write_good (q := Q)
    | with_reducible apply injectWord_good
    | with_reducible apply markPending_good

theorem writeScrMasked_good {Q : List Instr} {x : Ctx} {a : Nat} {bs : List (Option Byte)} {s : State} (h_s : Good Q s) :
    Good Q (writeScrMasked x a bs s) := by
  unfold Sys2Proof.Machine.writeScrMasked
  repeat' first
    | with_reducible assumption
    | with_reducible apply writeMasked_good (q := Q)
    | with_reducible apply injectWord_good
    | with_reducible apply markPending_good
    | with_reducible apply good_foldl
    | intro x hx
    | split

end Sys2Proof.Laws
end

