-- ==== Sys2Proof/Laws/GoodFlags.lean ====
section
/-! SUPPORT. What each definition of Machine/Flags.lean keeps: the queue and the canonical form of every store. -/

namespace Sys2Proof.Laws

open Sys2Proof.Machine Sys2Proof.Safety

theorem guardWf_good {Q : List Instr} {i : Instr} {s : State} (h_s : Good Q s) :
    GoodOut Q (guardWf i s) := by
  unfold Sys2Proof.Machine.guardWf
  repeat' first
    | with_reducible assumption
    | with_reducible exact goodOut_fault
    | with_reducible apply goodOut_next
    | split

end Sys2Proof.Laws
end

