-- ==== Sys2Proof/Laws/GoodTime.lean ====
section
/-! SUPPORT. What each definition of Machine/Time.lean keeps: the queue and the canonical form of every store. -/

namespace Sys2Proof.Laws

open Sys2Proof.Machine Sys2Proof.Safety

theorem runTo_good {Q : List Instr} {t : Nat} {s : State} (h_s : Good Q s) :
    Good Q (runTo t s) := by
  unfold Sys2Proof.Machine.runTo
  repeat' first
    | with_reducible exact Good.mem_ok (q := Q) (by assumption)
    | with_reducible exact Good.regs_ok (q := Q) (by assumption)
    | with_reducible exact Good.ecc_ok (q := Q) (by assumption)
    | with_reducible exact Good.win_ok (q := Q) (by assumption)
    | with_reducible exact Good.cores_wf (q := Q) (by assumption)
    | with_reducible exact Good.cores_ok (q := Q) (by assumption)
    | with_reducible exact Good.stores_ok (q := Q) (by assumption)
    | with_reducible exact Good.pending (q := Q) (by assumption)
    | (extract_lets +onlyGivenNames x; clear_value x)
    | split
    | (simp -zeta only [good_lit_iff]; refine ⟨?_, ?_, ?_, ?_, ?_, ?_, ?_, ?_⟩)

theorem advanceTo_good {Q : List Instr} {t : Nat} {s : State} (h_s : Good Q s) :
    Good Q (advanceTo t s) := by
  unfold Sys2Proof.Machine.advanceTo
  repeat' first
    | with_reducible assumption
    | with_reducible apply runTo_good
    | split

end Sys2Proof.Laws
end

