-- ==== Sys2Proof/Laws/GoodWheel.lean ====
section
/-! SUPPORT. What each definition of Machine/Wheel.lean keeps: the queue and the canonical form of every store. -/

namespace Sys2Proof.Laws

open Sys2Proof.Machine Sys2Proof.Safety

theorem shareLine_good {Q : List Instr} {owns : List Nat} {a : Nat} {s : State} (h_s : Good Q s) :
    Good Q (shareLine owns a s) := by
  unfold Sys2Proof.Machine.shareLine
  repeat' first
    | with_reducible apply advanceTo_good
    | with_reducible exact Good.mem_ok (q := Q) (by assumption)
    | with_reducible exact Good.regs_ok (q := Q) (by assumption)
    | with_reducible exact Good.ecc_ok (q := Q) (by assumption)
    | with_reducible exact Good.win_ok (q := Q) (by assumption)
    | with_reducible exact Good.cores_wf (q := Q) (by assumption)
    | with_reducible exact Good.cores_ok (q := Q) (by assumption)
    | with_reducible exact Good.stores_ok (q := Q) (by assumption)
    | with_reducible exact Good.pending (q := Q) (by assumption)
    | (extract_lets +onlyGivenNames x; clear_value x)
    | (simp -zeta only [good_lit_iff]; refine ⟨?_, ?_, ?_, ?_, ?_, ?_, ?_, ?_⟩)

theorem shareLines_good {Q : List Instr} {owns : List Nat} {a n : Nat} {s : State} (h_s : Good Q s) :
    Good Q (shareLines owns a n s) := by
  unfold Sys2Proof.Machine.shareLines
  repeat' first
    | with_reducible assumption
    | with_reducible apply shareLine_good
    | with_reducible apply good_foldl
    | intro x hx

end Sys2Proof.Laws
end

