-- ==== Sys2Proof/Laws/GoodDataMover.lean ====
section
/-! SUPPORT. What each definition of Machine/DataMover.lean keeps: the queue and the canonical form of every store. -/

namespace Sys2Proof.Laws

open Sys2Proof.Machine Sys2Proof.Safety

theorem startMove_good {Q : List Instr} {x : Ctx} {src dst n : Nat} {s : State} (h_s : Good Q s) :
    GoodOpt Q (startMove x src dst n s) := by
  unfold Sys2Proof.Machine.startMove
  repeat' first
    | with_reducible assumption
    | with_reducible exact goodOpt_none
    | with_reducible apply operandRange_good
    | with_reducible apply addressFault_good
    | with_reducible apply specEscape_good
    | with_reducible apply goodOpt_some
    | with_reducible apply updCore_good
    | with_reducible exact coreOk_regs (by assumption)
    | with_reducible exact coreOk_shadow (by assumption) (by assumption)
    | (simp -zeta only [coreOk_lit_iff]; refine And.intro ?_ ?_)
    | intro x hx
    | (extract_lets +onlyGivenNames x; clear_value x)
    | split

theorem execDmov_good {Q : List Instr} {c : CoreId} {ps pd : BitVec 4} {gl : BitVec 6} {s : State} (h_s : Good Q s) :
    GoodOut Q (execDmov c ps pd gl s) := by
  unfold Sys2Proof.Machine.execDmov
  repeat' first
    | with_reducible assumption
    | with_reducible apply runUnit_good
    | with_reducible apply startMove_good
    | with_reducible apply goodOut_next
    | intro x hx

theorem execDmovi_good {Q : List Instr} {c : CoreId} {ps pd : BitVec 4} {len : BitVec 16} {s : State} (h_s : Good Q s) :
    GoodOut Q (execDmovi c ps pd len s) := by
  unfold Sys2Proof.Machine.execDmovi
  repeat' first
    | with_reducible assumption
    | with_reducible apply runUnit_good
    | with_reducible apply startMove_good
    | with_reducible apply goodOut_next
    | intro x hx

theorem stackCorr_good {Q : List Instr} {stack n : Nat} {s : State} (h_s : Good Q s) :
    Good Q (stackCorr stack n s) := by
  unfold Sys2Proof.Machine.stackCorr
  repeat' first
    | with_reducible assumption
    | with_reducible apply setFld_good (q := Q)
    | with_reducible apply addSat_good (q := Q)
    | with_reducible apply raiseMany_good
    | split

theorem touchSource_good {dev core region : Nat} {f : SrcRegion → SrcRegion} {k : Core} (h_k : CoreOk k) :
    CoreOk (touchSource dev core region f k) := by
  unfold Sys2Proof.Machine.touchSource
  repeat' first
    | with_reducible exact coreOk_regs (by assumption)
    | with_reducible exact coreOk_shadow (by assumption) (by assumption)
    | (simp -zeta only [coreOk_lit_iff]; refine And.intro ?_ ?_)
    | intro x hx
    | split

theorem noteSent_shadow {n : SentRec} {r : Region} : (noteSent n r).shadow = r.shadow := by
  unfold noteSent
  split <;> rfl

theorem markMoved_good {Q : List Instr} {c : CoreId} {region : Option Nat} {dst : Nat} {s : State} (h : Good Q s) :
    Good Q (markMoved c region dst s) := by
  unfold markMoved
  split
  · split
    · exact updCore_good (fun k hk => hk) h
    · refine updCore_good (fun k hk => ⟨hk.1, shadow_map hk.2 fun r hr => by rw [noteSent_shadow]; exact hr⟩) ?_
      exact updCore_good (fun k hk => touchSource_good hk) h
  · exact h

theorem moverEarly_good {Q : List Instr} {c : CoreId} {t : DmXfer} {s : State} (h_s : Good Q s) :
    Good Q (moverEarly c t s) := by
  unfold Sys2Proof.Machine.moverEarly
  repeat' first
    | with_reducible assumption
    | with_reducible apply wingsEarly_good

theorem moverRead_good {Q : List Instr} {c : CoreId} {t : DmXfer} {a : Nat} {s : State} (h_s : Good Q s) :
    Good Q (moverRead c t a s).2 := by
  unfold Sys2Proof.Machine.moverRead
  repeat' first
    | with_reducible assumption
    | with_reducible apply sramUncorr_good
    | with_reducible apply stackUncorr_good
    | with_reducible apply sramCorr_good
    | with_reducible apply stackCorr_good
    | with_reducible apply moverEarly_good
    | (extract_lets +onlyGivenNames x; clear_value x)
    | split

theorem useSlot_good {Q : List Instr} {c : CoreId} {l : LineTime} {s : State} (h_s : Good Q s) :
    Good Q (useSlot c l s) := by
  unfold Sys2Proof.Machine.useSlot
  repeat' first
    | with_reducible assumption
    | with_reducible apply updCore_good
    | with_reducible exact coreOk_regs (by assumption)
    | with_reducible exact coreOk_shadow (by assumption) (by assumption)
    | (simp -zeta only [coreOk_lit_iff]; refine And.intro ?_ ?_)
    | intro x hx
    | split

theorem Core_lineMoved_good {k : Core} {i : Nat} {t : DmXfer} (h_k : CoreOk k) :
    CoreOk (Sys2Proof.Machine.Core.lineMoved k i t) := by
  unfold Sys2Proof.Machine.Core.lineMoved
  repeat' first
    | with_reducible exact coreOk_regs (by assumption)
    | with_reducible exact coreOk_shadow (by assumption) (by assumption)
    | (simp -zeta only [coreOk_lit_iff]; refine And.intro ?_ ?_)
    | intro x hx
    | split

theorem execDataMoverLine_good {Q : List Instr} {c : CoreId} {k : Nat} {s : State} (h_s : Good Q s) :
    GoodOut Q (execDataMoverLine c k s) := by
  unfold Sys2Proof.Machine.execDataMoverLine
  repeat' first
    | with_reducible assumption
    | with_reducible apply advanceTo_good
    | with_reducible apply State_store_good
    | with_reducible apply markMoved_good
    | with_reducible apply moverRead_good
    | with_reducible apply useSlot_good
    | with_reducible apply Core_lineMoved_good
    | with_reducible apply goodOut_next
    | with_reducible apply updCore_good
    | intro x hx
    | (extract_lets +onlyGivenNames x; refine cut_of (p := Good Q x) ?_ fun hx => ?_; (on_goal 1 => (dsimp -zeta only [x]; clear x)); (on_goal 2 => clear_value x))
    | (extract_lets +onlyGivenNames x; clear_value x)
    | split

end Sys2Proof.Laws
end

