-- ==== Sys2Proof/Laws/GoodFree.lean ====
section
/-! SUPPORT. What each definition of Machine/Free.lean keeps: the queue and the canonical form of every store. -/

namespace Sys2Proof.Laws

open Sys2Proof.Machine Sys2Proof.Safety

theorem drawWord_good {Q : List Instr} {s : State} (h_s : Good Q s) :
    Good Q (drawWord s).2 := by
  unfold Sys2Proof.Machine.drawWord
  repeat' first
    | with_reducible exact Good.mem_ok (q := Q) (by assumption)
    | with_reducible exact Good.regs_ok (q := Q) (by assumption)
    | with_reducible exact Good.ecc_ok (q := Q) (by assumption)
    | with_reducible exact Good.win_ok (q := Q) (by assumption)
    | with_reducible exact Good.cores_wf (q := Q) (by assumption)
    | with_reducible exact Good.cores_ok (q := Q) (by assumption)
    | with_reducible exact Good.stores_ok (q := Q) (by assumption)
    | with_reducible exact Good.pending (q := Q) (by assumption)
    | dsimp -zeta only
    | (simp -zeta only [good_lit_iff]; refine ⟨?_, ?_, ?_, ?_, ?_, ?_, ?_, ?_⟩)

theorem drawBytes_good {Q : List Instr} {n : Nat} {s : State} (h_s : Good Q s) :
    Good Q (drawBytes n s).2 := by
  unfold Sys2Proof.Machine.drawBytes
  repeat' first
    | with_reducible exact Good.mem_ok (q := Q) (by assumption)
    | with_reducible exact Good.regs_ok (q := Q) (by assumption)
    | with_reducible exact Good.ecc_ok (q := Q) (by assumption)
    | with_reducible exact Good.win_ok (q := Q) (by assumption)
    | with_reducible exact Good.cores_wf (q := Q) (by assumption)
    | with_reducible exact Good.cores_ok (q := Q) (by assumption)
    | with_reducible exact Good.stores_ok (q := Q) (by assumption)
    | with_reducible exact Good.pending (q := Q) (by assumption)
    | dsimp -zeta only
    | (simp -zeta only [good_lit_iff]; refine ⟨?_, ?_, ?_, ?_, ?_, ?_, ?_, ?_⟩)

end Sys2Proof.Laws
end

