-- ==== Sys2Proof/Laws/GoodColdFrame.lean ====
section
/-! SUPPORT. What each definition of Machine/ColdFrame.lean keeps: the queue and the canonical form of every store. -/

namespace Sys2Proof.Laws

open Sys2Proof.Machine Sys2Proof.Safety

theorem Core_setCf_good {k : Core} {p : Nat} {e : CfEntry} (h_k : CoreOk k) :
    CoreOk (Sys2Proof.Machine.Core.setCf k p e) := by
  unfold Sys2Proof.Machine.Core.setCf
  repeat' first
    | with_reducible exact coreOk_regs (by assumption)
    | with_reducible exact coreOk_shadow (by assumption) (by assumption)
    | (simp -zeta only [coreOk_lit_iff]; refine And.intro ?_ ?_)
    | intro x hx

theorem copyPage_good {Q : List Instr} {src dst : Nat} {s : State} (h_s : Good Q s) :
    Good Q (copyPage src dst s) := by
  unfold Sys2Proof.Machine.copyPage
  repeat' first
    | with_reducible assumption
    | with_reducible apply write_good (q := Q)
    | with_reducible apply wf_foldl
    | with_reducible exact Good.mem_ok (q := Q) (by assumption)
    | with_reducible exact Good.regs_ok (q := Q) (by assumption)
    | with_reducible exact Good.ecc_ok (q := Q) (by assumption)
    | with_reducible exact Good.win_ok (q := Q) (by assumption)
    | with_reducible exact Good.cores_wf (q := Q) (by assumption)
    | with_reducible exact Good.cores_ok (q := Q) (by assumption)
    | with_reducible exact Good.stores_ok (q := Q) (by assumption)
    | with_reducible exact Good.pending (q := Q) (by assumption)
    | exact SMap.wf_set (d := fun _ => Ecc.ok) _ _ (by assumption)
    | intro x hx
    | intro x
    | (extract_lets +onlyGivenNames x; refine cut_of (p := Good Q x) ?_ fun hx => ?_; (on_goal 1 => (dsimp -zeta only [x]; clear x)); (on_goal 2 => clear_value x))
    | split
    | (simp -zeta only [good_lit_iff]; refine ⟨?_, ?_, ?_, ?_, ?_, ?_, ?_, ?_⟩)

theorem setPage_good {Q : List Instr} {c : CoreId} {p i : Nat} {l : CfLoc} {s : State} (h_s : Good Q s) :
    Good Q (setPage c p i l s) := by
  unfold Sys2Proof.Machine.setPage
  repeat' first
    | with_reducible assumption
    | with_reducible apply Core_setCf_good
    | with_reducible apply updCore_good
    | intro x hx

theorem startSpill_good {Q : List Instr} {c : CoreId} {s : State} (h_s : Good Q s) :
    GoodOpt Q (startSpill c s) := by
  unfold Sys2Proof.Machine.startSpill
  repeat' first
    | with_reducible assumption
    | with_reducible exact goodOpt_none
    | with_reducible apply setPage_good
    | with_reducible apply goodOpt_some
    | split

theorem evict_good {Q : List Instr} {x : Ctx} {s : State} (h_s : Good Q s) :
    Good Q (evict x s) := by
  unfold Sys2Proof.Machine.evict
  repeat' first
    | with_reducible assumption
    | with_reducible apply setFld_good (q := Q)
    | with_reducible apply addSat_good (q := Q)
    | with_reducible apply logEvent_good
    | with_reducible apply Core_setCf_good
    | with_reducible apply updCore_good
    | intro x hx
    | split

theorem frameUncorr_good {Q : List Instr} {x : Ctx} {a : Nat} {o : Origin} {s : State} (h_s : Good Q s) :
    Good Q (frameUncorr x a o s) := by
  unfold Sys2Proof.Machine.frameUncorr
  repeat' first
    | with_reducible assumption
    | with_reducible apply setFld_good (q := Q)
    | with_reducible apply raise_good
    | with_reducible apply spdInfo_good

theorem coldFault_good {Q : List Instr} {x : Ctx} {kind plan a : Nat} {injected : Bool} {s : State} (h_s : Good Q s) :
    Good Q (coldFault x kind plan a injected s) := by
  unfold Sys2Proof.Machine.coldFault
  repeat' first
    | with_reducible assumption
    | with_reducible apply setFld_good (q := Q)
    | with_reducible apply raise_good
    | with_reducible apply stopCore_good
    | with_reducible apply regionFault_good
    | with_reducible apply frameUncorr_good
    | (extract_lets +onlyGivenNames x; refine cut_of (p := Good Q x) ?_ fun hx => ?_; (on_goal 1 => (dsimp -zeta only [x]; clear x)); (on_goal 2 => clear_value x))
    | (extract_lets +onlyGivenNames x; clear_value x)
    | split

theorem makeRoom_good {Q : List Instr} {x : Ctx} {plan n : Nat} {s : State} (h : Good Q s) : Good Q (makeRoom x plan n s) := by
  induction' n with n ih generalizing s <;> unfold makeRoom
  repeat' first
    | with_reducible assumption
    | with_reducible apply startSpill_good
    | with_reducible apply evict_good
    | with_reducible refine good_some (by assumption) ?_
    | (extract_lets +onlyGivenNames x; refine cut_of (p := Good Q x) ?_ fun hx => ?_; (on_goal 1 => (dsimp -zeta only [x]; clear x)); (on_goal 2 => clear_value x))
    | split
    | apply ih

theorem openEntry_good {plan : Nat} {enc : BitVec 2} {ff : Bool} {k : Core} (h_k : CoreOk k) :
    CoreOk (openEntry plan enc ff k) := by
  unfold Sys2Proof.Machine.openEntry
  repeat' first
    | with_reducible assumption
    | with_reducible apply Core_setCf_good

theorem putGroup_good {Q : List Instr} {x : Ctx} {plan : Nat} {page : Option Nat} {bs : List Byte} {s : State} (h_s : Good Q s) :
    Good Q (putGroup x plan page bs s) := by
  unfold Sys2Proof.Machine.putGroup
  repeat' first
    | with_reducible assumption
    | with_reducible apply write_good (q := Q)
    | with_reducible apply injectWord_good
    | with_reducible apply Core_setCf_good
    | with_reducible apply updCore_good
    | intro x hx
    | split

theorem Core_olderFrame_good {x : Ctx} {k : Core} (h : CoreOk k) : CoreOk (Sys2Proof.Machine.Core.olderFrame x k) := by
  refine ⟨h.1, shadow_map h.2 fun r hr => ?_⟩
  split <;> exact hr

theorem storeGroup_good {Q : List Instr} {x : Ctx} {v : BitVec 5} {g : BitVec 6} {plan : Nat} {page : Option Nat} {s : State}
    (h : Good Q s) : Good Q (storeGroup x v g plan page s) := by
  unfold storeGroup
  extract_lets +onlyGivenNames e
  clear_value e
  generalize hp : (if e.enc = 1 then drawBytes 64 s else ([], s)) = p
  have h2 : Good Q p.2 := by
    subst hp
    split
    · exact drawBytes_good h
    · exact h
  obtain ⟨free, s2⟩ := p
  generalize encodeGroup e.enc e.ff (x.regs.gr g) (x.regs.vr v) free = w
  obtain ⟨bs, ovf⟩ := w
  dsimp -zeta only
  refine putGroup_good ?_
  split
  · exact setFld_good h2
  · exact h2

theorem runStash_good {Q : List Instr} {x : Ctx} {v : BitVec 5} {enc : BitVec 2} {ff : Bool} {g : BitVec 6} {plan : Nat} {s : State} (h_s : Good Q s) :
    Good Q (runStash x v enc ff g plan s) := by
  unfold Sys2Proof.Machine.runStash
  repeat' first
    | with_reducible assumption
    | with_reducible apply Core_setCf_good
    | with_reducible apply coldFault_good
    | with_reducible apply openEntry_good
    | with_reducible apply storeGroup_good
    | with_reducible apply updCore_good
    | intro x hx
    | (extract_lets +onlyGivenNames x; refine cut_of (p := Good Q x) ?_ fun hx => ?_; (on_goal 1 => (dsimp -zeta only [x]; clear x)); (on_goal 2 => clear_value x))
    | split

theorem stashRoom_good {Q : List Instr} {x : Ctx} {enc : BitVec 2} {ff : Bool} {plan : Nat} {s : State} (h_s : Good Q s) :
    Good Q (stashRoom x enc ff plan s) := by
  unfold Sys2Proof.Machine.stashRoom
  repeat' first
    | with_reducible assumption
    | with_reducible apply makeRoom_good
    | with_reducible apply openEntry_good
    | with_reducible apply updCore_good
    | (extract_lets +onlyGivenNames x; refine cut_of (p := Good Q x) ?_ fun hx => ?_; (on_goal 1 => (dsimp -zeta only [x]; clear x)); (on_goal 2 => clear_value x))
    | split

theorem execStash_good {Q : List Instr} {c : CoreId} {v : BitVec 5} {enc : BitVec 2} {ff : Bool} {g : BitVec 6} {plan : BitVec 12} {s : State} (h_s : Good Q s) :
    GoodOut Q (execStash c v enc ff g plan s) := by
  unfold Sys2Proof.Machine.execStash
  repeat' first
    | with_reducible assumption
    | with_reducible exact goodOpt_none
    | with_reducible apply runUnit_good
    | with_reducible apply guardWf_good
    | with_reducible apply Core_olderFrame_good
    | with_reducible apply runStash_good
    | with_reducible apply stashRoom_good
    | with_reducible apply goodOpt_some
    | with_reducible apply updCore_good
    | intro x hx
    | intro x
    | split

theorem startReadback_good {Q : List Instr} {c : CoreId} {p i : Nat} {s : State} (h_s : Good Q s) :
    Good Q (startReadback c p i s) := by
  unfold Sys2Proof.Machine.startReadback
  repeat' first
    | with_reducible assumption
    | with_reducible apply setPage_good
    | split

theorem runUnstash_good {Q : List Instr} {x : Ctx} {vd : BitVec 5} {enc : BitVec 2} {ff : Bool} {plan : Nat} {s : State} (h_s : Good Q s) :
    GoodOpt Q (runUnstash x vd enc ff plan s) := by
  unfold Sys2Proof.Machine.runUnstash
  repeat' first
    | with_reducible assumption
    | with_reducible exact goodOpt_none
    | with_reducible apply raiseMany_good
    | with_reducible apply wr_good
    | with_reducible apply Core_setCf_good
    | with_reducible apply coldFault_good
    | with_reducible apply startReadback_good
    | with_reducible apply goodOpt_some
    | with_reducible apply updCore_good
    | with_reducible apply setV_ok
    | intro x hx
    | (extract_lets +onlyGivenNames x; refine cut_of (p := Good Q x) ?_ fun hx => ?_; (on_goal 1 => (dsimp -zeta only [x]; clear x)); (on_goal 2 => clear_value x))
    | (extract_lets +onlyGivenNames x; refine cut_of (p := ∀ a s, Good Q s → Good Q (x a s)) ?_ fun hfun => ?_; (on_goal 1 => (dsimp -zeta only [x]; clear x)); (on_goal 2 => clear_value x))
    | (extract_lets +onlyGivenNames x; clear_value x)
    | split
    | extract_lets +onlyGivenNames x
    | with_reducible apply hfun

theorem execUnstash_good {Q : List Instr} {c : CoreId} {vd : BitVec 5} {enc : BitVec 2} {ff : Bool} {plan : BitVec 12} {s : State} (h_s : Good Q s) :
    GoodOut Q (execUnstash c vd enc ff plan s) := by
  unfold Sys2Proof.Machine.execUnstash
  repeat' first
    | with_reducible assumption
    | with_reducible apply runUnit_good
    | with_reducible apply guardWf_good
    | with_reducible apply Core_setCf_good
    | with_reducible apply Core_olderFrame_good
    | with_reducible apply startReadback_good
    | with_reducible apply runUnstash_good
    | with_reducible apply goodOpt_mapState
    | with_reducible apply updCore_good
    | intro x hx
    | intro x
    | split

theorem execFrameSpill_good {Q : List Instr} {c : CoreId} {s : State} (h_s : Good Q s) :
    GoodOut Q (execFrameSpill c s) := by
  unfold Sys2Proof.Machine.execFrameSpill
  repeat' first
    | with_reducible assumption
    | with_reducible apply startSpill_good
    | with_reducible apply goodOut_next
    | with_reducible apply good_getD
    | split

theorem frameTurn_good {Q : List Instr} {c : CoreId} {a : Nat} {s : State} (h_s : Good Q s) :
    Good Q (frameTurn c a s) := by
  unfold Sys2Proof.Machine.frameTurn
  repeat' first
    | with_reducible assumption
    | with_reducible apply advanceTo_good

theorem readbackBad_good {Q : List Instr} {a : Nat} {s0 s : State} (h_s0 : Good Q s0) (h_s : Good Q s) :
    Good Q (readbackBad a s0 s) := by
  unfold Sys2Proof.Machine.readbackBad
  repeat' first
    | with_reducible assumption
    | with_reducible apply setFld_good (q := Q)
    | split

theorem execFrameSpillDone_good {Q : List Instr} {c : CoreId} {s : State} (h_s : Good Q s) :
    GoodOut Q (execFrameSpillDone c s) := by
  unfold Sys2Proof.Machine.execFrameSpillDone
  repeat' first
    | with_reducible assumption
    | with_reducible apply storeCorr_good
    | with_reducible apply injectWord_good
    | with_reducible apply copyPage_good
    | with_reducible apply setPage_good
    | with_reducible apply frameTurn_good
    | with_reducible apply goodOut_next
    | split

theorem execFrameReadbackDone_good {Q : List Instr} {c : CoreId} {s : State} (h_s : Good Q s) :
    GoodOut Q (execFrameReadbackDone c s) := by
  unfold Sys2Proof.Machine.execFrameReadbackDone
  repeat' first
    | with_reducible assumption
    | with_reducible apply injectWord_good
    | with_reducible apply stackCorr_good
    | with_reducible apply copyPage_good
    | with_reducible apply setPage_good
    | with_reducible apply frameTurn_good
    | with_reducible apply readbackBad_good
    | with_reducible apply goodOut_next
    | split

end Sys2Proof.Laws
end

