-- ==== Sys2Proof/Laws/GoodTrellis.lean ====
section
/-! SUPPORT. What each definition of Machine/Trellis.lean keeps: the queue and the canonical form of every store. -/

namespace Sys2Proof.Laws

open Sys2Proof.Machine Sys2Proof.Safety

theorem writeTrl_good {Q : List Instr} {c : CoreId} {keepErr : Bool} {a : Nat} {bs : List Byte} {s : State} (h_s : Good Q s) :
    Good Q (writeTrl c keepErr a bs s) := by
  unfold Sys2Proof.Machine.writeTrl
  repeat' first
    | with_reducible assumption
    | with_reducible apply write_good (q := Q)
    | with_reducible apply injectWord_good
    | with_reducible apply wf_foldl
    | with_reducible refine Good.mem_ok (q := Q) ?_
    | with_reducible refine Good.regs_ok (q := Q) ?_
    | with_reducible refine Good.ecc_ok (q := Q) ?_
    | with_reducible refine Good.win_ok (q := Q) ?_
    | with_reducible refine Good.cores_wf (q := Q) ?_
    | with_reducible refine Good.cores_ok (q := Q) ?_
    | with_reducible refine Good.stores_ok (q := Q) ?_
    | with_reducible refine Good.pending (q := Q) ?_
    | exact SMap.wf_set (d := fun _ => Ecc.ok) _ _ (by assumption)
    | intro x hx
    | intro x
    | split
    | (simp -zeta only [good_lit_iff]; refine ⟨?_, ?_, ?_, ?_, ?_, ?_, ?_, ?_⟩)

theorem writeAcc_good {Q : List Instr} {c : CoreId} {granule : Nat} {c160 keepErr : Bool} {idx : Nat} {x : Accum} {s : State} (h_s : Good Q s) :
    Good Q (writeAcc c granule c160 keepErr idx x s) := by
  unfold Sys2Proof.Machine.writeAcc
  repeat' first
    | with_reducible assumption
    | with_reducible apply writeTrl_good

theorem Core_updTile_good {k : Core} {granule : Nat} {f : Tile → Tile} (h_k : CoreOk k) :
    CoreOk (Sys2Proof.Machine.Core.updTile k granule f) := by
  unfold Sys2Proof.Machine.Core.updTile
  repeat' first
    | with_reducible exact coreOk_regs (by assumption)
    | with_reducible exact coreOk_shadow (by assumption) (by assumption)
    | (simp -zeta only [coreOk_lit_iff]; refine And.intro ?_ ?_)
    | intro x hx

theorem Core_freeTile_good {k : Core} {granule : Nat} (h_k : CoreOk k) :
    CoreOk (Sys2Proof.Machine.Core.freeTile k granule) := by
  unfold Sys2Proof.Machine.Core.freeTile
  repeat' first
    | with_reducible exact coreOk_regs (by assumption)
    | with_reducible exact coreOk_shadow (by assumption) (by assumption)
    | (simp -zeta only [coreOk_lit_iff]; refine And.intro ?_ ?_)
    | intro x hx

theorem repotEvent_good {Q : List Instr} {c : CoreId} {region : Nat} {ts : List Trig} {bundle slot : Nat} {wings : Bool} {s : State} (h_s : Good Q s) :
    Good Q (repotEvent c region ts bundle slot wings s) := by
  unfold Sys2Proof.Machine.repotEvent
  repeat' first
    | with_reducible assumption
    | with_reducible apply setFld_good (q := Q)
    | with_reducible apply logEvent_good
    | (extract_lets +onlyGivenNames x; clear_value x)
    | split

theorem repotTrigger_good {Q : List Instr} {c : CoreId} {region : Option Nat} {ts : List Trig} {bundle slot : Nat} {s : State} (h_s : Good Q s) :
    Good Q (repotTrigger c region ts bundle slot s) := by
  unfold Sys2Proof.Machine.repotTrigger
  repeat' first
    | with_reducible assumption
    | with_reducible apply addSat_good (q := Q)
    | with_reducible apply repotEvent_good
    | with_reducible apply updCore_good
    | with_reducible exact coreOk_regs (by assumption)
    | with_reducible exact coreOk_shadow (by assumption) (by assumption)
    | with_reducible apply shadow_map
    | (simp -zeta only [coreOk_lit_iff]; refine And.intro ?_ ?_)
    | intro x hx
    | split

theorem overflowMet_good {Q : List Instr} {c : CoreId} {t : Tile} {p : PPartial} {s : State} (h_s : Good Q s) :
    Good Q (overflowMet c t p s) := by
  unfold Sys2Proof.Machine.overflowMet
  repeat' first
    | with_reducible assumption
    | with_reducible apply Core_updTile_good
    | with_reducible apply repotTrigger_good
    | with_reducible apply updCore_good
    | intro x hx

theorem promote_good {Q : List Instr} {c : CoreId} {t : Tile} {p : PPartial} {kind : Nat} {s : State} (h_s : Good Q s) :
    Good Q (promote c t p kind s) := by
  unfold Sys2Proof.Machine.promote
  repeat' first
    | with_reducible assumption
    | with_reducible apply setFld_good (q := Q)
    | with_reducible apply addSat_good (q := Q)
    | with_reducible apply logEvent_good
    | with_reducible apply Core_updTile_good
    | with_reducible apply overflowMet_good
    | with_reducible apply updCore_good
    | intro x hx
    | (extract_lets +onlyGivenNames x; refine cut_of (p := Good Q x) ?_ fun hx => ?_; (on_goal 1 => (dsimp -zeta only [x]; clear x)); (on_goal 2 => clear_value x))
    | (extract_lets +onlyGivenNames x; clear_value x)
    | split

theorem c160Triggers_good {Q : List Instr} {c : CoreId} {t : Tile} {x : Accum} {p : PPartial} {s : State} (h_s : Good Q s) :
    Good Q (c160Triggers c t x p s) := by
  unfold Sys2Proof.Machine.c160Triggers
  repeat' first
    | with_reducible assumption
    | with_reducible apply overflowMet_good
    | with_reducible apply promote_good
    | split

theorem absorb_good {Q : List Instr} {c : CoreId} {t : Tile} {p : PPartial} {s : State} (h_s : Good Q s) :
    Good Q (absorb c t p s) := by
  unfold Sys2Proof.Machine.absorb
  repeat' first
    | with_reducible assumption
    | with_reducible apply setFld_good (q := Q)
    | with_reducible apply writeAcc_good
    | with_reducible apply c160Triggers_good
    | (extract_lets +onlyGivenNames x; refine cut_of (p := Good Q x) ?_ fun hx => ?_; (on_goal 1 => (dsimp -zeta only [x]; clear x)); (on_goal 2 => clear_value x))
    | (extract_lets +onlyGivenNames x; clear_value x)
    | split

theorem execPartialIntake_good {Q : List Instr} {c : CoreId} {s : State} (h_s : Good Q s) :
    GoodOut Q (execPartialIntake c s) := by
  unfold Sys2Proof.Machine.execPartialIntake
  repeat' first
    | with_reducible assumption
    | with_reducible apply advanceTo_good
    | with_reducible apply Core_updTile_good
    | with_reducible apply absorb_good
    | with_reducible apply goodOut_next
    | with_reducible apply updCore_good
    | with_reducible exact coreOk_regs (by assumption)
    | with_reducible exact coreOk_shadow (by assumption) (by assumption)
    | (simp -zeta only [coreOk_lit_iff]; refine And.intro ?_ ?_)
    | intro x hx
    | (extract_lets +onlyGivenNames x; refine cut_of (p := Good Q x) ?_ fun hx => ?_; (on_goal 1 => (dsimp -zeta only [x]; clear x)); (on_goal 2 => clear_value x))
    | split

end Sys2Proof.Laws
end

