-- ==== Sys2Proof/Laws/GoodMesh.lean ====
section
/-! SUPPORT. What each definition of Machine/Mesh.lean keeps: the queue and the canonical form of every store. -/

namespace Sys2Proof.Laws

open Sys2Proof.Machine Sys2Proof.Safety

theorem startTile_good {Q : List Instr} {c : CoreId} {t : Tile} {s : State} (h_s : Good Q s) :
    Good Q (startTile c t s) := by
  unfold Sys2Proof.Machine.startTile
  repeat' first
    | with_reducible assumption
    | with_reducible apply writeAcc_good
    | with_reducible apply good_foldl
    | intro x hx

theorem openTile_good {Q : List Instr} {x : Ctx} {acc : Desc} {ovw : Bool} {s : State} (h_s : Good Q s) :
    Good Q (openTile x acc ovw s) := by
  unfold Sys2Proof.Machine.openTile
  repeat' first
    | with_reducible assumption
    | with_reducible apply startTile_good
    | with_reducible apply updCore_good
    | with_reducible exact coreOk_regs (by assumption)
    | with_reducible exact coreOk_shadow (by assumption) (by assumption)
    | (simp -zeta only [coreOk_lit_iff]; refine And.intro ?_ ?_)
    | intro x hx
    | (extract_lets +onlyGivenNames x; clear_value x)
    | split

theorem sendPartials_good {Q : List Instr} {c : CoreId} {granule : Nat} {ps : List PPartial} {after : Nat} {s : State} (h_s : Good Q s) :
    Good Q (sendPartials c granule ps after s) := by
  unfold Sys2Proof.Machine.sendPartials
  repeat' first
    | with_reducible assumption
    | with_reducible apply Core_updTile_good
    | with_reducible apply updCore_good
    | with_reducible exact coreOk_regs (by assumption)
    | with_reducible exact coreOk_shadow (by assumption) (by assumption)
    | (simp -zeta only [coreOk_lit_iff]; refine And.intro ?_ ?_)
    | intro x hx
    | (extract_lets +onlyGivenNames x; refine cut_of (p := CoreOk x) ?_ fun hx => ?_; (on_goal 1 => (dsimp -zeta only [x]; clear x)); (on_goal 2 => clear_value x))
    | split

theorem runMma_good {Q : List Instr} {x : Ctx} {o : MmaOp} {ovw : Bool} {ts : Option Bool} {s : State} (h_s : Good Q s) :
    GoodOpt Q (runMma x o ovw ts s) := by
  unfold Sys2Proof.Machine.runMma
  repeat' first
    | with_reducible assumption
    | with_reducible exact goodOpt_none
    | with_reducible apply operandRange_good
    | with_reducible apply Reads_bind_good
    | with_reducible apply readScr_good
    | with_reducible apply Core_updTile_good
    | with_reducible apply openTile_good
    | with_reducible apply sendPartials_good
    | with_reducible apply goodOpt_some
    | with_reducible apply updCore_good
    | with_reducible exact coreOk_regs (by assumption)
    | with_reducible exact coreOk_shadow (by assumption) (by assumption)
    | (simp -zeta only [coreOk_lit_iff]; refine And.intro ?_ ?_)
    | intro x hx
    | (extract_lets +onlyGivenNames x; refine cut_of (p := CoreOk x) ?_ fun hx => ?_; (on_goal 1 => (dsimp -zeta only [x]; clear x)); (on_goal 2 => clear_value x))
    | split

theorem startMma_good {Q : List Instr} {c : CoreId} {i : Instr} {acc a b : BitVec 4} {ovw : Bool} {ts : Option Bool} {s : State} (h_s : Good Q s) :
    Good Q (startMma c i acc a b ovw ts s) := by
  unfold Sys2Proof.Machine.startMma
  repeat' first
    | with_reducible assumption
    | with_reducible apply operandRange_good
    | with_reducible apply runUnit_good
    | with_reducible apply runMma_good
    | with_reducible apply goodOpt_some
    | intro x hx
    | intro x
    | split

theorem execMma_good {Q : List Instr} {c : CoreId} {acc a b : BitVec 4} {ovw : Bool} {s : State} (h_s : Good Q s) :
    GoodOut Q (execMma c acc a b ovw s) := by
  unfold Sys2Proof.Machine.execMma
  repeat' first
    | with_reducible assumption
    | with_reducible apply startMma_good
    | with_reducible apply goodOut_next

theorem execMmat_good {Q : List Instr} {c : CoreId} {acc a b : BitVec 4} {ovw ts : Bool} {s : State} (h_s : Good Q s) :
    GoodOut Q (execMmat c acc a b ovw ts s) := by
  unfold Sys2Proof.Machine.execMmat
  repeat' first
    | with_reducible assumption
    | with_reducible apply startMma_good
    | with_reducible apply goodOut_next

theorem runVx_good {Q : List Instr} {x : Ctx} {acc : BitVec 4} {v : BitVec 5} {q : BitVec 3} {ovw : Bool} {g : BitVec 6} {row : Nat} {ok : Desc → Bool} {place : Desc → Nat → Option Nat} {s : State} (h_s : Good Q s) :
    GoodOpt Q (runVx x acc v q ovw g row ok place s) := by
  unfold Sys2Proof.Machine.runVx
  repeat' first
    | with_reducible assumption
    | with_reducible exact goodOpt_none
    | with_reducible apply operandRange_good
    | with_reducible apply Core_updTile_good
    | with_reducible apply openTile_good
    | with_reducible apply sendPartials_good
    | with_reducible apply goodOpt_some
    | with_reducible apply updCore_good
    | intro x hx
    | (extract_lets +onlyGivenNames x; refine cut_of (p := Good Q x) ?_ fun hx => ?_; (on_goal 1 => (dsimp -zeta only [x]; clear x)); (on_goal 2 => clear_value x))
    | (extract_lets +onlyGivenNames x; clear_value x)
    | split

theorem execVxsum_good {Q : List Instr} {c : CoreId} {acc : BitVec 4} {v : BitVec 5} {q : BitVec 3} {ovw : Bool} {row col : BitVec 7} {g : BitVec 6} {s : State} (h_s : Good Q s) :
    GoodOut Q (execVxsum c acc v q ovw row col g s) := by
  unfold Sys2Proof.Machine.execVxsum
  repeat' first
    | with_reducible assumption
    | with_reducible exact goodOpt_none
    | with_reducible apply runUnit_good
    | with_reducible apply runVx_good
    | with_reducible apply goodOut_next
    | intro x hx
    | intro x
    | split

theorem execVxacc_good {Q : List Instr} {c : CoreId} {acc : BitVec 4} {v : BitVec 5} {q : BitVec 3} {ovw : Bool} {row : BitVec 7} {h : Bool} {g : BitVec 6} {s : State} (h_s : Good Q s) :
    GoodOut Q (execVxacc c acc v q ovw row h g s) := by
  unfold Sys2Proof.Machine.execVxacc
  repeat' first
    | with_reducible assumption
    | with_reducible exact goodOpt_none
    | with_reducible apply runUnit_good
    | with_reducible apply runVx_good
    | with_reducible apply goodOut_next
    | intro x hx
    | intro x
    | split

end Sys2Proof.Laws
end

