-- ==== Sys2Proof/Laws/GoodDrain.lean ====
section
/-! SUPPORT. What each definition of Machine/Drain.lean keeps: the queue and the canonical form of every store. -/

namespace Sys2Proof.Laws

open Sys2Proof.Machine Sys2Proof.Safety

theorem trellisUncorr_good {Q : List Instr} {x : Ctx} {a : Nat} {injected : Bool} {s : State} (h_s : Good Q s) :
    Good Q (trellisUncorr x a injected s) := by
  unfold Sys2Proof.Machine.trellisUncorr
  repeat' first
    | with_reducible assumption
    | with_reducible apply setFld_good (q := Q)
    | with_reducible apply raise_good
    | with_reducible apply stopCore_good
    | with_reducible apply regionFault_good
    | with_reducible apply spdInfo_good
    | (extract_lets +onlyGivenNames x; refine cut_of (p := Good Q x) ?_ fun hx => ?_; (on_goal 1 => (dsimp -zeta only [x]; clear x)); (on_goal 2 => clear_value x))
    | (extract_lets +onlyGivenNames x; clear_value x)
    | split

theorem checkTile_good {Q : List Instr} {x : Ctx} {t : Tile} {s : State} (h_s : Good Q s) :
    GoodCheck Q (checkTile x t s) := by
  unfold Sys2Proof.Machine.checkTile
  repeat' first
    | with_reducible assumption
    | with_reducible apply raiseMany_good
    | with_reducible apply checkReads_good
    | with_reducible apply injectWord_good
    | with_reducible apply trellisUncorr_good
    | with_reducible apply goodCheck_ok
    | with_reducible apply goodCheck_stop
    | (extract_lets +onlyGivenNames x; clear_value x)
    | split

theorem passFence_good {Q : List Instr} {x : Ctx} {t : Tile} {s : State} (h_s : Good Q s) :
    Good Q (passFence x t s) := by
  unfold Sys2Proof.Machine.passFence
  repeat' first
    | with_reducible assumption
    | with_reducible apply setFld_good (q := Q)
    | with_reducible apply advanceTo_good
    | with_reducible apply updCore_good
    | with_reducible exact coreOk_regs (by assumption)
    | with_reducible exact coreOk_shadow (by assumption) (by assumption)
    | (simp -zeta only [coreOk_lit_iff]; refine And.intro ?_ ?_)
    | intro x hx
    | split

theorem holdPort_good {Q : List Instr} {c : CoreId} {at_ n : Nat} {s : State} (h_s : Good Q s) :
    Good Q (holdPort c at_ n s) := by
  unfold Sys2Proof.Machine.holdPort
  repeat' first
    | with_reducible assumption
    | with_reducible apply updCore_good
    | with_reducible exact coreOk_regs (by assumption)
    | with_reducible exact coreOk_shadow (by assumption) (by assumption)
    | (simp -zeta only [coreOk_lit_iff]; refine And.intro ?_ ?_)
    | intro x hx

theorem endReplay_good {Q : List Instr} {x : Ctx} {t : Tile} {cycles : Nat} {s : State} (h_s : Good Q s) :
    Good Q (endReplay x t cycles s) := by
  unfold Sys2Proof.Machine.endReplay
  repeat' first
    | with_reducible assumption
    | with_reducible apply setFld_good (q := Q)
    | with_reducible apply writeAcc_good
    | with_reducible apply good_foldl
    | intro x hx
    | (extract_lets +onlyGivenNames x; refine cut_of (p := Good Q x) ?_ fun hx => ?_; (on_goal 1 => (dsimp -zeta only [x]; clear x)); (on_goal 2 => clear_value x))
    | (extract_lets +onlyGivenNames x; clear_value x)
    | split

theorem nanTrap_good {Q : List Instr} {x : Ctx} {t : Tile} {treg : Nat} {es : List DrainElem} {s : State} (h_s : Good Q s) :
    Good Q (nanTrap x t treg es s) := by
  unfold Sys2Proof.Machine.nanTrap
  repeat' first
    | with_reducible assumption
    | with_reducible apply setFld_good (q := Q)
    | with_reducible apply raise_good
    | (extract_lets +onlyGivenNames x; clear_value x)
    | split

theorem wiltCount_good {Q : List Instr} {x : Ctx} {t : Tile} {acc : Desc} {es : List DrainElem} {zero : List Bool} {s : State} (h_s : Good Q s) :
    Good Q (wiltCount x t acc es zero s) := by
  unfold Sys2Proof.Machine.wiltCount
  repeat' first
    | with_reducible assumption
    | with_reducible apply updCore_good
    | with_reducible apply good_foldl
    | with_reducible exact Good.mem_ok (q := Q) (by assumption)
    | with_reducible exact Good.regs_ok (q := Q) (by assumption)
    | with_reducible exact Good.ecc_ok (q := Q) (by assumption)
    | with_reducible exact Good.win_ok (q := Q) (by assumption)
    | with_reducible exact Good.cores_wf (q := Q) (by assumption)
    | with_reducible exact Good.cores_ok (q := Q) (by assumption)
    | with_reducible exact Good.pending (q := Q) (by assumption)
    | with_reducible exact coreOk_regs (by assumption)
    | with_reducible exact coreOk_shadow (by assumption) (by assumption)
    | with_reducible apply shadow_map
    | (simp -zeta only [coreOk_lit_iff]; refine And.intro ?_ ?_)
    | intro x hx
    | intro x
    | (extract_lets +onlyGivenNames x; clear_value x)
    | split
    | (simp -zeta only [good_lit_iff]; refine ⟨?_, ?_, ?_, ?_, ?_, ?_, ?_, ?_⟩)
    | with_reducible exact StoresOk.links (Good.stores_ok (q := Q) (by assumption))
    | with_reducible exact StoresOk.used (Good.stores_ok (q := Q) (by assumption))
    | with_reducible exact StoresOk.red (Good.stores_ok (q := Q) (by assumption))
    | with_reducible exact StoresOk.wit (Good.stores_ok (q := Q) (by assumption))
    | with_reducible exact StoresOk.frostX (Good.stores_ok (q := Q) (by assumption))
    | with_reducible exact StoresOk.wlt (Good.stores_ok (q := Q) (by assumption))
    | with_reducible exact StoresOk.subkeys (Good.stores_ok (q := Q) (by assumption))
    | with_reducible apply SMap.wf_put
    | with_reducible apply storesOk_mk

theorem writeChunks_good {Q : List Instr} {x : Ctx} {cs : List Chunk} {s : State} (h_s : Good Q s) :
    Good Q (writeChunks x cs s) := by
  unfold Sys2Proof.Machine.writeChunks
  repeat' first
    | with_reducible assumption
    | with_reducible apply writeScr_good
    | with_reducible apply good_foldl
    | intro x hx

theorem doDrain_good {Q : List Instr} {x : Ctx} {t : Tile} {acc dst : Desc} {treg : Nat} {scale : Option (Val × Val)} {fmt : BitVec 4} {mode : Nat} {keep : Bool} {rel cycles : Nat} {s : State} (h_s : Good Q s) :
    GoodOpt Q (doDrain x t acc dst treg scale fmt mode keep rel cycles s) := by
  unfold Sys2Proof.Machine.doDrain
  repeat' first
    | with_reducible assumption
    | with_reducible apply useInj_good
    | with_reducible apply Check_bind_good
    | with_reducible apply checkWrites_good
    | with_reducible apply Core_updTile_good
    | with_reducible apply Core_freeTile_good
    | with_reducible apply repotTrigger_good
    | with_reducible apply checkTile_good
    | with_reducible apply holdPort_good
    | with_reducible apply endReplay_good
    | with_reducible apply nanTrap_good
    | with_reducible apply wiltCount_good
    | with_reducible apply writeChunks_good
    | with_reducible apply goodOpt_some
    | with_reducible apply updCore_good
    | with_reducible exact coreOk_regs (by assumption)
    | with_reducible exact coreOk_shadow (by assumption) (by assumption)
    | (simp -zeta only [coreOk_lit_iff]; refine And.intro ?_ ?_)
    | intro x hx
    | (extract_lets +onlyGivenNames x; refine cut_of (p := CoreOk x) ?_ fun hx => ?_; (on_goal 1 => (dsimp -zeta only [x]; clear x)); (on_goal 2 => clear_value x))
    | (extract_lets +onlyGivenNames x; clear_value x)
    | split

theorem fenceWait_good {Q : List Instr} {x : Ctx} {i : Instr} {replay : Option (Nat × Nat)} {s : State} (h_s : Good Q s) :
    Good Q (fenceWait x i replay s) := by
  unfold Sys2Proof.Machine.fenceWait
  repeat' first
    | with_reducible assumption
    | with_reducible apply updCore_good
    | with_reducible exact coreOk_regs (by assumption)
    | with_reducible exact coreOk_shadow (by assumption) (by assumption)
    | (simp -zeta only [coreOk_lit_iff]; refine And.intro ?_ ?_)
    | intro x hx

theorem beginReplay_good {Q : List Instr} {x : Ctx} {i : Instr} {rel : Nat} {s : State} (h_s : Good Q s) :
    Good Q (beginReplay x i rel s) := by
  unfold Sys2Proof.Machine.beginReplay
  repeat' first
    | with_reducible assumption
    | with_reducible apply drawWord_good
    | with_reducible apply fenceWait_good
    | with_reducible apply updCore_good
    | with_reducible exact coreOk_regs (by assumption)
    | with_reducible exact coreOk_shadow (by assumption) (by assumption)
    | (simp -zeta only [coreOk_lit_iff]; refine And.intro ?_ ?_)
    | intro x hx

theorem drainRelease_good {Q : List Instr} {x : Ctx} {i : Instr} {t : Tile} {da dd : Desc} {treg : Nat} {scale : Option (Val × Val)} {fmt : BitVec 4} {mode : Nat} {keep : Bool} {s : State} (h_s : Good Q s) :
    GoodOpt Q (drainRelease x i t da dd treg scale fmt mode keep s) := by
  unfold Sys2Proof.Machine.drainRelease
  repeat' first
    | with_reducible assumption
    | with_reducible apply passFence_good
    | with_reducible apply doDrain_good
    | with_reducible apply beginReplay_good
    | with_reducible apply goodOpt_some
    | (extract_lets +onlyGivenNames x; clear_value x)
    | split

theorem drainStart_good {Q : List Instr} {x : Ctx} {i : Instr} {acc dst sa sb fmt : BitVec 4} {mode : BitVec 2} {scl keep : Bool} {replayed : Option (Nat × Nat)} {s : State} (h_s : Good Q s) :
    GoodOpt Q (drainStart x i acc dst sa sb fmt mode scl keep replayed s) := by
  unfold Sys2Proof.Machine.drainStart
  repeat' first
    | with_reducible assumption
    | with_reducible exact goodOpt_none
    | with_reducible apply operandRange_good
    | with_reducible apply doDrain_good
    | with_reducible apply fenceWait_good
    | with_reducible apply drainRelease_good
    | with_reducible apply goodOpt_some
    | split

theorem execDrain_good {Q : List Instr} {c : CoreId} {acc dst sa sb fmt : BitVec 4} {mode : BitVec 2} {scl keep : Bool} {s : State} (h_s : Good Q s) :
    GoodOut Q (execDrain c acc dst sa sb fmt mode scl keep s) := by
  unfold Sys2Proof.Machine.execDrain
  repeat' first
    | with_reducible assumption
    | with_reducible exact goodOpt_none
    | with_reducible apply runUnit_good
    | with_reducible apply guardWf_good
    | with_reducible apply drainStart_good
    | intro x hx
    | intro x
    | split

theorem doSpill_good {Q : List Instr} {x : Ctx} {t : Tile} {acc : Desc} {rel cycles : Nat} {s : State} (h_s : Good Q s) :
    GoodOpt Q (doSpill x t acc rel cycles s) := by
  unfold Sys2Proof.Machine.doSpill
  repeat' first
    | with_reducible assumption
    | with_reducible apply Check_bind_good
    | with_reducible apply checkWrites_good
    | with_reducible apply writeScr_good
    | with_reducible apply Core_freeTile_good
    | with_reducible apply checkTile_good
    | with_reducible apply holdPort_good
    | with_reducible apply endReplay_good
    | with_reducible apply goodOpt_some
    | with_reducible apply updCore_good
    | with_reducible exact coreOk_regs (by assumption)
    | with_reducible exact coreOk_shadow (by assumption) (by assumption)
    | (simp -zeta only [coreOk_lit_iff]; refine And.intro ?_ ?_)
    | intro x hx
    | (extract_lets +onlyGivenNames x; refine cut_of (p := CoreOk x) ?_ fun hx => ?_; (on_goal 1 => (dsimp -zeta only [x]; clear x)); (on_goal 2 => clear_value x))

theorem spillUndefined_good {Q : List Instr} {x : Ctx} {a n : Nat} {s : State} (h_s : Good Q s) :
    Good Q (spillUndefined x a n s) := by
  unfold Sys2Proof.Machine.spillUndefined
  repeat' first
    | with_reducible assumption
    | with_reducible apply writeScr_good
    | with_reducible apply drawBytes_good

theorem spillMove_good {Q : List Instr} {x : Ctx} {t : Tile} {d : Desc} {rel cycles : Nat} {s : State} (h_s : Good Q s) :
    GoodOpt Q (spillMove x t d rel cycles s) := by
  unfold Sys2Proof.Machine.spillMove
  repeat' first
    | with_reducible assumption
    | with_reducible apply Check_bind_good
    | with_reducible apply checkWrites_good
    | with_reducible apply checkTile_good
    | with_reducible apply doSpill_good
    | with_reducible apply spillUndefined_good
    | with_reducible apply goodOpt_some
    | intro x hx
    | split

theorem spillRelease_good {Q : List Instr} {x : Ctx} {i : Instr} {t : Tile} {d : Desc} {s : State} (h_s : Good Q s) :
    GoodOpt Q (spillRelease x i t d s) := by
  unfold Sys2Proof.Machine.spillRelease
  repeat' first
    | with_reducible assumption
    | with_reducible apply passFence_good
    | with_reducible apply beginReplay_good
    | with_reducible apply spillMove_good
    | with_reducible apply goodOpt_some
    | (extract_lets +onlyGivenNames x; clear_value x)
    | split

theorem spillStart_good {Q : List Instr} {x : Ctx} {i : Instr} {acc : BitVec 4} {replayed : Option (Nat × Nat)} {s : State} (h_s : Good Q s) :
    GoodOpt Q (spillStart x i acc replayed s) := by
  unfold Sys2Proof.Machine.spillStart
  repeat' first
    | with_reducible assumption
    | with_reducible exact goodOpt_none
    | with_reducible apply operandRange_good
    | with_reducible apply fenceWait_good
    | with_reducible apply spillMove_good
    | with_reducible apply spillRelease_good
    | with_reducible apply goodOpt_some
    | split

theorem execSpill_good {Q : List Instr} {c : CoreId} {acc : BitVec 4} {s : State} (h_s : Good Q s) :
    GoodOut Q (execSpill c acc s) := by
  unfold Sys2Proof.Machine.execSpill
  repeat' first
    | with_reducible assumption
    | with_reducible exact goodOpt_none
    | with_reducible apply runUnit_good
    | with_reducible apply spillStart_good
    | with_reducible apply goodOut_next
    | intro x hx
    | intro x
    | split

theorem residueFailure_good {Q : List Instr} {x : Ctx} {row col : Nat} {res : Option (Nat × Nat)} {treg : Nat} {injected : Bool} {s : State} (h_s : Good Q s) :
    Good Q (residueFailure x row col res treg injected s) := by
  unfold Sys2Proof.Machine.residueFailure
  repeat' first
    | with_reducible assumption
    | with_reducible apply setFld_good (q := Q)
    | with_reducible apply raise_good
    | with_reducible apply stopCore_good
    | with_reducible apply regionFault_good
    | (extract_lets +onlyGivenNames x; refine cut_of (p := Good Q x) ?_ fun hx => ?_; (on_goal 1 => (dsimp -zeta only [x]; clear x)); (on_goal 2 => clear_value x))
    | (extract_lets +onlyGivenNames x; clear_value x)
    | split

theorem putFilled_good {Q : List Instr} {x : Ctx} {t : Tile} {s : State} (h_s : Good Q s) :
    Good Q (putFilled x t s) := by
  unfold Sys2Proof.Machine.putFilled
  repeat' first
    | with_reducible assumption
    | with_reducible apply updCore_good
    | with_reducible exact coreOk_regs (by assumption)
    | with_reducible exact coreOk_shadow (by assumption) (by assumption)
    | (simp -zeta only [coreOk_lit_iff]; refine And.intro ?_ ?_)
    | intro x hx

theorem loadImage_good {Q : List Instr} {x : Ctx} {d : Desc} {treg : Nat} {img : Nat × Nat} {t : Tile} {view s : State} (h_view : Good Q view) (h_s : Good Q s) :
    Good Q (loadImage x d treg img t view s) := by
  unfold Sys2Proof.Machine.loadImage
  repeat' first
    | with_reducible assumption
    | with_reducible apply sramCorr_good
    | with_reducible apply writeAcc_good
    | with_reducible apply residueFailure_good
    | with_reducible apply putFilled_good
    | with_reducible apply good_foldl
    | intro x hx
    | (extract_lets +onlyGivenNames x; refine cut_of (p := Good Q x) ?_ fun hx => ?_; (on_goal 1 => (dsimp -zeta only [x]; clear x)); (on_goal 2 => clear_value x))
    | (extract_lets +onlyGivenNames x; clear_value x)
    | split

theorem fillFrom_good {Q : List Instr} {x : Ctx} {d : Desc} {treg : Nat} {promoted : Bool} {img : Nat × Nat} {t : Tile} {kind : Option Nat} {s : State} (h_s : Good Q s) :
    GoodOpt Q (fillFrom x d treg promoted img t kind s) := by
  unfold Sys2Proof.Machine.fillFrom
  repeat' first
    | with_reducible assumption
    | with_reducible exact goodOpt_none
    | with_reducible apply addressFault_good
    | with_reducible apply advanceTo_good
    | with_reducible apply wingsEarly_good
    | with_reducible apply earlyView_good
    | with_reducible apply holdPort_good
    | with_reducible apply putFilled_good
    | with_reducible apply loadImage_good
    | with_reducible apply goodOpt_some
    | (extract_lets +onlyGivenNames x; refine cut_of (p := Good Q x) ?_ fun hx => ?_; (on_goal 1 => (dsimp -zeta only [x]; clear x)); (on_goal 2 => clear_value x))
    | (extract_lets +onlyGivenNames x; clear_value x)
    | split

theorem doFill_good {Q : List Instr} {x : Ctx} {d : Desc} {treg : Nat} {s : State} (h_s : Good Q s) :
    GoodOpt Q (doFill x d treg s) := by
  unfold Sys2Proof.Machine.doFill
  repeat' first
    | with_reducible assumption
    | with_reducible apply fillFrom_good

theorem execFill_good {Q : List Instr} {c : CoreId} {acc : BitVec 4} {s : State} (h_s : Good Q s) :
    GoodOut Q (execFill c acc s) := by
  unfold Sys2Proof.Machine.execFill
  repeat' first
    | with_reducible assumption
    | with_reducible exact goodOpt_none
    | with_reducible apply operandRange_good
    | with_reducible apply runUnit_good
    | with_reducible apply doFill_good
    | with_reducible apply goodOut_next
    | with_reducible apply goodOpt_some
    | intro x hx
    | intro x
    | split

theorem execResidueComparison_good {Q : List Instr} {c : CoreId} {s : State} (h_s : Good Q s) :
    GoodOut Q (execResidueComparison c s) := by
  unfold Sys2Proof.Machine.execResidueComparison
  repeat' first
    | with_reducible assumption
    | with_reducible apply advanceTo_good
    | with_reducible apply residueFailure_good
    | with_reducible apply goodOut_next
    | with_reducible apply updCore_good
    | with_reducible exact coreOk_regs (by assumption)
    | with_reducible exact coreOk_shadow (by assumption) (by assumption)
    | (simp -zeta only [coreOk_lit_iff]; refine And.intro ?_ ?_)
    | intro x hx
    | (extract_lets +onlyGivenNames x; refine cut_of (p := Good Q x) ?_ fun hx => ?_; (on_goal 1 => (dsimp -zeta only [x]; clear x)); (on_goal 2 => clear_value x))
    | (extract_lets +onlyGivenNames x; clear_value x)
    | split

end Sys2Proof.Laws
end

