-- ==== Sys2Proof/Laws/GoodFlit.lean ====
section
/-! SUPPORT. What each definition of Machine/Flit.lean keeps: the queue and the canonical form of every store. -/

namespace Sys2Proof.Laws

open Sys2Proof.Machine Sys2Proof.Safety

theorem State_setLink_good {Q : List Instr} {s : State} {k : Nat} {l : LinkSt} (h_s : Good Q s) :
    Good Q (Sys2Proof.Machine.State.setLink s k l) := by
  unfold Sys2Proof.Machine.State.setLink
  repeat' first
    | with_reducible exact Good.mem_ok (q := Q) (by assumption)
    | with_reducible exact Good.regs_ok (q := Q) (by assumption)
    | with_reducible exact Good.ecc_ok (q := Q) (by assumption)
    | with_reducible exact Good.win_ok (q := Q) (by assumption)
    | with_reducible exact Good.cores_wf (q := Q) (by assumption)
    | with_reducible exact Good.cores_ok (q := Q) (by assumption)
    | with_reducible exact Good.pending (q := Q) (by assumption)
    | (simp -zeta only [good_lit_iff]; refine ⟨?_, ?_, ?_, ?_, ?_, ?_, ?_, ?_⟩)
    | with_reducible exact StoresOk.links (Good.stores_ok (q := Q) (by assumption))
    | with_reducible exact StoresOk.used (Good.stores_ok (q := Q) (by assumption))
    | with_reducible exact StoresOk.red (Good.stores_ok (q := Q) (by assumption))
    | with_reducible exact StoresOk.wit (Good.stores_ok (q := Q) (by assumption))
    | with_reducible exact StoresOk.frostX (Good.stores_ok (q := Q) (by assumption))
    | with_reducible exact StoresOk.wlt (Good.stores_ok (q := Q) (by assumption))
    | with_reducible exact StoresOk.subkeys (Good.stores_ok (q := Q) (by assumption))
    | with_reducible apply SMap.wf_put
    | with_reducible apply storesOk_mk

theorem linkSay_good {Q : List Instr} {k what value : Nat} {s : State} (h_s : Good Q s) :
    Good Q (linkSay k what value s) := by
  unfold Sys2Proof.Machine.linkSay
  repeat' first
    | with_reducible exact Good.mem_ok (q := Q) (by assumption)
    | with_reducible exact Good.regs_ok (q := Q) (by assumption)
    | with_reducible exact Good.ecc_ok (q := Q) (by assumption)
    | with_reducible exact Good.win_ok (q := Q) (by assumption)
    | with_reducible exact Good.cores_wf (q := Q) (by assumption)
    | with_reducible exact Good.cores_ok (q := Q) (by assumption)
    | with_reducible exact Good.stores_ok (q := Q) (by assumption)
    | with_reducible exact Good.pending (q := Q) (by assumption)
    | (simp -zeta only [good_lit_iff]; refine ⟨?_, ?_, ?_, ?_, ?_, ?_, ?_, ?_⟩)

theorem putFlit_good {Q : List Instr} {k : Nat} {flip : Bool} {seq : Nat} {body : List Byte} {s : State} (h_s : Good Q s) :
    Good Q (putFlit k flip seq body s) := by
  unfold Sys2Proof.Machine.putFlit
  repeat' first
    | with_reducible assumption
    | with_reducible apply drawBytes_good
    | with_reducible refine good_snd (by assumption) ?_
    | with_reducible refine Good.mem_ok (q := Q) ?_
    | with_reducible refine Good.regs_ok (q := Q) ?_
    | with_reducible refine Good.ecc_ok (q := Q) ?_
    | with_reducible refine Good.win_ok (q := Q) ?_
    | with_reducible refine Good.cores_wf (q := Q) ?_
    | with_reducible refine Good.cores_ok (q := Q) ?_
    | with_reducible refine Good.stores_ok (q := Q) ?_
    | with_reducible refine Good.pending (q := Q) ?_
    | (extract_lets +onlyGivenNames x; clear_value x)
    | split
    | (simp -zeta only [good_lit_iff]; refine ⟨?_, ?_, ?_, ?_, ?_, ?_, ?_, ?_⟩)

theorem sendFlit_good {Q : List Instr} {k : Nat} {s : State} (h_s : Good Q s) :
    Good Q (sendFlit k s) := by
  unfold Sys2Proof.Machine.sendFlit
  repeat' first
    | with_reducible assumption
    | with_reducible apply useInj_good
    | with_reducible apply State_setLink_good
    | with_reducible apply linkSay_good
    | with_reducible apply putFlit_good
    | split

theorem formFlits_good {Q : List Instr} {k n : Nat} {s : State} (h : Good Q s) : Good Q (formFlits k n s) := by
  induction' n with n ih generalizing s <;> unfold formFlits
  repeat' first
    | with_reducible assumption
    | with_reducible apply sendFlit_good
    | split
    | apply ih

theorem sendBytes_good {Q : List Instr} {k : Nat} {bs : List Byte} {s : State} (h_s : Good Q s) :
    Good Q (sendBytes k bs s) := by
  unfold Sys2Proof.Machine.sendBytes
  repeat' first
    | with_reducible assumption
    | with_reducible apply State_setLink_good
    | with_reducible apply formFlits_good

theorem acknowledge_good {Q : List Instr} {k ack : Nat} {s : State} (h_s : Good Q s) :
    Good Q (acknowledge k ack s) := by
  unfold Sys2Proof.Machine.acknowledge
  repeat' first
    | with_reducible assumption
    | with_reducible apply State_setLink_good
    | with_reducible apply formFlits_good

theorem replayFlits_good {Q : List Instr} {k ack : Nat} {s : State} (h_s : Good Q s) :
    Good Q (replayFlits k ack s) := by
  unfold Sys2Proof.Machine.replayFlits
  repeat' first
    | with_reducible assumption
    | with_reducible apply addSat_good (q := Q)
    | with_reducible apply raise_good
    | with_reducible apply State_setLink_good
    | with_reducible apply putFlit_good
    | with_reducible apply good_foldl
    | intro x hx
    | (extract_lets +onlyGivenNames x; clear_value x)
    | split

end Sys2Proof.Laws
end

