-- ==== Sys2Proof/Laws/GoodFabric.lean ====
section
/-! SUPPORT. What each definition of Machine/Fabric.lean keeps: the queue and the canonical form of every store. -/

namespace Sys2Proof.Laws

open Sys2Proof.Machine Sys2Proof.Safety

theorem dropPkt_good {Q : List Instr} {reason link : Nat} {p : Pkt} {s : State} (h_s : Good Q s) :
    Good Q (dropPkt reason link p s) := by
  unfold Sys2Proof.Machine.dropPkt
  repeat' first
    | with_reducible assumption
    | with_reducible apply setFld_good (q := Q)
    | with_reducible apply addSat_good (q := Q)
    | with_reducible apply raise_good
    | split

theorem takeCredit_good {Q : List Instr} {key : Nat} {s : State} (h_s : Good Q s) :
    Good Q (takeCredit key s) := by
  unfold Sys2Proof.Machine.takeCredit
  repeat' first
    | with_reducible exact Good.mem_ok (q := Q) (by assumption)
    | with_reducible exact Good.regs_ok (q := Q) (by assumption)
    | with_reducible exact Good.ecc_ok (q := Q) (by assumption)
    | with_reducible exact Good.win_ok (q := Q) (by assumption)
    | with_reducible exact Good.cores_wf (q := Q) (by assumption)
    | with_reducible exact Good.cores_ok (q := Q) (by assumption)
    | with_reducible exact Good.pending (q := Q) (by assumption)
    | (extract_lets +onlyGivenNames x; clear_value x)
    | (simp -zeta only [good_lit_iff]; refine ⟨?_, ?_, ?_, ?_, ?_, ?_, ?_, ?_⟩)
    | with_reducible exact StoresOk.links (Good.stores_ok (q := Q) (by assumption))
    | with_reducible exact StoresOk.used (Good.stores_ok (q := Q) (by assumption))
    | with_reducible exact StoresOk.red (Good.stores_ok (q := Q) (by assumption))
    | with_reducible exact StoresOk.wit (Good.stores_ok (q := Q) (by assumption))
    | with_reducible exact StoresOk.frostX (Good.stores_ok (q := Q) (by assumption))
    | with_reducible exact StoresOk.wlt (Good.stores_ok (q := Q) (by assumption))
    | with_reducible exact StoresOk.subkeys (Good.stores_ok (q := Q) (by assumption))
    | with_reducible apply SMap.wf_put
    | with_reducible apply storesOk_mk

theorem giveCredit_good {Q : List Instr} {key : Nat} {s : State} (h_s : Good Q s) :
    Good Q (giveCredit key s) := by
  unfold Sys2Proof.Machine.giveCredit
  repeat' first
    | with_reducible exact Good.mem_ok (q := Q) (by assumption)
    | with_reducible exact Good.regs_ok (q := Q) (by assumption)
    | with_reducible exact Good.ecc_ok (q := Q) (by assumption)
    | with_reducible exact Good.win_ok (q := Q) (by assumption)
    | with_reducible exact Good.cores_wf (q := Q) (by assumption)
    | with_reducible exact Good.cores_ok (q := Q) (by assumption)
    | with_reducible exact Good.pending (q := Q) (by assumption)
    | (extract_lets +onlyGivenNames x; clear_value x)
    | (simp -zeta only [good_lit_iff]; refine ⟨?_, ?_, ?_, ?_, ?_, ?_, ?_, ?_⟩)
    | with_reducible exact StoresOk.links (Good.stores_ok (q := Q) (by assumption))
    | with_reducible exact StoresOk.used (Good.stores_ok (q := Q) (by assumption))
    | with_reducible exact StoresOk.red (Good.stores_ok (q := Q) (by assumption))
    | with_reducible exact StoresOk.wit (Good.stores_ok (q := Q) (by assumption))
    | with_reducible exact StoresOk.frostX (Good.stores_ok (q := Q) (by assumption))
    | with_reducible exact StoresOk.wlt (Good.stores_ok (q := Q) (by assumption))
    | with_reducible exact StoresOk.subkeys (Good.stores_ok (q := Q) (by assumption))
    | with_reducible apply SMap.wf_put
    | with_reducible apply storesOk_mk

theorem freeBuffer_good {Q : List Instr} {i : RxItem} {s : State} (h_s : Good Q s) :
    Good Q (freeBuffer i s) := by
  unfold Sys2Proof.Machine.freeBuffer
  repeat' first
    | with_reducible assumption
    | with_reducible exact Good.mem_ok (q := Q) (by assumption)
    | with_reducible exact Good.regs_ok (q := Q) (by assumption)
    | with_reducible exact Good.ecc_ok (q := Q) (by assumption)
    | with_reducible exact Good.win_ok (q := Q) (by assumption)
    | with_reducible exact Good.cores_wf (q := Q) (by assumption)
    | with_reducible exact Good.cores_ok (q := Q) (by assumption)
    | with_reducible exact Good.pending (q := Q) (by assumption)
    | (extract_lets +onlyGivenNames x; refine cut_of (p := SMap.wf (fun _ => (0 : Nat)) x.used = true) ?_ fun hx => ?_; (on_goal 1 => (dsimp -zeta only [x]; clear x)); (on_goal 2 => clear_value x))
    | (simp -zeta only [good_lit_iff]; refine ⟨?_, ?_, ?_, ?_, ?_, ?_, ?_, ?_⟩)
    | with_reducible exact StoresOk.links (Good.stores_ok (q := Q) (by assumption))
    | with_reducible exact StoresOk.used (Good.stores_ok (q := Q) (by assumption))
    | with_reducible exact StoresOk.red (Good.stores_ok (q := Q) (by assumption))
    | with_reducible exact StoresOk.wit (Good.stores_ok (q := Q) (by assumption))
    | with_reducible exact StoresOk.frostX (Good.stores_ok (q := Q) (by assumption))
    | with_reducible exact StoresOk.wlt (Good.stores_ok (q := Q) (by assumption))
    | with_reducible exact StoresOk.subkeys (Good.stores_ok (q := Q) (by assumption))
    | with_reducible apply storesOk_mk

theorem sendNow_good {Q : List Instr} {t : TxItem} {s : State} (h_s : Good Q s) :
    Good Q (sendNow t s) := by
  unfold Sys2Proof.Machine.sendNow
  repeat' first
    | with_reducible assumption
    | with_reducible apply sendBytes_good
    | with_reducible apply takeCredit_good
    | with_reducible apply freeBuffer_good
    | with_reducible exact Good.mem_ok (q := Q) (by assumption)
    | with_reducible exact Good.regs_ok (q := Q) (by assumption)
    | with_reducible exact Good.ecc_ok (q := Q) (by assumption)
    | with_reducible exact Good.win_ok (q := Q) (by assumption)
    | with_reducible exact Good.cores_wf (q := Q) (by assumption)
    | with_reducible exact Good.cores_ok (q := Q) (by assumption)
    | with_reducible exact Good.stores_ok (q := Q) (by assumption)
    | with_reducible exact Good.pending (q := Q) (by assumption)
    | (extract_lets +onlyGivenNames x; refine cut_of (p := Good Q x) ?_ fun hx => ?_; (on_goal 1 => (dsimp -zeta only [x]; clear x)); (on_goal 2 => clear_value x))
    | (extract_lets +onlyGivenNames x; clear_value x)
    | split
    | (simp -zeta only [good_lit_iff]; refine ⟨?_, ?_, ?_, ?_, ?_, ?_, ?_, ?_⟩)

theorem pumpList_good {Q : List Instr} {l : List TxItem} {s : State} (h : Good Q s) : Good Q (pumpList l s) := by
  induction' l with t l ih generalizing s <;> unfold pumpList
  repeat' first
    | with_reducible assumption
    | with_reducible apply sendNow_good
    | with_reducible exact Good.mem_ok (q := Q) (by assumption)
    | with_reducible exact Good.regs_ok (q := Q) (by assumption)
    | with_reducible exact Good.ecc_ok (q := Q) (by assumption)
    | with_reducible exact Good.win_ok (q := Q) (by assumption)
    | with_reducible exact Good.cores_wf (q := Q) (by assumption)
    | with_reducible exact Good.cores_ok (q := Q) (by assumption)
    | with_reducible exact Good.pending (q := Q) (by assumption)
    | (extract_lets +onlyGivenNames x; refine cut_of (p := SMap.wf (fun _ => (0 : Nat)) x.used = true) ?_ fun hx => ?_; (on_goal 1 => (dsimp -zeta only [x]; clear x)); (on_goal 2 => clear_value x))
    | split
    | (simp -zeta only [good_lit_iff]; refine ⟨?_, ?_, ?_, ?_, ?_, ?_, ?_, ?_⟩)
    | with_reducible exact StoresOk.links (Good.stores_ok (q := Q) (by assumption))
    | with_reducible exact StoresOk.used (Good.stores_ok (q := Q) (by assumption))
    | with_reducible exact StoresOk.red (Good.stores_ok (q := Q) (by assumption))
    | with_reducible exact StoresOk.wit (Good.stores_ok (q := Q) (by assumption))
    | with_reducible exact StoresOk.frostX (Good.stores_ok (q := Q) (by assumption))
    | with_reducible exact StoresOk.wlt (Good.stores_ok (q := Q) (by assumption))
    | with_reducible exact StoresOk.subkeys (Good.stores_ok (q := Q) (by assumption))
    | with_reducible apply storesOk_mk
    | apply ih

theorem pump_good {Q : List Instr} {s : State} (h_s : Good Q s) :
    Good Q (pump s) := by
  unfold Sys2Proof.Machine.pump
  repeat' first
    | with_reducible assumption
    | with_reducible apply pumpList_good
    | with_reducible apply good_foldl
    | intro x hx

theorem enqueue_good {Q : List Instr} {t : TxItem} {s : State} (h_s : Good Q s) :
    Good Q (enqueue t s) := by
  unfold Sys2Proof.Machine.enqueue
  repeat' first
    | with_reducible assumption
    | with_reducible apply pump_good
    | with_reducible exact Good.mem_ok (q := Q) (by assumption)
    | with_reducible exact Good.regs_ok (q := Q) (by assumption)
    | with_reducible exact Good.ecc_ok (q := Q) (by assumption)
    | with_reducible exact Good.win_ok (q := Q) (by assumption)
    | with_reducible exact Good.cores_wf (q := Q) (by assumption)
    | with_reducible exact Good.cores_ok (q := Q) (by assumption)
    | with_reducible exact Good.pending (q := Q) (by assumption)
    | (extract_lets +onlyGivenNames x; refine cut_of (p := SMap.wf (fun _ => (0 : Nat)) x.used = true) ?_ fun hx => ?_; (on_goal 1 => (dsimp -zeta only [x]; clear x)); (on_goal 2 => clear_value x))
    | (simp -zeta only [good_lit_iff]; refine ⟨?_, ?_, ?_, ?_, ?_, ?_, ?_, ?_⟩)
    | with_reducible exact StoresOk.links (Good.stores_ok (q := Q) (by assumption))
    | with_reducible exact StoresOk.used (Good.stores_ok (q := Q) (by assumption))
    | with_reducible exact StoresOk.red (Good.stores_ok (q := Q) (by assumption))
    | with_reducible exact StoresOk.wit (Good.stores_ok (q := Q) (by assumption))
    | with_reducible exact StoresOk.frostX (Good.stores_ok (q := Q) (by assumption))
    | with_reducible exact StoresOk.wlt (Good.stores_ok (q := Q) (by assumption))
    | with_reducible exact StoresOk.subkeys (Good.stores_ok (q := Q) (by assumption))
    | with_reducible apply storesOk_mk

theorem dropHeld_good {Q : List Instr} {reason : Nat} {i : RxItem} {s : State} (h_s : Good Q s) :
    Good Q (dropHeld reason i s) := by
  unfold Sys2Proof.Machine.dropHeld
  repeat' first
    | with_reducible assumption
    | with_reducible apply dropPkt_good
    | with_reducible apply freeBuffer_good

theorem transit_good {Q : List Instr} {i : RxItem} {s : State} (h_s : Good Q s) :
    Good Q (transit i s) := by
  unfold Sys2Proof.Machine.transit
  repeat' first
    | with_reducible assumption
    | with_reducible apply enqueue_good
    | with_reducible apply dropHeld_good
    | (extract_lets +onlyGivenNames x; clear_value x)
    | split

theorem arrive_good {Q : List Instr} {k : Nat} {p : Pkt} {s : State} (h_s : Good Q s) :
    Good Q (arrive k p s) := by
  unfold Sys2Proof.Machine.arrive
  repeat' first
    | with_reducible assumption
    | with_reducible apply dropPkt_good
    | with_reducible exact Good.mem_ok (q := Q) (by assumption)
    | with_reducible exact Good.regs_ok (q := Q) (by assumption)
    | with_reducible exact Good.ecc_ok (q := Q) (by assumption)
    | with_reducible exact Good.win_ok (q := Q) (by assumption)
    | with_reducible exact Good.cores_wf (q := Q) (by assumption)
    | with_reducible exact Good.cores_ok (q := Q) (by assumption)
    | with_reducible exact Good.stores_ok (q := Q) (by assumption)
    | with_reducible exact Good.pending (q := Q) (by assumption)
    | (extract_lets +onlyGivenNames x; refine cut_of (p := Good Q x) ?_ fun hx => ?_; (on_goal 1 => (dsimp -zeta only [x]; clear x)); (on_goal 2 => clear_value x))
    | (extract_lets +onlyGivenNames x; refine cut_of (p := SMap.wf (fun _ => (0 : Nat)) x.used = true) ?_ fun hx => ?_; (on_goal 1 => (dsimp -zeta only [x]; clear x)); (on_goal 2 => clear_value x))
    | split
    | (simp -zeta only [good_lit_iff]; refine ⟨?_, ?_, ?_, ?_, ?_, ?_, ?_, ?_⟩)
    | with_reducible exact StoresOk.links (Good.stores_ok (q := Q) (by assumption))
    | with_reducible exact StoresOk.used (Good.stores_ok (q := Q) (by assumption))
    | with_reducible exact StoresOk.red (Good.stores_ok (q := Q) (by assumption))
    | with_reducible exact StoresOk.wit (Good.stores_ok (q := Q) (by assumption))
    | with_reducible exact StoresOk.frostX (Good.stores_ok (q := Q) (by assumption))
    | with_reducible exact StoresOk.wlt (Good.stores_ok (q := Q) (by assumption))
    | with_reducible exact StoresOk.subkeys (Good.stores_ok (q := Q) (by assumption))
    | with_reducible apply storesOk_mk

theorem intoLane_good {Q : List Instr} {p : Pkt} {s : State} (h_s : Good Q s) :
    Good Q (intoLane p s) := by
  unfold Sys2Proof.Machine.intoLane
  repeat' first
    | with_reducible assumption
    | with_reducible exact Good.mem_ok (q := Q) (by assumption)
    | with_reducible exact Good.regs_ok (q := Q) (by assumption)
    | with_reducible exact Good.ecc_ok (q := Q) (by assumption)
    | with_reducible exact Good.win_ok (q := Q) (by assumption)
    | with_reducible exact Good.cores_wf (q := Q) (by assumption)
    | with_reducible exact Good.cores_ok (q := Q) (by assumption)
    | with_reducible exact Good.pending (q := Q) (by assumption)
    | (extract_lets +onlyGivenNames x; refine cut_of (p := SMap.wf (fun _ => (0 : Nat)) x.used = true) ?_ fun hx => ?_; (on_goal 1 => (dsimp -zeta only [x]; clear x)); (on_goal 2 => clear_value x))
    | split
    | (simp -zeta only [good_lit_iff]; refine ⟨?_, ?_, ?_, ?_, ?_, ?_, ?_, ?_⟩)
    | with_reducible exact StoresOk.links (Good.stores_ok (q := Q) (by assumption))
    | with_reducible exact StoresOk.used (Good.stores_ok (q := Q) (by assumption))
    | with_reducible exact StoresOk.red (Good.stores_ok (q := Q) (by assumption))
    | with_reducible exact StoresOk.wit (Good.stores_ok (q := Q) (by assumption))
    | with_reducible exact StoresOk.frostX (Good.stores_ok (q := Q) (by assumption))
    | with_reducible exact StoresOk.wlt (Good.stores_ok (q := Q) (by assumption))
    | with_reducible exact StoresOk.subkeys (Good.stores_ok (q := Q) (by assumption))
    | with_reducible apply storesOk_mk

theorem routeHeld_good {Q : List Instr} {i : RxItem} {deliver : State → Option State} {s : State} (h_deliver : ∀ a0, Good Q a0 → GoodOpt Q (deliver a0)) (h_s : Good Q s) :
    Good Q (routeHeld i deliver s) := by
  unfold Sys2Proof.Machine.routeHeld
  repeat' first
    | with_reducible assumption
    | with_reducible apply freeBuffer_good
    | with_reducible apply pump_good
    | with_reducible apply dropHeld_good
    | with_reducible apply transit_good
    | with_reducible apply intoLane_good
    | with_reducible refine good_some (by assumption) ?_
    | split
    | extract_lets +onlyGivenNames x
    | apply h_deliver

theorem handle_good {Q : List Instr} {k : LinkId} {p : Pkt} {deliver : State → Option State} {s : State} (h_deliver : ∀ a0, Good Q a0 → GoodOpt Q (deliver a0)) (h_s : Good Q s) :
    Good Q (handle k p deliver s) := by
  unfold Sys2Proof.Machine.handle
  repeat' first
    | with_reducible assumption
    | with_reducible apply arrive_good
    | with_reducible apply routeHeld_good
    | (extract_lets +onlyGivenNames x; refine cut_of (p := Good Q x) ?_ fun hx => ?_; (on_goal 1 => (dsimp -zeta only [x]; clear x)); (on_goal 2 => clear_value x))
    | split

theorem routeIllegal_good {Q : List Instr} {core cause hop bundle : Nat} {w : Bool} {s : State} (h_s : Good Q s) :
    Good Q (routeIllegal core cause hop bundle w s) := by
  unfold Sys2Proof.Machine.routeIllegal
  repeat' first
    | with_reducible assumption
    | with_reducible apply setFld_good (q := Q)
    | with_reducible apply raise_good
    | split

theorem launch_good {Q : List Instr} {port : Nat} {ps : List Pkt} {s : State} (h_s : Good Q s) :
    Good Q (launch port ps s) := by
  unfold Sys2Proof.Machine.launch
  repeat' first
    | with_reducible assumption
    | with_reducible apply enqueue_good
    | with_reducible apply good_foldl
    | intro x hx

theorem leftovers_good {Q : List Instr} {s : State} (h_s : Good Q s) :
    Good Q (leftovers s) := by
  unfold Sys2Proof.Machine.leftovers
  repeat' first
    | with_reducible assumption
    | with_reducible apply dropPkt_good
    | with_reducible apply SMap.wf_filter
    | with_reducible apply good_foldl
    | with_reducible exact Good.mem_ok (q := Q) (by assumption)
    | with_reducible exact Good.regs_ok (q := Q) (by assumption)
    | with_reducible exact Good.ecc_ok (q := Q) (by assumption)
    | with_reducible exact Good.win_ok (q := Q) (by assumption)
    | with_reducible exact Good.cores_wf (q := Q) (by assumption)
    | with_reducible exact Good.cores_ok (q := Q) (by assumption)
    | with_reducible exact Good.pending (q := Q) (by assumption)
    | intro x hx
    | (extract_lets +onlyGivenNames x; refine cut_of (p := Good Q x) ?_ fun hx => ?_; (on_goal 1 => (dsimp -zeta only [x]; clear x)); (on_goal 2 => clear_value x))
    | (extract_lets +onlyGivenNames x; refine cut_of (p := SMap.wf (fun _ => (0 : Nat)) x.used = true) ?_ fun hx => ?_; (on_goal 1 => (dsimp -zeta only [x]; clear x)); (on_goal 2 => clear_value x))
    | (extract_lets +onlyGivenNames x; clear_value x)
    | (simp -zeta only [good_lit_iff]; refine ⟨?_, ?_, ?_, ?_, ?_, ?_, ?_, ?_⟩)
    | with_reducible exact StoresOk.links (Good.stores_ok (q := Q) (by assumption))
    | with_reducible exact StoresOk.used (Good.stores_ok (q := Q) (by assumption))
    | with_reducible exact StoresOk.red (Good.stores_ok (q := Q) (by assumption))
    | with_reducible exact StoresOk.wit (Good.stores_ok (q := Q) (by assumption))
    | with_reducible exact StoresOk.frostX (Good.stores_ok (q := Q) (by assumption))
    | with_reducible exact StoresOk.wlt (Good.stores_ok (q := Q) (by assumption))
    | with_reducible exact StoresOk.subkeys (Good.stores_ok (q := Q) (by assumption))
    | with_reducible apply storesOk_mk

theorem takeTree_good {Q : List Instr} {k : Nat} {p : Pkt} {s : State} (h_s : Good Q s) :
    Good Q (takeTree k p s) := by
  unfold Sys2Proof.Machine.takeTree
  repeat' first
    | with_reducible assumption
    | with_reducible apply freeBuffer_good

theorem discardCtrl_good {Q : List Instr} {k : LinkId} {p : Pkt} {s : State} (h_s : Good Q s) :
    Good Q (discardCtrl k p s) := by
  unfold Sys2Proof.Machine.discardCtrl
  repeat' first
    | with_reducible assumption
    | with_reducible apply dropHeld_good
    | split

theorem execPacketForward_good {Q : List Instr} {k : LinkId} {p : Pkt} {s : State} (h_s : Good Q s) :
    GoodOut Q (execPacketForward k p s) := by
  unfold Sys2Proof.Machine.execPacketForward
  repeat' first
    | with_reducible assumption
    | with_reducible exact goodOpt_none
    | with_reducible apply handle_good
    | with_reducible apply discardCtrl_good
    | with_reducible apply goodOut_next
    | intro x hx
    | split

theorem execCreditReturn_good {Q : List Instr} {k : LinkId} {vl : BitVec 2} {sub : Bool} {res : BitVec 10} {lscene : BitVec 4} {s : State} (h_s : Good Q s) :
    GoodOut Q (execCreditReturn k vl sub res lscene s) := by
  unfold Sys2Proof.Machine.execCreditReturn
  repeat' first
    | with_reducible assumption
    | with_reducible apply giveCredit_good
    | with_reducible apply pump_good
    | with_reducible apply goodOut_next
    | split

end Sys2Proof.Laws
end

