-- ==== Sys2Proof/Laws/GoodFabricPort.lean ====
section
/-! SUPPORT. What each definition of Machine/FabricPort.lean keeps: the queue and the canonical form of every store. -/

namespace Sys2Proof.Laws

open Sys2Proof.Machine Sys2Proof.Safety

theorem guardXfer_good {Q : List Instr} {c : CoreId} {x : BitVec 12} {kind : Nat} {s : State} {r : State} (h_s : Good Q s) (h_r : Good Q r) :
    GoodOut Q (guardXfer c x kind s r) := by
  unfold Sys2Proof.Machine.guardXfer
  repeat' first
    | with_reducible assumption
    | with_reducible exact goodOut_fault
    | with_reducible apply goodOut_next
    | split

theorem claim_good {Q : List Instr} {ps : List (BedPort × Nat × Nat)} {s : State} (h_s : Good Q s) :
    Good Q (claim ps s) := by
  unfold Sys2Proof.Machine.claim
  repeat' first
    | with_reducible assumption
    | with_reducible exact Good.mem_ok (q := Q) (by assumption)
    | with_reducible exact Good.regs_ok (q := Q) (by assumption)
    | with_reducible exact Good.ecc_ok (q := Q) (by assumption)
    | with_reducible exact Good.win_ok (q := Q) (by assumption)
    | with_reducible exact Good.cores_wf (q := Q) (by assumption)
    | with_reducible exact Good.cores_ok (q := Q) (by assumption)
    | with_reducible exact Good.pending (q := Q) (by assumption)
    | (extract_lets +onlyGivenNames x; refine cut_of (p := SMap.wf (fun _ => (0 : Nat)) x.used = true) ?_ fun hx => ?_; (on_goal 1 => (dsimp -zeta only [x]; clear x)); (on_goal 2 => clear_value x))
    | (simp -zeta only [good_lit_iff]; refine ⟨?_, ?_, ?_, ?_, ?_, ?_, ?_, ?_⟩)
    | with_reducible exact StoresOk.links (Good.stores_ok (q := Q) (by assumption))
    | with_reducible exact StoresOk.used (Good.stores_ok (q := Q) (by assumption))
    | with_reducible exact StoresOk.red (Good.stores_ok (q := Q) (by assumption))
    | with_reducible exact StoresOk.wit (Good.stores_ok (q := Q) (by assumption))
    | with_reducible exact StoresOk.frostX (Good.stores_ok (q := Q) (by assumption))
    | with_reducible exact StoresOk.wlt (Good.stores_ok (q := Q) (by assumption))
    | with_reducible exact StoresOk.subkeys (Good.stores_ok (q := Q) (by assumption))
    | with_reducible apply storesOk_mk

theorem addPort_good {Q : List Instr} {x : Ctx} {i : Instr} {xi addr : Nat} {acc : Option Desc} {treg : Nat} {fence : Bool} {s : State} (h_s : Good Q s) :
    Good Q (addPort x i xi addr acc treg fence s) := by
  unfold Sys2Proof.Machine.addPort
  repeat' first
    | with_reducible assumption
    | with_reducible apply updCore_good
    | with_reducible exact coreOk_regs (by assumption)
    | with_reducible exact coreOk_shadow (by assumption) (by assumption)
    | (simp -zeta only [coreOk_lit_iff]; refine And.intro ?_ ?_)
    | intro x hx

theorem setPort_good {Q : List Instr} {c : CoreId} {w w' : PortXfer} {s : State} (h_s : Good Q s) :
    Good Q (setPort c w w' s) := by
  unfold Sys2Proof.Machine.setPort
  repeat' first
    | with_reducible assumption
    | with_reducible apply updCore_good
    | with_reducible exact coreOk_regs (by assumption)
    | with_reducible exact coreOk_shadow (by assumption) (by assumption)
    | (simp -zeta only [coreOk_lit_iff]; refine And.intro ?_ ?_)
    | intro x hx

theorem dropPort_good {Q : List Instr} {c : CoreId} {w : PortXfer} {s : State} (h_s : Good Q s) :
    Good Q (dropPort c w s) := by
  unfold Sys2Proof.Machine.dropPort
  repeat' first
    | with_reducible assumption
    | with_reducible apply updCore_good
    | with_reducible exact coreOk_regs (by assumption)
    | with_reducible exact coreOk_shadow (by assumption) (by assumption)
    | (simp -zeta only [coreOk_lit_iff]; refine And.intro ?_ ?_)
    | intro x hx

theorem execSend_good {Q : List Instr} {c : CoreId} {x : BitVec 12} {ps : BitVec 4} {s : State} (h_s : Good Q s) :
    GoodOut Q (execSend c x ps s) := by
  unfold Sys2Proof.Machine.execSend
  repeat' first
    | with_reducible assumption
    | with_reducible apply addressFault_good
    | with_reducible apply specEscape_good
    | with_reducible apply runUnit_good
    | with_reducible apply guardXfer_good
    | with_reducible apply addPort_good
    | with_reducible apply goodOpt_some
    | intro x hx
    | intro x
    | (extract_lets +onlyGivenNames x; clear_value x)
    | split

theorem startInbound_good {Q : List Instr} {t : Ctx} {i : Instr} {xi a n : Nat} {s : State} (h_s : Good Q s) :
    GoodOpt Q (startInbound t i xi a n s) := by
  unfold Sys2Proof.Machine.startInbound
  repeat' first
    | with_reducible assumption
    | with_reducible apply Check_bind_good
    | with_reducible apply checkWrites_good
    | with_reducible apply addPort_good
    | with_reducible apply goodOpt_some
    | intro x hx

theorem execRecv_good {Q : List Instr} {c : CoreId} {x : BitVec 12} {pd : BitVec 4} {s : State} (h_s : Good Q s) :
    GoodOut Q (execRecv c x pd s) := by
  unfold Sys2Proof.Machine.execRecv
  repeat' first
    | with_reducible assumption
    | with_reducible apply runUnit_good
    | with_reducible apply guardXfer_good
    | with_reducible apply startInbound_good
    | with_reducible apply goodOpt_some
    | intro x hx
    | intro x
    | split

theorem execGather_good {Q : List Instr} {c : CoreId} {x : BitVec 12} {pd : BitVec 4} {s : State} (h_s : Good Q s) :
    GoodOut Q (execGather c x pd s) := by
  unfold Sys2Proof.Machine.execGather
  repeat' first
    | with_reducible assumption
    | with_reducible apply specEscape_good
    | with_reducible apply runUnit_good
    | with_reducible apply guardXfer_good
    | with_reducible apply startInbound_good
    | with_reducible apply goodOpt_some
    | intro x hx
    | intro x
    | split

theorem execXred_good {Q : List Instr} {c : CoreId} {x : BitVec 12} {acc : BitVec 4} {s : State} (h_s : Good Q s) :
    GoodOut Q (execXred c x acc s) := by
  unfold Sys2Proof.Machine.execXred
  repeat' first
    | with_reducible assumption
    | with_reducible exact goodOpt_none
    | with_reducible apply operandRange_good
    | with_reducible apply specEscape_good
    | with_reducible apply runUnit_good
    | with_reducible apply fenceWait_good
    | with_reducible apply guardXfer_good
    | with_reducible apply addPort_good
    | with_reducible apply goodOpt_some
    | intro x hx
    | intro x
    | (extract_lets +onlyGivenNames x; refine cut_of (p := Good Q x) ?_ fun hx => ?_; (on_goal 1 => (dsimp -zeta only [x]; clear x)); (on_goal 2 => clear_value x))
    | (extract_lets +onlyGivenNames x; clear_value x)
    | split

theorem refuseLaunch_good {Q : List Instr} {c : CoreId} {w : PortXfer} {cause hop : Nat} {s : State} (h_s : Good Q s) :
    Good Q (refuseLaunch c w cause hop s) := by
  unfold Sys2Proof.Machine.refuseLaunch
  repeat' first
    | with_reducible assumption
    | with_reducible apply stopCore_good
    | with_reducible apply routeIllegal_good
    | with_reducible apply dropPort_good

theorem launchSend_good {Q : List Instr} {c : CoreId} {w : PortXfer} {e : XferEntry} {a : Nat} {s : State} (h_s : Good Q s) :
    GoodOpt Q (launchSend c w e a s) := by
  unfold Sys2Proof.Machine.launchSend
  repeat' first
    | rw [noteSent_shadow]
    | with_reducible assumption
    | with_reducible apply launch_good
    | with_reducible apply Reads_bind_good
    | with_reducible apply readScr_good
    | with_reducible apply claim_good
    | with_reducible apply dropPort_good
    | with_reducible apply refuseLaunch_good
    | with_reducible apply goodOpt_some
    | with_reducible apply updCore_good
    | with_reducible exact coreOk_regs (by assumption)
    | with_reducible exact coreOk_shadow (by assumption) (by assumption)
    | with_reducible apply shadow_map
    | (simp -zeta only [coreOk_lit_iff]; refine And.intro ?_ ?_)
    | intro x hx
    | (extract_lets +onlyGivenNames x; clear_value x)
    | split

theorem launchGather_good {Q : List Instr} {c : CoreId} {w : PortXfer} {e : XferEntry} {a : Nat} {s : State} (h_s : Good Q s) :
    Good Q (launchGather c w e a s) := by
  unfold Sys2Proof.Machine.launchGather
  repeat' first
    | with_reducible assumption
    | with_reducible apply launch_good
    | with_reducible apply claim_good
    | with_reducible apply setPort_good
    | with_reducible apply refuseLaunch_good
    | split

theorem sendStream_good {Q : List Instr} {c : CoreId} {w : PortXfer} {e : XferEntry} {port first : Nat} {now rest : List (List Byte)} {a : Nat} {s : State} (h_s : Good Q s) :
    Good Q (sendStream c w e port first now rest a s) := by
  unfold Sys2Proof.Machine.sendStream
  repeat' first
    | with_reducible assumption
    | with_reducible apply launch_good
    | with_reducible apply claim_good
    | with_reducible apply setPort_good

theorem launchXred_good {Q : List Instr} {c : CoreId} {w : PortXfer} {d : Desc} {e : XferEntry} {a : Nat} {s : State} (h_s : Good Q s) :
    Good Q (launchXred c w d e a s) := by
  unfold Sys2Proof.Machine.launchXred
  repeat' first
    | with_reducible assumption
    | with_reducible apply raiseMany_good
    | with_reducible apply writeAcc_good
    | with_reducible apply trellisUncorr_good
    | with_reducible apply setPort_good
    | with_reducible apply refuseLaunch_good
    | with_reducible apply sendStream_good
    | with_reducible apply good_foldl
    | intro x hx
    | (extract_lets +onlyGivenNames x; refine cut_of (p := Good Q x) ?_ fun hx => ?_; (on_goal 1 => (dsimp -zeta only [x]; clear x)); (on_goal 2 => clear_value x))
    | (extract_lets +onlyGivenNames x; clear_value x)
    | split

theorem launchRest_good {Q : List Instr} {c : CoreId} {w : PortXfer} {e : XferEntry} {a : Nat} {s : State} (h_s : Good Q s) :
    Good Q (launchRest c w e a s) := by
  unfold Sys2Proof.Machine.launchRest
  repeat' first
    | with_reducible assumption
    | with_reducible apply refuseLaunch_good
    | with_reducible apply sendStream_good
    | split

theorem beginIn_good {Q : List Instr} {c : CoreId} {w : PortXfer} {e : XferEntry} {b a : Nat} {s : State} (h_s : Good Q s) :
    Good Q (beginIn c w e b a s) := by
  unfold Sys2Proof.Machine.beginIn
  repeat' first
    | with_reducible assumption
    | with_reducible apply claim_good
    | with_reducible apply setPort_good

theorem anchorAt_good {Q : List Instr} {c : CoreId} {x : BitVec 12} {a : Nat} {s : State} (h_s : Good Q s) :
    Good Q (anchorAt c x a s) := by
  unfold Sys2Proof.Machine.anchorAt
  repeat' first
    | with_reducible assumption
    | with_reducible apply launchSend_good
    | with_reducible apply launchGather_good
    | with_reducible apply launchXred_good
    | with_reducible apply beginIn_good
    | with_reducible apply good_getD
    | (extract_lets +onlyGivenNames x; refine cut_of (p := Good Q x) ?_ fun hx => ?_; (on_goal 1 => (dsimp -zeta only [x]; clear x)); (on_goal 2 => clear_value x))
    | (extract_lets +onlyGivenNames x; clear_value x)
    | split

theorem execTransferAnchor_good {Q : List Instr} {c : CoreId} {x : BitVec 12} {s : State} (h_s : Good Q s) :
    GoodOut Q (execTransferAnchor c x s) := by
  unfold Sys2Proof.Machine.execTransferAnchor
  repeat' first
    | with_reducible assumption
    | with_reducible apply advanceTo_good
    | with_reducible apply anchorAt_good
    | with_reducible apply goodOut_next
    | split

theorem lateLaunch_good {Q : List Instr} {c : CoreId} {w : PortXfer} {e : XferEntry} {s t : State}
    {a : Nat → List (BedPort × Nat × Nat)} {b : Nat} {go : Nat → State → Option State} {m : Nat}
    (e1 : lateLaunch c w e s = some (a, b, go)) (h : Good Q t) : GoodOpt Q (go m t) := by
  unfold lateLaunch at e1
  repeat' split at e1
  all_goals first | (cases e1; done) | cases e1
  all_goals (try dsimp -zeta only)
  repeat' first
    | with_reducible assumption
    | with_reducible exact goodOpt_none
    | with_reducible apply launchSend_good
    | with_reducible apply launchGather_good
    | with_reducible apply launchXred_good
    | with_reducible apply launchRest_good
    | with_reducible apply beginIn_good
    | with_reducible apply goodOpt_some

theorem execLateTransferLaunch_good {Q : List Instr} {c : CoreId} {x : BitVec 12} {s : State} (h_s : Good Q s) :
    GoodOut Q (execLateTransferLaunch c x s) := by
  unfold Sys2Proof.Machine.execLateTransferLaunch
  repeat' first
    | with_reducible assumption
    | with_reducible apply advanceTo_good
    | with_reducible apply lateLaunch_good
    | with_reducible apply goodOut_next
    | with_reducible apply good_getD
    | split

theorem place_good {Q : List Instr} {c : CoreId} {w : PortXfer} {p : DataPkt} {s : State} (h_s : Good Q s) :
    Good Q (place c w p s) := by
  unfold Sys2Proof.Machine.place
  repeat' first
    | with_reducible assumption
    | with_reducible apply addressFault_good
    | with_reducible apply writeScr_good
    | with_reducible apply setPort_good
    | (extract_lets +onlyGivenNames x; clear_value x)
    | split

theorem placeSpec_good {Q : List Instr} {c : CoreId} {w : PortXfer} {p : DataPkt} {s : State} (h_s : Good Q s) :
    Good Q (placeSpec c w p s) := by
  unfold Sys2Proof.Machine.placeSpec
  repeat' first
    | with_reducible assumption
    | with_reducible apply setFld_good (q := Q)
    | with_reducible apply raise_good
    | with_reducible apply touchSource_good
    | with_reducible apply place_good
    | with_reducible apply updCore_good
    | with_reducible exact coreOk_regs (by assumption)
    | with_reducible exact coreOk_shadow (by assumption) (by assumption)
    | (simp -zeta only [coreOk_lit_iff]; refine And.intro ?_ ?_)
    | intro x hx
    | (extract_lets +onlyGivenNames x; clear_value x)
    | split

theorem deliverWrite_good {Q : List Instr} {c : CoreId} {p : DataPkt} {s : State} (h_s : Good Q s) :
    GoodOpt Q (deliverWrite c p s) := by
  unfold Sys2Proof.Machine.deliverWrite
  repeat' first
    | with_reducible assumption
    | with_reducible exact goodOpt_none
    | with_reducible apply place_good
    | with_reducible apply placeSpec_good
    | with_reducible apply goodOpt_some
    | with_reducible apply core_ok (q := Q)
    | (extract_lets +onlyGivenNames x; refine cut_of (p := CoreOk x) ?_ fun hx => ?_; (on_goal 1 => (dsimp -zeta only [x]; clear x)); (on_goal 2 => clear_value x))
    | split

theorem deliverShard_good {Q : List Instr} {c : CoreId} {p : DataPkt} {s : State} (h_s : Good Q s) :
    GoodOpt Q (deliverShard c p s) := by
  unfold Sys2Proof.Machine.deliverShard
  repeat' first
    | with_reducible assumption
    | with_reducible exact goodOpt_none
    | with_reducible apply place_good
    | with_reducible apply goodOpt_some
    | with_reducible apply core_ok (q := Q)
    | (extract_lets +onlyGivenNames x; refine cut_of (p := CoreOk x) ?_ fun hx => ?_; (on_goal 1 => (dsimp -zeta only [x]; clear x)); (on_goal 2 => clear_value x))
    | split

theorem xpBad_good {Q : List Instr} {die ctx elem : Nat} {o : Origin} {s : State} (h_s : Good Q s) :
    Good Q (xpBad die ctx elem o s) := by
  unfold Sys2Proof.Machine.xpBad
  repeat' first
    | with_reducible assumption
    | with_reducible apply setFld_good (q := Q)
    | with_reducible apply raise_good
    | split

theorem addElems_good {Q : List Instr} {c : CoreId} {w : PortXfer} {d : Desc} {e : XferEntry} {die : Nat} {key : List Nat}
    {n : Nat} {l : List (Option XpElem)} {w2 : PortXfer} {s : State} (h : Good Q s) : Good Q (addElems c w d e die key n l w2 s).2 := by
  induction' l with t l ih generalizing n w2 s <;> unfold addElems
  repeat' first
    | with_reducible assumption
    | with_reducible apply setFld_good (q := Q)
    | with_reducible apply writeAcc_good
    | with_reducible apply xpBad_good
    | (extract_lets +onlyGivenNames x; refine cut_of (p := Good Q x) ?_ fun hx => ?_; (on_goal 1 => (dsimp -zeta only [x]; clear x)); (on_goal 2 => clear_value x))
    | (extract_lets +onlyGivenNames x; clear_value x)
    | split
    | apply ih

theorem deliverXp_good {Q : List Instr} {k : LinkId} {c : CoreId} {p : DataPkt} {s : State} (h_s : Good Q s) :
    GoodOpt Q (deliverXp k c p s) := by
  unfold Sys2Proof.Machine.deliverXp
  repeat' first
    | with_reducible assumption
    | with_reducible exact goodOpt_none
    | with_reducible apply setPort_good
    | with_reducible apply addElems_good
    | with_reducible apply goodOpt_some
    | with_reducible apply core_ok (q := Q)
    | (extract_lets +onlyGivenNames x; refine cut_of (p := CoreOk x) ?_ fun hx => ?_; (on_goal 1 => (dsimp -zeta only [x]; clear x)); (on_goal 2 => clear_value x))
    | (extract_lets +onlyGivenNames x; clear_value x)
    | split

theorem execWrite_good {Q : List Instr} {k : LinkId} {p : DataPkt} {s : State} (h_s : Good Q s) :
    GoodOut Q (execWrite k p s) := by
  unfold Sys2Proof.Machine.execWrite
  repeat' first
    | with_reducible assumption
    | with_reducible apply handle_good
    | with_reducible apply deliverWrite_good
    | with_reducible apply goodOut_next
    | split

theorem execShard_good {Q : List Instr} {k : LinkId} {p : DataPkt} {s : State} (h_s : Good Q s) :
    GoodOut Q (execShard k p s) := by
  unfold Sys2Proof.Machine.execShard
  repeat' first
    | with_reducible assumption
    | with_reducible apply handle_good
    | with_reducible apply deliverShard_good
    | with_reducible apply goodOut_next
    | split

theorem execXp_good {Q : List Instr} {k : LinkId} {p : DataPkt} {s : State} (h_s : Good Q s) :
    GoodOut Q (execXp k p s) := by
  unfold Sys2Proof.Machine.execXp
  repeat' first
    | with_reducible assumption
    | with_reducible apply handle_good
    | with_reducible apply deliverXp_good
    | with_reducible apply goodOut_next
    | split

theorem execRecvComplete_good {Q : List Instr} {c : CoreId} {x : BitVec 12} {s : State} (h_s : Good Q s) :
    GoodOut Q (execRecvComplete c x s) := by
  unfold Sys2Proof.Machine.execRecvComplete
  repeat' first
    | with_reducible assumption
    | with_reducible apply dropPort_good
    | with_reducible apply goodOut_next
    | split

theorem execGatherComplete_good {Q : List Instr} {c : CoreId} {x : BitVec 12} {s : State} (h_s : Good Q s) :
    GoodOut Q (execGatherComplete c x s) := by
  unfold Sys2Proof.Machine.execGatherComplete
  repeat' first
    | with_reducible assumption
    | with_reducible apply dropPort_good
    | with_reducible apply goodOut_next
    | split

theorem settleXred_good {Q : List Instr} {c : CoreId} {w : PortXfer} {s : State} (h_s : Good Q s) :
    Good Q (settleXred c w s) := by
  unfold Sys2Proof.Machine.settleXred
  repeat' first
    | with_reducible assumption
    | with_reducible apply Core_updTile_good
    | with_reducible apply updCore_good
    | intro x hx
    | split

theorem execXredComplete_good {Q : List Instr} {c : CoreId} {x : BitVec 12} {s : State} (h_s : Good Q s) :
    GoodOut Q (execXredComplete c x s) := by
  unfold Sys2Proof.Machine.execXredComplete
  repeat' first
    | with_reducible assumption
    | with_reducible apply dropPort_good
    | with_reducible apply settleXred_good
    | with_reducible apply goodOut_next
    | split

theorem leaveFence_good {Q : List Instr} {c : CoreId} {f : FenceOp} {s : State} (h_s : Good Q s) :
    Good Q (leaveFence c f s) := by
  unfold Sys2Proof.Machine.leaveFence
  repeat' first
    | with_reducible assumption
    | with_reducible apply updCore_good
    | with_reducible exact coreOk_regs (by assumption)
    | with_reducible exact coreOk_shadow (by assumption) (by assumption)
    | (simp -zeta only [coreOk_lit_iff]; refine And.intro ?_ ?_)
    | intro x hx

theorem passXred_good {Q : List Instr} {c : CoreId} {f : FenceOp} {t : Tile} {s : State} (h_s : Good Q s) :
    Good Q (passXred c f t s) := by
  unfold Sys2Proof.Machine.passXred
  repeat' first
    | with_reducible assumption
    | with_reducible apply advanceTo_good
    | with_reducible apply updCore_good
    | with_reducible exact coreOk_regs (by assumption)
    | with_reducible exact coreOk_shadow (by assumption) (by assumption)
    | (simp -zeta only [coreOk_lit_iff]; refine And.intro ?_ ?_)
    | intro x hx

theorem releaseOne_good {Q : List Instr} {c : CoreId} {f : FenceOp} {s : State} (h_s : Good Q s) :
    Good Q (releaseOne c f s) := by
  unfold Sys2Proof.Machine.releaseOne
  repeat' first
    | with_reducible assumption
    | with_reducible apply advanceTo_good
    | with_reducible apply drainStart_good
    | with_reducible apply spillStart_good
    | with_reducible apply setPort_good
    | with_reducible apply leaveFence_good
    | with_reducible apply passXred_good
    | with_reducible apply good_getD
    | (extract_lets +onlyGivenNames x; refine cut_of (p := Good Q x) ?_ fun hx => ?_; (on_goal 1 => (dsimp -zeta only [x]; clear x)); (on_goal 2 => clear_value x))
    | (extract_lets +onlyGivenNames x; clear_value x)
    | split

theorem execFenceRelease_good {Q : List Instr} {c : CoreId} {s : State} (h_s : Good Q s) :
    GoodOut Q (execFenceRelease c s) := by
  unfold Sys2Proof.Machine.execFenceRelease
  repeat' first
    | with_reducible assumption
    | with_reducible apply releaseOne_good
    | with_reducible apply goodOut_next
    | split

end Sys2Proof.Laws
end

