-- ==== Sys2Proof/Laws/GoodTwin.lean ====
section
/-! SUPPORT. What each definition of Machine/Twin.lean keeps: the queue and the canonical form of every store. -/

namespace Sys2Proof.Laws

open Sys2Proof.Machine Sys2Proof.Safety

theorem markOverrun_good {Q : List Instr} {core : Nat} {s : State} (h_s : Good Q s) :
    Good Q (markOverrun core s) := by
  unfold Sys2Proof.Machine.markOverrun
  repeat' first
    | with_reducible exact Good.mem_ok (q := Q) (by assumption)
    | with_reducible exact Good.regs_ok (q := Q) (by assumption)
    | with_reducible exact Good.ecc_ok (q := Q) (by assumption)
    | with_reducible exact Good.win_ok (q := Q) (by assumption)
    | with_reducible exact Good.cores_wf (q := Q) (by assumption)
    | with_reducible exact Good.cores_ok (q := Q) (by assumption)
    | with_reducible exact Good.stores_ok (q := Q) (by assumption)
    | with_reducible exact Good.pending (q := Q) (by assumption)
    | (extract_lets +onlyGivenNames x; clear_value x)
    | split
    | (simp -zeta only [good_lit_iff]; refine ⟨?_, ?_, ?_, ?_, ?_, ?_, ?_, ?_⟩)

theorem twinMismatch_good {Q : List Instr} {r : TwinRec} {own : Word} {s : State} (h_s : Good Q s) :
    Good Q (twinMismatch r own s) := by
  unfold Sys2Proof.Machine.twinMismatch
  repeat' first
    | with_reducible assumption
    | with_reducible apply setFld_good (q := Q)
    | with_reducible apply postNotice_good
    | with_reducible apply raise_good
    | with_reducible apply markOverrun_good
    | (extract_lets +onlyGivenNames x; refine cut_of (p := Good Q x) ?_ fun hx => ?_; (on_goal 1 => (dsimp -zeta only [x]; clear x)); (on_goal 2 => clear_value x))
    | split

theorem twinCompare_good {Q : List Instr} {r : TwinRec} {s : State} (h_s : Good Q s) :
    Good Q (twinCompare r s) := by
  unfold Sys2Proof.Machine.twinCompare
  repeat' first
    | with_reducible assumption
    | with_reducible apply addSat_good (q := Q)
    | with_reducible apply twinMismatch_good
    | with_reducible exact Good.mem_ok (q := Q) (by assumption)
    | with_reducible exact Good.regs_ok (q := Q) (by assumption)
    | with_reducible exact Good.ecc_ok (q := Q) (by assumption)
    | with_reducible exact Good.win_ok (q := Q) (by assumption)
    | with_reducible exact Good.cores_wf (q := Q) (by assumption)
    | with_reducible exact Good.cores_ok (q := Q) (by assumption)
    | with_reducible exact Good.stores_ok (q := Q) (by assumption)
    | with_reducible exact Good.pending (q := Q) (by assumption)
    | (extract_lets +onlyGivenNames x; clear_value x)
    | split
    | (simp -zeta only [good_lit_iff]; refine ⟨?_, ?_, ?_, ?_, ?_, ?_, ?_, ?_⟩)

theorem twinHeld_good {Q : List Instr} {entry : Nat} {s : State} (h_s : Good Q s) :
    Good Q (twinHeld entry s) := by
  unfold Sys2Proof.Machine.twinHeld
  repeat' first
    | with_reducible apply twinCompare_good
    | with_reducible apply good_foldl
    | with_reducible exact Good.mem_ok (q := Q) (by assumption)
    | with_reducible exact Good.regs_ok (q := Q) (by assumption)
    | with_reducible exact Good.ecc_ok (q := Q) (by assumption)
    | with_reducible exact Good.win_ok (q := Q) (by assumption)
    | with_reducible exact Good.cores_wf (q := Q) (by assumption)
    | with_reducible exact Good.cores_ok (q := Q) (by assumption)
    | with_reducible exact Good.stores_ok (q := Q) (by assumption)
    | with_reducible exact Good.pending (q := Q) (by assumption)
    | intro x hx
    | (extract_lets +onlyGivenNames x; clear_value x)
    | (simp -zeta only [good_lit_iff]; refine ⟨?_, ?_, ?_, ?_, ?_, ?_, ?_, ?_⟩)

theorem twinDone_good {Q : List Instr} {r : TwinRec} {s : State} (h_s : Good Q s) :
    Good Q (twinDone r s) := by
  unfold Sys2Proof.Machine.twinDone
  repeat' first
    | with_reducible apply twinHeld_good
    | with_reducible exact Good.mem_ok (q := Q) (by assumption)
    | with_reducible exact Good.regs_ok (q := Q) (by assumption)
    | with_reducible exact Good.ecc_ok (q := Q) (by assumption)
    | with_reducible exact Good.win_ok (q := Q) (by assumption)
    | with_reducible exact Good.cores_wf (q := Q) (by assumption)
    | with_reducible exact Good.cores_ok (q := Q) (by assumption)
    | with_reducible exact Good.stores_ok (q := Q) (by assumption)
    | with_reducible exact Good.pending (q := Q) (by assumption)
    | (extract_lets +onlyGivenNames x; clear_value x)
    | (simp -zeta only [good_lit_iff]; refine ⟨?_, ?_, ?_, ?_, ?_, ?_, ?_, ?_⟩)

theorem twinRead_good {Q : List Instr} {n : Nat} : ∀ {s : State}, Good Q s → Good Q (twinRead n s) := by
  induction n with
  | zero => exact fun h => h
  | succ n ih =>
    intro s h
    rw [twinRead]
    split
    · exact h
    · refine ih (twinCompare_good (setFld_good (good_of (s := ite _ _ _) ?_ rfl rfl rfl rfl rfl rfl rfl rfl rfl rfl rfl rfl rfl)))
      split
      · exact h
      · exact addSat_good h

theorem twinTick_good {Q : List Instr} {s : State} (h_s : Good Q s) :
    Good Q (twinTick s) := by
  unfold Sys2Proof.Machine.twinTick
  repeat' first
    | with_reducible assumption
    | with_reducible apply twinRead_good
    | split

theorem twinEdge_good {Q : List Instr} {s : State} (h_s : Good Q s) :
    Good Q (twinEdge s) := by
  unfold Sys2Proof.Machine.twinEdge
  repeat' first
    | with_reducible exact Good.mem_ok (q := Q) (by assumption)
    | with_reducible exact Good.regs_ok (q := Q) (by assumption)
    | with_reducible exact Good.ecc_ok (q := Q) (by assumption)
    | with_reducible exact Good.win_ok (q := Q) (by assumption)
    | with_reducible exact Good.cores_wf (q := Q) (by assumption)
    | with_reducible exact Good.cores_ok (q := Q) (by assumption)
    | with_reducible exact Good.stores_ok (q := Q) (by assumption)
    | with_reducible exact Good.pending (q := Q) (by assumption)
    | (extract_lets +onlyGivenNames x; clear_value x)
    | split
    | (simp -zeta only [good_lit_iff]; refine ⟨?_, ?_, ?_, ?_, ?_, ?_, ?_, ?_⟩)

theorem execSilent_good {Q : List Instr} {s : State} (h_s : Good Q s) :
    GoodOut Q (execSilent s) := by
  unfold Sys2Proof.Machine.execSilent
  repeat' first
    | with_reducible assumption
    | with_reducible apply setFld_good (q := Q)
    | with_reducible apply goodOut_next
    | split

end Sys2Proof.Laws
end

