-- ==== Sys2Proof/Laws/GoodCollectives.lean ====
section
/-! SUPPORT. What each definition of Machine/Collectives.lean keeps: the queue and the canonical form of every store. -/

namespace Sys2Proof.Laws

open Sys2Proof.Machine Sys2Proof.Safety

theorem State_setRed_good {Q : List Instr} {s : State} {i : Nat} {x : RedCtx} (h_s : Good Q s) :
    Good Q (Sys2Proof.Machine.State.setRed s i x) := by
  unfold Sys2Proof.Machine.State.setRed
  repeat' first
    | with_reducible exact Good.mem_ok (q := Q) (by assumption)
    | with_reducible exact Good.regs_ok (q := Q) (by assumption)
    | with_reducible exact Good.ecc_ok (q := Q) (by assumption)
    | with_reducible exact Good.win_ok (q := Q) (by assumption)
    | with_reducible exact Good.cores_wf (q := Q) (by assumption)
    | with_reducible exact Good.cores_ok (q := Q) (by assumption)
    | with_reducible exact Good.pending (q := Q) (by assumption)
    | (simp -zeta only [good_lit_iff]; refine ⟨?_, ?_, ?_, ?_, ?_, ?_, ?_, ?_⟩)
    | with_reducible exact StoresOk.links (Good.stores_ok (q := Q) (by assumption))
    | with_reducible exact StoresOk.used (Good.stores_ok (q := Q) (by assumption))
    | with_reducible exact StoresOk.red (Good.stores_ok (q := Q) (by assumption))
    | with_reducible exact StoresOk.wit (Good.stores_ok (q := Q) (by assumption))
    | with_reducible exact StoresOk.frostX (Good.stores_ok (q := Q) (by assumption))
    | with_reducible exact StoresOk.wlt (Good.stores_ok (q := Q) (by assumption))
    | with_reducible exact StoresOk.subkeys (Good.stores_ok (q := Q) (by assumption))
    | with_reducible apply SMap.wf_put
    | with_reducible apply storesOk_mk

theorem stopRed_good {Q : List Instr} {i elem : Nat} {s : State} (h_s : Good Q s) :
    Good Q (stopRed i elem s) := by
  unfold Sys2Proof.Machine.stopRed
  repeat' first
    | with_reducible assumption
    | with_reducible apply xpBad_good
    | with_reducible apply State_setRed_good

theorem absorbXp_good {Q : List Instr} {i : Nat} {key : List Nat} {n : Nat} {l : List (Option XpElem)} {s : State} (h : Good Q s) :
    Good Q (absorbXp i key n l s) := by
  induction' l with t l ih generalizing n s <;> unfold absorbXp
  repeat' first
    | with_reducible assumption
    | with_reducible apply State_setRed_good
    | with_reducible apply stopRed_good
    | (extract_lets +onlyGivenNames x; clear_value x)
    | split
    | apply ih

theorem execXpAbsorb_good {Q : List Instr} {k : LinkId} {p : DataPkt} {s : State} (h_s : Good Q s) :
    GoodOut Q (execXpAbsorb k p s) := by
  unfold Sys2Proof.Machine.execXpAbsorb
  repeat' first
    | with_reducible assumption
    | with_reducible apply handle_good
    | with_reducible apply stopRed_good
    | with_reducible apply absorbXp_good
    | with_reducible apply goodOut_next
    | with_reducible apply goodOpt_some
    | intro x hx
    | (extract_lets +onlyGivenNames x; clear_value x)
    | split

theorem flushRed_good {Q : List Instr} {i : Nat} {last : Bool} {s : State} (h_s : Good Q s) :
    Good Q (flushRed i last s) := by
  unfold Sys2Proof.Machine.flushRed
  repeat' first
    | with_reducible assumption
    | with_reducible apply routeIllegal_good
    | with_reducible apply launch_good
    | with_reducible apply State_setRed_good
    | (extract_lets +onlyGivenNames x; clear_value x)
    | split

theorem emitElem_good {Q : List Instr} {i : Nat} {bs : List Byte} {last : Bool} {s : State} (h_s : Good Q s) :
    Good Q (emitElem i bs last s) := by
  unfold Sys2Proof.Machine.emitElem
  repeat' first
    | with_reducible assumption
    | with_reducible apply State_setRed_good
    | with_reducible apply flushRed_good
    | (extract_lets +onlyGivenNames x; refine cut_of (p := Good Q x) ?_ fun hx => ?_; (on_goal 1 => (dsimp -zeta only [x]; clear x)); (on_goal 2 => clear_value x))
    | (extract_lets +onlyGivenNames x; clear_value x)
    | split

theorem execReducerEmit_good {Q : List Instr} {d : BitVec 2} {x : BitVec 6} {s : State} (h_s : Good Q s) :
    GoodOut Q (execReducerEmit d x s) := by
  unfold Sys2Proof.Machine.execReducerEmit
  repeat' first
    | with_reducible assumption
    | with_reducible apply setFld_good (q := Q)
    | with_reducible apply raise_good
    | with_reducible apply useInj_good
    | with_reducible apply advanceTo_good
    | with_reducible apply State_setRed_good
    | with_reducible apply emitElem_good
    | with_reducible apply goodOut_next
    | (extract_lets +onlyGivenNames x; refine cut_of (p := Good Q x) ?_ fun hx => ?_; (on_goal 1 => (dsimp -zeta only [x]; clear x)); (on_goal 2 => clear_value x))
    | (extract_lets +onlyGivenNames x; clear_value x)
    | split

theorem resetReducers_good {Q : List Instr} {s : State} (h_s : Good Q s) :
    Good Q (resetReducers s) := by
  unfold Sys2Proof.Machine.resetReducers
  repeat' first
    | with_reducible assumption
    | with_reducible exact SMap.wf_nil _
    | with_reducible apply setFld_good (q := Q)
    | with_reducible apply addSat_good (q := Q)
    | with_reducible apply good_foldl
    | with_reducible exact Good.mem_ok (q := Q) (by assumption)
    | with_reducible exact Good.regs_ok (q := Q) (by assumption)
    | with_reducible exact Good.ecc_ok (q := Q) (by assumption)
    | with_reducible exact Good.win_ok (q := Q) (by assumption)
    | with_reducible exact Good.cores_wf (q := Q) (by assumption)
    | with_reducible exact Good.cores_ok (q := Q) (by assumption)
    | with_reducible exact Good.pending (q := Q) (by assumption)
    | intro x hx
    | (extract_lets +onlyGivenNames x; refine cut_of (p := Good Q x) ?_ fun hx => ?_; (on_goal 1 => (dsimp -zeta only [x]; clear x)); (on_goal 2 => clear_value x))
    | (extract_lets +onlyGivenNames x; clear_value x)
    | (simp -zeta only [good_lit_iff]; refine ⟨?_, ?_, ?_, ?_, ?_, ?_, ?_, ?_⟩)
    | with_reducible exact StoresOk.links (Good.stores_ok (q := Q) (by assumption))
    | with_reducible exact StoresOk.used (Good.stores_ok (q := Q) (by assumption))
    | with_reducible exact StoresOk.wit (Good.stores_ok (q := Q) (by assumption))
    | with_reducible exact StoresOk.frostX (Good.stores_ok (q := Q) (by assumption))
    | with_reducible exact StoresOk.wlt (Good.stores_ok (q := Q) (by assumption))
    | with_reducible exact StoresOk.subkeys (Good.stores_ok (q := Q) (by assumption))
    | with_reducible apply storesOk_mk

theorem stackError_good {Q : List Instr} {a : Nat} {injected : Bool} {s : State} (h_s : Good Q s) :
    Good Q (stackError a injected s) := by
  unfold Sys2Proof.Machine.stackError
  repeat' first
    | with_reducible assumption
    | with_reducible apply setFld_good (q := Q)
    | with_reducible apply raise_good

theorem countCorr_good {Q : List Instr} {a n : Nat} {s : State} (h_s : Good Q s) :
    Good Q (countCorr a n s) := by
  unfold Sys2Proof.Machine.countCorr
  repeat' first
    | with_reducible assumption
    | with_reducible apply stackCorr_good
    | with_reducible apply good_foldl
    | intro x hx

theorem execShardRequest_good {Q : List Instr} {k : LinkId} {p : DataPkt} {s : State} (h_s : Good Q s) :
    GoodOut Q (execShardRequest k p s) := by
  unfold Sys2Proof.Machine.execShardRequest
  repeat' first
    | with_reducible assumption
    | with_reducible exact goodOpt_none
    | with_reducible apply handle_good
    | with_reducible apply goodOut_next
    | with_reducible apply goodOpt_some
    | with_reducible exact Good.mem_ok (q := Q) (by assumption)
    | with_reducible exact Good.regs_ok (q := Q) (by assumption)
    | with_reducible exact Good.ecc_ok (q := Q) (by assumption)
    | with_reducible exact Good.win_ok (q := Q) (by assumption)
    | with_reducible exact Good.cores_wf (q := Q) (by assumption)
    | with_reducible exact Good.cores_ok (q := Q) (by assumption)
    | with_reducible exact Good.pending (q := Q) (by assumption)
    | intro x hx
    | (extract_lets +onlyGivenNames x; refine cut_of (p := SMap.wf (fun _ => (0 : Nat)) x.used = true) ?_ fun hx => ?_; (on_goal 1 => (dsimp -zeta only [x]; clear x)); (on_goal 2 => clear_value x))
    | split
    | (simp -zeta only [good_lit_iff]; refine ⟨?_, ?_, ?_, ?_, ?_, ?_, ?_, ?_⟩)
    | with_reducible exact StoresOk.links (Good.stores_ok (q := Q) (by assumption))
    | with_reducible exact StoresOk.used (Good.stores_ok (q := Q) (by assumption))
    | with_reducible exact StoresOk.red (Good.stores_ok (q := Q) (by assumption))
    | with_reducible exact StoresOk.wit (Good.stores_ok (q := Q) (by assumption))
    | with_reducible exact StoresOk.frostX (Good.stores_ok (q := Q) (by assumption))
    | with_reducible exact StoresOk.wlt (Good.stores_ok (q := Q) (by assumption))
    | with_reducible exact StoresOk.subkeys (Good.stores_ok (q := Q) (by assumption))
    | with_reducible apply storesOk_mk

theorem refuseShard_good {Q : List Instr} {ix : Nat} {s : State} (h_s : Good Q s) :
    Good Q (refuseShard ix s) := by
  unfold Sys2Proof.Machine.refuseShard
  repeat' first
    | with_reducible assumption
    | with_reducible apply setFld_good (q := Q)
    | with_reducible apply raise_good
    | split

theorem sendShard_good {Q : List Instr} {q : DataPkt} {base bytes : Nat} {s : State} (h_s : Good Q s) :
    Good Q (sendShard q base bytes s) := by
  unfold Sys2Proof.Machine.sendShard
  repeat' first
    | with_reducible assumption
    | with_reducible apply routeIllegal_good
    | with_reducible apply launch_good
    | with_reducible apply shareLines_good
    | with_reducible apply stackError_good
    | with_reducible apply countCorr_good
    | (extract_lets +onlyGivenNames x; refine cut_of (p := Good Q x) ?_ fun hx => ?_; (on_goal 1 => (dsimp -zeta only [x]; clear x)); (on_goal 2 => clear_value x))
    | (extract_lets +onlyGivenNames x; clear_value x)
    | split

theorem execShardServe_good {Q : List Instr} {s : State} (h_s : Good Q s) :
    GoodOut Q (execShardServe s) := by
  unfold Sys2Proof.Machine.execShardServe
  repeat' first
    | with_reducible assumption
    | with_reducible apply refuseShard_good
    | with_reducible apply sendShard_good
    | with_reducible apply goodOut_next
    | with_reducible exact Good.mem_ok (q := Q) (by assumption)
    | with_reducible exact Good.regs_ok (q := Q) (by assumption)
    | with_reducible exact Good.ecc_ok (q := Q) (by assumption)
    | with_reducible exact Good.win_ok (q := Q) (by assumption)
    | with_reducible exact Good.cores_wf (q := Q) (by assumption)
    | with_reducible exact Good.cores_ok (q := Q) (by assumption)
    | with_reducible exact Good.pending (q := Q) (by assumption)
    | (extract_lets +onlyGivenNames x; refine cut_of (p := Good Q x) ?_ fun hx => ?_; (on_goal 1 => (dsimp -zeta only [x]; clear x)); (on_goal 2 => clear_value x))
    | (extract_lets +onlyGivenNames x; refine cut_of (p := SMap.wf (fun _ => (0 : Nat)) x.used = true) ?_ fun hx => ?_; (on_goal 1 => (dsimp -zeta only [x]; clear x)); (on_goal 2 => clear_value x))
    | (extract_lets +onlyGivenNames x; clear_value x)
    | split
    | (simp -zeta only [good_lit_iff]; refine ⟨?_, ?_, ?_, ?_, ?_, ?_, ?_, ?_⟩)
    | with_reducible exact StoresOk.links (Good.stores_ok (q := Q) (by assumption))
    | with_reducible exact StoresOk.used (Good.stores_ok (q := Q) (by assumption))
    | with_reducible exact StoresOk.red (Good.stores_ok (q := Q) (by assumption))
    | with_reducible exact StoresOk.wit (Good.stores_ok (q := Q) (by assumption))
    | with_reducible exact StoresOk.frostX (Good.stores_ok (q := Q) (by assumption))
    | with_reducible exact StoresOk.wlt (Good.stores_ok (q := Q) (by assumption))
    | with_reducible exact StoresOk.subkeys (Good.stores_ok (q := Q) (by assumption))
    | with_reducible apply storesOk_mk

theorem takeRequest_good {Q : List Instr} {k : LinkId} {p : DataPkt} {s : State} (h_s : Good Q s) :
    Good Q (takeRequest k p s) := by
  unfold Sys2Proof.Machine.takeRequest
  repeat' first
    | with_reducible assumption
    | with_reducible exact goodOpt_none
    | with_reducible apply handle_good
    | with_reducible apply goodOpt_some
    | with_reducible exact Good.mem_ok (q := Q) (by assumption)
    | with_reducible exact Good.regs_ok (q := Q) (by assumption)
    | with_reducible exact Good.ecc_ok (q := Q) (by assumption)
    | with_reducible exact Good.win_ok (q := Q) (by assumption)
    | with_reducible exact Good.cores_wf (q := Q) (by assumption)
    | with_reducible exact Good.cores_ok (q := Q) (by assumption)
    | with_reducible exact Good.pending (q := Q) (by assumption)
    | intro x hx
    | (extract_lets +onlyGivenNames x; refine cut_of (p := SMap.wf (fun _ => (0 : Nat)) x.used = true) ?_ fun hx => ?_; (on_goal 1 => (dsimp -zeta only [x]; clear x)); (on_goal 2 => clear_value x))
    | split
    | (simp -zeta only [good_lit_iff]; refine ⟨?_, ?_, ?_, ?_, ?_, ?_, ?_, ?_⟩)
    | with_reducible exact StoresOk.links (Good.stores_ok (q := Q) (by assumption))
    | with_reducible exact StoresOk.used (Good.stores_ok (q := Q) (by assumption))
    | with_reducible exact StoresOk.red (Good.stores_ok (q := Q) (by assumption))
    | with_reducible exact StoresOk.wit (Good.stores_ok (q := Q) (by assumption))
    | with_reducible exact StoresOk.frostX (Good.stores_ok (q := Q) (by assumption))
    | with_reducible exact StoresOk.wlt (Good.stores_ok (q := Q) (by assumption))
    | with_reducible exact StoresOk.subkeys (Good.stores_ok (q := Q) (by assumption))
    | with_reducible apply storesOk_mk

theorem execRdReq_good {Q : List Instr} {k : LinkId} {p : DataPkt} {s : State} (h_s : Good Q s) :
    GoodOut Q (execRdReq k p s) := by
  unfold Sys2Proof.Machine.execRdReq
  repeat' first
    | with_reducible assumption
    | with_reducible apply takeRequest_good
    | with_reducible apply goodOut_next
    | split

theorem execWrReq_good {Q : List Instr} {k : LinkId} {p : DataPkt} {s : State} (h_s : Good Q s) :
    GoodOut Q (execWrReq k p s) := by
  unfold Sys2Proof.Machine.execWrReq
  repeat' first
    | with_reducible assumption
    | with_reducible apply takeRequest_good
    | with_reducible apply goodOut_next
    | split

theorem replyTo_good {Q : List Instr} {q : DataPkt} {kind status : Nat} {payload : List Byte} {s : State} (h_s : Good Q s) :
    Good Q (replyTo q kind status payload s) := by
  unfold Sys2Proof.Machine.replyTo
  repeat' first
    | with_reducible assumption
    | with_reducible apply drawWord_good
    | with_reducible apply routeIllegal_good
    | with_reducible apply launch_good
    | with_reducible refine good_snd (by assumption) ?_
    | (extract_lets +onlyGivenNames x; clear_value x)
    | split

theorem serveRequest_good {Q : List Instr} {p : DataPkt} {a n : Nat} {s : State} (h_s : Good Q s) :
    Good Q (serveRequest p a n s) := by
  unfold Sys2Proof.Machine.serveRequest
  repeat' first
    | with_reducible assumption
    | with_reducible apply State_store_good
    | with_reducible apply shareLines_good
    | with_reducible apply stackError_good
    | with_reducible apply countCorr_good
    | with_reducible apply replyTo_good
    | (extract_lets +onlyGivenNames x; refine cut_of (p := Good Q x) ?_ fun hx => ?_; (on_goal 1 => (dsimp -zeta only [x]; clear x)); (on_goal 2 => clear_value x))
    | split

theorem execRequestServe_good {Q : List Instr} {s : State} (h_s : Good Q s) :
    GoodOut Q (execRequestServe s) := by
  unfold Sys2Proof.Machine.execRequestServe
  repeat' first
    | with_reducible assumption
    | with_reducible apply replyTo_good
    | with_reducible apply serveRequest_good
    | with_reducible apply goodOut_next
    | with_reducible exact Good.mem_ok (q := Q) (by assumption)
    | with_reducible exact Good.regs_ok (q := Q) (by assumption)
    | with_reducible exact Good.ecc_ok (q := Q) (by assumption)
    | with_reducible exact Good.win_ok (q := Q) (by assumption)
    | with_reducible exact Good.cores_wf (q := Q) (by assumption)
    | with_reducible exact Good.cores_ok (q := Q) (by assumption)
    | with_reducible exact Good.pending (q := Q) (by assumption)
    | (extract_lets +onlyGivenNames x; refine cut_of (p := Good Q x) ?_ fun hx => ?_; (on_goal 1 => (dsimp -zeta only [x]; clear x)); (on_goal 2 => clear_value x))
    | (extract_lets +onlyGivenNames x; refine cut_of (p := SMap.wf (fun _ => (0 : Nat)) x.used = true) ?_ fun hx => ?_; (on_goal 1 => (dsimp -zeta only [x]; clear x)); (on_goal 2 => clear_value x))
    | (extract_lets +onlyGivenNames x; clear_value x)
    | split
    | (simp -zeta only [good_lit_iff]; refine ⟨?_, ?_, ?_, ?_, ?_, ?_, ?_, ?_⟩)
    | with_reducible exact StoresOk.links (Good.stores_ok (q := Q) (by assumption))
    | with_reducible exact StoresOk.used (Good.stores_ok (q := Q) (by assumption))
    | with_reducible exact StoresOk.red (Good.stores_ok (q := Q) (by assumption))
    | with_reducible exact StoresOk.wit (Good.stores_ok (q := Q) (by assumption))
    | with_reducible exact StoresOk.frostX (Good.stores_ok (q := Q) (by assumption))
    | with_reducible exact StoresOk.wlt (Good.stores_ok (q := Q) (by assumption))
    | with_reducible exact StoresOk.subkeys (Good.stores_ok (q := Q) (by assumption))
    | with_reducible apply storesOk_mk

theorem State_setWit_good {Q : List Instr} {s : State} {w : Nat} {r : WitRun} (h_s : Good Q s) :
    Good Q (Sys2Proof.Machine.State.setWit s w r) := by
  unfold Sys2Proof.Machine.State.setWit
  repeat' first
    | with_reducible exact Good.mem_ok (q := Q) (by assumption)
    | with_reducible exact Good.regs_ok (q := Q) (by assumption)
    | with_reducible exact Good.ecc_ok (q := Q) (by assumption)
    | with_reducible exact Good.win_ok (q := Q) (by assumption)
    | with_reducible exact Good.cores_wf (q := Q) (by assumption)
    | with_reducible exact Good.cores_ok (q := Q) (by assumption)
    | with_reducible exact Good.pending (q := Q) (by assumption)
    | (simp -zeta only [good_lit_iff]; refine ⟨?_, ?_, ?_, ?_, ?_, ?_, ?_, ?_⟩)
    | with_reducible exact StoresOk.links (Good.stores_ok (q := Q) (by assumption))
    | with_reducible exact StoresOk.used (Good.stores_ok (q := Q) (by assumption))
    | with_reducible exact StoresOk.red (Good.stores_ok (q := Q) (by assumption))
    | with_reducible exact StoresOk.wit (Good.stores_ok (q := Q) (by assumption))
    | with_reducible exact StoresOk.frostX (Good.stores_ok (q := Q) (by assumption))
    | with_reducible exact StoresOk.wlt (Good.stores_ok (q := Q) (by assumption))
    | with_reducible exact StoresOk.subkeys (Good.stores_ok (q := Q) (by assumption))
    | with_reducible apply SMap.wf_put
    | with_reducible apply storesOk_mk

theorem abandonWit_good {Q : List Instr} {w : Nat} {s : State} (h_s : Good Q s) :
    Good Q (abandonWit w s) := by
  unfold Sys2Proof.Machine.abandonWit
  repeat' first
    | with_reducible assumption
    | with_reducible apply setFld_good (q := Q)
    | split

theorem execWitnessRunStart_good {Q : List Instr} {w : BitVec 5} {s : State} (h_s : Good Q s) :
    GoodOut Q (execWitnessRunStart w s) := by
  unfold Sys2Proof.Machine.execWitnessRunStart
  repeat' first
    | with_reducible assumption
    | with_reducible apply setFld_good (q := Q)
    | with_reducible apply State_setWit_good
    | with_reducible apply abandonWit_good
    | with_reducible apply goodOut_next
    | (extract_lets +onlyGivenNames x; refine cut_of (p := Good Q x) ?_ fun hx => ?_; (on_goal 1 => (dsimp -zeta only [x]; clear x)); (on_goal 2 => clear_value x))
    | (extract_lets +onlyGivenNames x; clear_value x)
    | split

theorem execWitnessRunDone_good {Q : List Instr} {w : BitVec 5} {s : State} (h_s : Good Q s) :
    GoodOut Q (execWitnessRunDone w s) := by
  unfold Sys2Proof.Machine.execWitnessRunDone
  repeat' first
    | with_reducible assumption
    | with_reducible apply setReg_good (q := Q)
    | with_reducible apply setFld_good (q := Q)
    | with_reducible apply drawWord_good
    | with_reducible apply twinDone_good
    | with_reducible apply stackError_good
    | with_reducible apply countCorr_good
    | with_reducible apply State_setWit_good
    | with_reducible apply goodOut_next
    | with_reducible apply good_foldl
    | intro x hx
    | (extract_lets +onlyGivenNames x; refine cut_of (p := Good Q x) ?_ fun hx => ?_; (on_goal 1 => (dsimp -zeta only [x]; clear x)); (on_goal 2 => clear_value x))
    | (extract_lets +onlyGivenNames x; clear_value x)
    | split

end Sys2Proof.Laws
end

