-- ==== Sys2Proof/Laws/GoodBus.lean ====
section
/-! SUPPORT. What each definition of Machine/Bus.lean keeps: the queue and the canonical form of every store. -/

namespace Sys2Proof.Laws

open Sys2Proof.Machine Sys2Proof.Safety

theorem svcNote_good {Q : List Instr} {f : Fld} {req a : Nat} {s : State} (h_s : Good Q s) :
    Good Q (svcNote f req a s) := by
  unfold Sys2Proof.Machine.svcNote
  repeat' first
    | with_reducible assumption
    | with_reducible apply setFld_good (q := Q)
    | split

theorem holdWrite_good {Q : List Instr} {q : Bool} {f : Fld} {v : Nat} {s : State} (h_s : Good Q s) :
    Good Q (holdWrite q f v s) := by
  unfold Sys2Proof.Machine.holdWrite
  repeat' first
    | with_reducible exact Good.mem_ok (q := Q) (by assumption)
    | with_reducible exact Good.regs_ok (q := Q) (by assumption)
    | with_reducible exact Good.ecc_ok (q := Q) (by assumption)
    | with_reducible exact Good.win_ok (q := Q) (by assumption)
    | with_reducible exact Good.cores_wf (q := Q) (by assumption)
    | with_reducible exact Good.cores_ok (q := Q) (by assumption)
    | with_reducible exact Good.stores_ok (q := Q) (by assumption)
    | with_reducible exact Good.pending (q := Q) (by assumption)
    | (extract_lets +onlyGivenNames x; clear_value x)
    | split
    | (simp -zeta only [good_lit_iff]; refine ⟨?_, ?_, ?_, ?_, ?_, ?_, ?_, ?_⟩)

theorem setBits_good {Q : List Instr} {fs : List Fld} {s : State} (h_s : Good Q s) :
    Good Q (setBits fs s) := by
  unfold Sys2Proof.Machine.setBits
  repeat' first
    | with_reducible assumption
    | with_reducible apply setFld_good (q := Q)
    | with_reducible apply good_foldl
    | intro x hx

theorem sendMsix_good {Q : List Instr} {v : Nat} {s : State} (h_s : Good Q s) :
    Good Q (sendMsix v s) := by
  unfold Sys2Proof.Machine.sendMsix
  repeat' first
    | with_reducible assumption
    | with_reducible apply setReg_good (q := Q)
    | with_reducible exact Good.mem_ok (q := Q) (by assumption)
    | with_reducible exact Good.regs_ok (q := Q) (by assumption)
    | with_reducible exact Good.ecc_ok (q := Q) (by assumption)
    | with_reducible exact Good.win_ok (q := Q) (by assumption)
    | with_reducible exact Good.cores_wf (q := Q) (by assumption)
    | with_reducible exact Good.cores_ok (q := Q) (by assumption)
    | with_reducible exact Good.stores_ok (q := Q) (by assumption)
    | with_reducible exact Good.pending (q := Q) (by assumption)
    | (extract_lets +onlyGivenNames x; refine cut_of (p := Good Q x) ?_ fun hx => ?_; (on_goal 1 => (dsimp -zeta only [x]; clear x)); (on_goal 2 => clear_value x))
    | split
    | (simp -zeta only [good_lit_iff]; refine ⟨?_, ?_, ?_, ?_, ?_, ?_, ?_, ?_⟩)

theorem unmaskMsix_good {Q : List Instr} {v : Nat} {s : State} (h_s : Good Q s) :
    Good Q (unmaskMsix v s) := by
  unfold Sys2Proof.Machine.unmaskMsix
  repeat' first
    | with_reducible assumption
    | with_reducible apply sendMsix_good
    | split

theorem discardPending_good {Q : List Instr} {s : State} (h_s : Good Q s) :
    Good Q (discardPending s) := by
  unfold Sys2Proof.Machine.discardPending
  repeat' first
    | with_reducible apply setFld_good (q := Q)
    | with_reducible exact Good.mem_ok (q := Q) (by assumption)
    | with_reducible exact Good.regs_ok (q := Q) (by assumption)
    | with_reducible exact Good.ecc_ok (q := Q) (by assumption)
    | with_reducible exact Good.win_ok (q := Q) (by assumption)
    | with_reducible exact Good.cores_wf (q := Q) (by assumption)
    | with_reducible exact Good.cores_ok (q := Q) (by assumption)
    | with_reducible exact Good.stores_ok (q := Q) (by assumption)
    | with_reducible exact Good.pending (q := Q) (by assumption)
    | (simp -zeta only [good_lit_iff]; refine ⟨?_, ?_, ?_, ?_, ?_, ?_, ?_, ?_⟩)

theorem writeField_good {Q : List Instr} {req a : Nat} {r : FieldRow} {x : Nat} {s : State} (h_s : Good Q s) :
    Good Q (writeField req a r x s) := by
  unfold Sys2Proof.Machine.writeField
  repeat' first
    | with_reducible assumption
    | with_reducible apply setFld_good (q := Q)
    | with_reducible apply svcNote_good
    | with_reducible apply holdWrite_good
    | with_reducible apply setBits_good
    | with_reducible apply discardPending_good
    | (extract_lets +onlyGivenNames x; clear_value x)
    | split

theorem writeReg_good {Q : List Instr} {req a : Nat} {v : Word} {s : State} (h_s : Good Q s) :
    Good Q (writeReg req a v s) := by
  unfold Sys2Proof.Machine.writeReg
  repeat' first
    | with_reducible assumption
    | with_reducible apply svcNote_good
    | with_reducible apply setBits_good
    | with_reducible apply writeField_good
    | with_reducible apply good_foldl
    | intro x hx
    | (extract_lets +onlyGivenNames x; refine cut_of (p := Good Q x) ?_ fun hx => ?_; (on_goal 1 => (dsimp -zeta only [x]; clear x)); (on_goal 2 => clear_value x))
    | (extract_lets +onlyGivenNames x; refine cut_of (p := ∀ s a, Good Q s → Good Q (x s a)) ?_ fun hfun => ?_; (on_goal 1 => (dsimp -zeta only [x]; clear x)); (on_goal 2 => clear_value x))
    | split

theorem writeMsix4_good {Q : List Instr} {a : Nat} {x : Nat} {s : State} (h_s : Good Q s) :
    Good Q (writeMsix4 a x s) := by
  unfold Sys2Proof.Machine.writeMsix4
  repeat' first
    | with_reducible assumption
    | with_reducible apply setFld_good (q := Q)

theorem windowErrors_good {Q : List Instr} {c : CoreId} {scr : Bool} {a n : Nat} {s : State} (h_s : Good Q s) :
    Good Q (windowErrors c scr a n s) := by
  unfold Sys2Proof.Machine.windowErrors
  repeat' first
    | with_reducible assumption
    | with_reducible apply setFld_good (q := Q)
    | with_reducible apply raise_good
    | with_reducible apply sramCorr_good
    | with_reducible apply storeCorr_good
    | (extract_lets +onlyGivenNames x; refine cut_of (p := Good Q x) ?_ fun hx => ?_; (on_goal 1 => (dsimp -zeta only [x]; clear x)); (on_goal 2 => clear_value x))
    | split

theorem readWindow_good {Q : List Instr} {ok : Bool} {c : Nat} {scr : Bool} {req a n : Nat} {s : State} (h_s : Good Q s) :
    Good Q (readWindow ok c scr req a n s).2 := by
  unfold Sys2Proof.Machine.readWindow
  repeat' first
    | with_reducible assumption
    | with_reducible apply drawBytes_good
    | with_reducible apply svcNote_good
    | with_reducible apply windowErrors_good
    | split

theorem writeWindow_good {Q : List Instr} {ok : Bool} {req a : Nat} {bs : List Byte} {s : State} (h_s : Good Q s) :
    Good Q (writeWindow ok req a bs s) := by
  unfold Sys2Proof.Machine.writeWindow
  repeat' first
    | with_reducible assumption
    | with_reducible apply State_store_good
    | with_reducible apply svcNote_good
    | split

theorem busReadNow_good {Q : List Instr} {req a n : Nat} {s : State} (h_s : Good Q s) :
    Good Q (busReadNow req a n s).2 := by
  unfold Sys2Proof.Machine.busReadNow
  repeat' first
    | with_reducible assumption
    | with_reducible apply setFld_good (q := Q)
    | with_reducible apply countCorr_good
    | with_reducible apply svcNote_good
    | with_reducible apply readWindow_good
    | with_reducible apply good_foldl
    | intro x hx
    | intro x
    | (extract_lets +onlyGivenNames x; refine cut_of (p := Good Q x) ?_ fun hx => ?_; (on_goal 1 => (dsimp -zeta only [x]; clear x)); (on_goal 2 => clear_value x))
    | (extract_lets +onlyGivenNames x; clear_value x)
    | split

theorem busRead_good {Q : List Instr} {req a n : Nat} {s : State} (h_s : Good Q s) :
    Good Q (busRead req a n s).2 := by
  unfold Sys2Proof.Machine.busRead
  repeat' first
    | with_reducible assumption
    | with_reducible apply shareLines_good
    | with_reducible apply busReadNow_good
    | split

theorem busWriteRegs_good {Q : List Instr} {req n a : Nat} {bs : List Byte} {s : State} (h : Good Q s) :
    Good Q (busWriteRegs req n a bs s) := by
  induction' n with n ih generalizing a bs s <;> unfold busWriteRegs
  repeat' first
    | with_reducible assumption
    | with_reducible apply writeReg_good
    | split
    | apply ih

theorem busWrite_good {Q : List Instr} {req a : Nat} {bs : List Byte} {s : State} (h_s : Good Q s) :
    Good Q (busWrite req a bs s) := by
  unfold Sys2Proof.Machine.busWrite
  repeat' first
    | with_reducible assumption
    | with_reducible apply State_store_good
    | with_reducible apply shareLines_good
    | with_reducible apply svcNote_good
    | with_reducible apply writeMsix4_good
    | with_reducible apply writeWindow_good
    | with_reducible apply busWriteRegs_good
    | split

theorem granted_good {Q : List Instr} {w : Nat} {rs : List Nat} {s : State} (h_s : Good Q s) :
    Good Q (granted w rs s) := by
  unfold Sys2Proof.Machine.granted
  repeat' first
    | with_reducible assumption
    | with_reducible apply setFld_good (q := Q)
    | with_reducible apply addSat_good (q := Q)
    | with_reducible apply good_foldl
    | with_reducible exact Good.mem_ok (q := Q) (by assumption)
    | with_reducible exact Good.regs_ok (q := Q) (by assumption)
    | with_reducible exact Good.ecc_ok (q := Q) (by assumption)
    | with_reducible exact Good.win_ok (q := Q) (by assumption)
    | with_reducible exact Good.cores_wf (q := Q) (by assumption)
    | with_reducible exact Good.cores_ok (q := Q) (by assumption)
    | with_reducible exact Good.stores_ok (q := Q) (by assumption)
    | with_reducible exact Good.pending (q := Q) (by assumption)
    | intro x hx
    | intro x
    | (extract_lets +onlyGivenNames x; refine cut_of (p := Good Q x) ?_ fun hx => ?_; (on_goal 1 => (dsimp -zeta only [x]; clear x)); (on_goal 2 => clear_value x))
    | (extract_lets +onlyGivenNames x; clear_value x)
    | split
    | (simp -zeta only [good_lit_iff]; refine ⟨?_, ?_, ?_, ?_, ?_, ?_, ?_, ?_⟩)

theorem enqueueBus_good {Q : List Instr} {new : List BusReq} {s : State} (h_s : Good Q s) :
    Good Q (enqueueBus new s) := by
  unfold Sys2Proof.Machine.enqueueBus
  repeat' first
    | with_reducible assumption
    | with_reducible apply good_foldl
    | with_reducible exact Good.mem_ok (q := Q) (by assumption)
    | with_reducible exact Good.regs_ok (q := Q) (by assumption)
    | with_reducible exact Good.ecc_ok (q := Q) (by assumption)
    | with_reducible exact Good.win_ok (q := Q) (by assumption)
    | with_reducible exact Good.cores_wf (q := Q) (by assumption)
    | with_reducible exact Good.cores_ok (q := Q) (by assumption)
    | with_reducible exact Good.stores_ok (q := Q) (by assumption)
    | with_reducible exact Good.pending (q := Q) (by assumption)
    | intro x hx
    | intro x
    | (extract_lets +onlyGivenNames x; clear_value x)
    | split
    | (simp -zeta only [good_lit_iff]; refine ⟨?_, ?_, ?_, ?_, ?_, ?_, ?_, ?_⟩)

theorem busReadAll_good {Q : List Instr} {req a n : Nat} {s : State} (h_s : Good Q s) :
    Good Q (busReadAll req a n s).2 := by
  unfold Sys2Proof.Machine.busReadAll
  repeat' first
    | with_reducible assumption
    | with_reducible apply busRead_good
    | with_reducible apply good_foldl_snd
    | intro x hx

theorem busWriteAll_good {Q : List Instr} {req a : Nat} {bs : List Byte} {s : State} (h_s : Good Q s) :
    Good Q (busWriteAll req a bs s) := by
  unfold Sys2Proof.Machine.busWriteAll
  repeat' first
    | with_reducible assumption
    | with_reducible apply busWrite_good
    | with_reducible apply good_foldl
    | intro x hx

theorem carryOut_good {Q : List Instr} {q : BusReq} {s : State} (h_s : Good Q s) :
    Good Q (carryOut q s) := by
  unfold Sys2Proof.Machine.carryOut
  repeat' first
    | with_reducible assumption
    | with_reducible apply unmaskMsix_good
    | with_reducible apply busReadAll_good
    | with_reducible apply busWriteAll_good
    | with_reducible apply good_foldl
    | with_reducible apply memWrite_wf
    | with_reducible exact Good.mem_ok (q := Q) (by assumption)
    | with_reducible exact Good.regs_ok (q := Q) (by assumption)
    | with_reducible exact Good.ecc_ok (q := Q) (by assumption)
    | with_reducible exact Good.win_ok (q := Q) (by assumption)
    | with_reducible exact Good.cores_wf (q := Q) (by assumption)
    | with_reducible exact Good.cores_ok (q := Q) (by assumption)
    | with_reducible exact Good.stores_ok (q := Q) (by assumption)
    | with_reducible exact Good.pending (q := Q) (by assumption)
    | intro x hx
    | (extract_lets +onlyGivenNames x; refine cut_of (p := Good Q x) ?_ fun hx => ?_; (on_goal 1 => (dsimp -zeta only [x]; clear x)); (on_goal 2 => clear_value x))
    | (extract_lets +onlyGivenNames x; refine cut_of (p := ∀ p : List Byte × State, Good Q p.2 → Good Q (x p)) ?_ fun hfun => ?_; (on_goal 1 => (dsimp -zeta only [x]; clear x)); (on_goal 2 => clear_value x))
    | (extract_lets +onlyGivenNames x; clear_value x)
    | split
    | (simp -zeta only [good_lit_iff]; refine ⟨?_, ?_, ?_, ?_, ?_, ?_, ?_, ?_⟩)
    | with_reducible apply hfun

theorem serve_good {Q : List Instr} {w : Nat} {s : State} (h_s : Good Q s) :
    Good Q (serve w s) := by
  unfold Sys2Proof.Machine.serve
  repeat' first
    | with_reducible assumption
    | with_reducible apply carryOut_good
    | with_reducible exact Good.mem_ok (q := Q) (by assumption)
    | with_reducible exact Good.regs_ok (q := Q) (by assumption)
    | with_reducible exact Good.ecc_ok (q := Q) (by assumption)
    | with_reducible exact Good.win_ok (q := Q) (by assumption)
    | with_reducible exact Good.cores_wf (q := Q) (by assumption)
    | with_reducible exact Good.cores_ok (q := Q) (by assumption)
    | with_reducible exact Good.stores_ok (q := Q) (by assumption)
    | with_reducible exact Good.pending (q := Q) (by assumption)
    | (extract_lets +onlyGivenNames x; refine cut_of (p := SMap.wf (fun _ => (0 : Nat)) x.used = true) ?_ fun hx => ?_; (on_goal 1 => (dsimp -zeta only [x]; clear x)); (on_goal 2 => clear_value x))
    | (extract_lets +onlyGivenNames x; clear_value x)
    | split
    | (simp -zeta only [good_lit_iff]; refine ⟨?_, ?_, ?_, ?_, ?_, ?_, ?_, ?_⟩)
    | with_reducible exact StoresOk.links (Good.stores_ok (q := Q) (by assumption))
    | with_reducible exact StoresOk.used (Good.stores_ok (q := Q) (by assumption))
    | with_reducible exact StoresOk.red (Good.stores_ok (q := Q) (by assumption))
    | with_reducible exact StoresOk.wit (Good.stores_ok (q := Q) (by assumption))
    | with_reducible exact StoresOk.frostX (Good.stores_ok (q := Q) (by assumption))
    | with_reducible exact StoresOk.wlt (Good.stores_ok (q := Q) (by assumption))
    | with_reducible exact StoresOk.subkeys (Good.stores_ok (q := Q) (by assumption))
    | with_reducible apply storesOk_mk

theorem execServiceBusTransfer_good {Q : List Instr} {new : List BusReq} {s : State} (h_s : Good Q s) :
    GoodOut Q (execServiceBusTransfer new s) := by
  unfold Sys2Proof.Machine.execServiceBusTransfer
  repeat' first
    | with_reducible assumption
    | with_reducible apply granted_good
    | with_reducible apply enqueueBus_good
    | with_reducible apply serve_good
    | with_reducible apply goodOut_next
    | (extract_lets +onlyGivenNames x; refine cut_of (p := Good Q x) ?_ fun hx => ?_; (on_goal 1 => (dsimp -zeta only [x]; clear x)); (on_goal 2 => clear_value x))
    | split

theorem turnsUntil_good {Q : List Instr} {r : Nat} {f : State → State} {n : Nat} {s : State} (h_f : ∀ t, Good Q t → Good Q (f t)) (h : Good Q s) :
    Good Q (turnsUntil r f n s) := by
  induction' n with n ih generalizing s <;> unfold turnsUntil
  repeat' first
    | apply h_f
    | with_reducible assumption
    | with_reducible apply granted_good
    | with_reducible apply serve_good
    | (extract_lets +onlyGivenNames x; clear_value x)
    | split
    | apply ih

theorem busUse_good {Q : List Instr} {r : Nat} {f : State → State} {s : State} (h_f : ∀ a0, Good Q a0 → Good Q (f a0)) (h_s : Good Q s) :
    Good Q (busUse r f s) := by
  unfold Sys2Proof.Machine.busUse
  repeat' first
    | with_reducible assumption
    | with_reducible apply turnsUntil_good

theorem hostWrite_good {Q : List Instr} {a : Nat} {v : Word} {s : State} (h_s : Good Q s) :
    Good Q (hostWrite a v s) := by
  unfold Sys2Proof.Machine.hostWrite
  repeat' first
    | with_reducible assumption
    | with_reducible apply writeReg_good
    | with_reducible apply busUse_good
    | split

theorem hostField_good {Q : List Instr} {f : Fld} {x : Nat} {s : State} (h_s : Good Q s) :
    Good Q (hostField f x s) := by
  unfold Sys2Proof.Machine.hostField
  repeat' first
    | with_reducible assumption
    | with_reducible apply hostWrite_good

theorem execRegisterWrite_good {Q : List Instr} {a : BitVec 48} {v : Word} {s : State} (h_s : Good Q s) :
    GoodOut Q (execRegisterWrite a v s) := by
  unfold Sys2Proof.Machine.execRegisterWrite
  repeat' first
    | with_reducible assumption
    | with_reducible apply unmaskMsix_good
    | with_reducible apply writeReg_good
    | with_reducible apply busUse_good
    | with_reducible apply hostWrite_good
    | with_reducible apply goodOut_next
    | with_reducible apply good_foldl
    | intro x hx
    | split

theorem execScnLenWrite_good {Q : List Instr} {len : BitVec 24} {s : State} (h_s : Good Q s) :
    GoodOut Q (execScnLenWrite len s) := by
  unfold Sys2Proof.Machine.execScnLenWrite
  repeat' first
    | with_reducible assumption
    | with_reducible apply hostField_good
    | with_reducible apply goodOut_next

theorem execClearHalt_good {Q : List Instr} {s : State} (h_s : Good Q s) :
    GoodOut Q (execClearHalt s) := by
  unfold Sys2Proof.Machine.execClearHalt
  repeat' first
    | with_reducible assumption
    | with_reducible apply hostField_good
    | with_reducible apply goodOut_next

theorem execTimRoleWrite_good {Q : List Instr} {root : Bool} {s : State} (h_s : Good Q s) :
    GoodOut Q (execTimRoleWrite root s) := by
  unfold Sys2Proof.Machine.execTimRoleWrite
  repeat' first
    | with_reducible assumption
    | with_reducible apply hostField_good
    | with_reducible apply goodOut_next

theorem execTimCtrlWrite_good {Q : List Instr} {en : Bool} {s : State} (h_s : Good Q s) :
    GoodOut Q (execTimCtrlWrite en s) := by
  unfold Sys2Proof.Machine.execTimCtrlWrite
  repeat' first
    | with_reducible assumption
    | with_reducible apply hostField_good
    | with_reducible apply goodOut_next

theorem execTimEpochWrite_good {Q : List Instr} {t : Word} {s : State} (h_s : Good Q s) :
    GoodOut Q (execTimEpochWrite t s) := by
  unfold Sys2Proof.Machine.execTimEpochWrite
  repeat' first
    | with_reducible assumption
    | with_reducible apply hostField_good
    | with_reducible apply goodOut_next

theorem execTimCueParentWrite_good {Q : List Instr} {port : BitVec 6} {s : State} (h_s : Good Q s) :
    GoodOut Q (execTimCueParentWrite port s) := by
  unfold Sys2Proof.Machine.execTimCueParentWrite
  repeat' first
    | with_reducible assumption
    | with_reducible apply hostField_good
    | with_reducible apply goodOut_next

theorem execTimCueChildWrite_good {Q : List Instr} {mask : BitVec 48} {s : State} (h_s : Good Q s) :
    GoodOut Q (execTimCueChildWrite mask s) := by
  unfold Sys2Proof.Machine.execTimCueChildWrite
  repeat' first
    | with_reducible assumption
    | with_reducible apply hostField_good
    | with_reducible apply goodOut_next

theorem execCfrOvfWrite_good {Q : List Instr} {c : CoreId} {size : Bool} {v : Word} {s : State} (h_s : Good Q s) :
    GoodOut Q (execCfrOvfWrite c size v s) := by
  unfold Sys2Proof.Machine.execCfrOvfWrite
  repeat' first
    | with_reducible assumption
    | with_reducible apply hostWrite_good
    | with_reducible apply goodOut_next

theorem execCfgHistWrite_good {Q : List Instr} {count : Bool} {v : Word} {s : State} (h_s : Good Q s) :
    GoodOut Q (execCfgHistWrite count v s) := by
  unfold Sys2Proof.Machine.execCfgHistWrite
  repeat' first
    | with_reducible assumption
    | with_reducible apply hostWrite_good
    | with_reducible apply goodOut_next

theorem execHstTelBaseWrite_good {Q : List Instr} {v : Word} {s : State} (h_s : Good Q s) :
    GoodOut Q (execHstTelBaseWrite v s) := by
  unfold Sys2Proof.Machine.execHstTelBaseWrite
  repeat' first
    | with_reducible assumption
    | with_reducible apply hostWrite_good
    | with_reducible apply goodOut_next

theorem execHstCplHeadWrite_good {Q : List Instr} {head : BitVec 16} {s : State} (h_s : Good Q s) :
    GoodOut Q (execHstCplHeadWrite head s) := by
  unfold Sys2Proof.Machine.execHstCplHeadWrite
  repeat' first
    | with_reducible assumption
    | with_reducible apply hostField_good
    | with_reducible apply goodOut_next

theorem execMsixTableWrite_good {Q : List Instr} {i : BitVec 8} {wide : Bool} {v : Word} {s : State} (h_s : Good Q s) :
    GoodOut Q (execMsixTableWrite i wide v s) := by
  unfold Sys2Proof.Machine.execMsixTableWrite
  repeat' first
    | with_reducible assumption
    | with_reducible apply unmaskMsix_good
    | with_reducible apply busWrite_good
    | with_reducible apply busUse_good
    | with_reducible apply goodOut_next
    | intro x hx
    | (extract_lets +onlyGivenNames x; clear_value x)
    | split

theorem execSvcArbWrite_good {Q : List Instr} {r : BitVec 3} {v : Word} {s : State} (h_s : Good Q s) :
    GoodOut Q (execSvcArbWrite r v s) := by
  unfold Sys2Proof.Machine.execSvcArbWrite
  repeat' first
    | with_reducible assumption
    | with_reducible apply hostWrite_good
    | with_reducible apply goodOut_next

theorem execDiscardQ_good {Q : List Instr} {s : State} (h_s : Good Q s) :
    GoodOut Q (execDiscardQ s) := by
  unfold Sys2Proof.Machine.execDiscardQ
  repeat' first
    | with_reducible assumption
    | with_reducible apply hostField_good
    | with_reducible apply goodOut_next

theorem execPinClear_good {Q : List Instr} {s : State} (h_s : Good Q s) :
    GoodOut Q (execPinClear s) := by
  unfold Sys2Proof.Machine.execPinClear
  repeat' first
    | with_reducible assumption
    | with_reducible apply hostField_good
    | with_reducible apply goodOut_next

theorem execPinTest_good {Q : List Instr} {s : State} (h_s : Good Q s) :
    GoodOut Q (execPinTest s) := by
  unfold Sys2Proof.Machine.execPinTest
  repeat' first
    | with_reducible assumption
    | with_reducible apply hostField_good
    | with_reducible apply goodOut_next

theorem execTrlInjectRes_good {Q : List Instr} {c : CoreId} {s : State} (h_s : Good Q s) :
    GoodOut Q (execTrlInjectRes c s) := by
  unfold Sys2Proof.Machine.execTrlInjectRes
  repeat' first
    | with_reducible assumption
    | with_reducible apply hostField_good
    | with_reducible apply goodOut_next

theorem execTrlInjectSec_good {Q : List Instr} {c : CoreId} {s : State} (h_s : Good Q s) :
    GoodOut Q (execTrlInjectSec c s) := by
  unfold Sys2Proof.Machine.execTrlInjectSec
  repeat' first
    | with_reducible assumption
    | with_reducible apply hostField_good
    | with_reducible apply goodOut_next

theorem execCfrInjectSec_good {Q : List Instr} {c : CoreId} {s : State} (h_s : Good Q s) :
    GoodOut Q (execCfrInjectSec c s) := by
  unfold Sys2Proof.Machine.execCfrInjectSec
  repeat' first
    | with_reducible assumption
    | with_reducible apply hostField_good
    | with_reducible apply goodOut_next

theorem execSpdInjectSec_good {Q : List Instr} {c : CoreId} {s : State} (h_s : Good Q s) :
    GoodOut Q (execSpdInjectSec c s) := by
  unfold Sys2Proof.Machine.execSpdInjectSec
  repeat' first
    | with_reducible assumption
    | with_reducible apply hostField_good
    | with_reducible apply goodOut_next

theorem execMemInjectSym_good {Q : List Instr} {stack : Fin 12} {s : State} (h_s : Good Q s) :
    GoodOut Q (execMemInjectSym stack s) := by
  unfold Sys2Proof.Machine.execMemInjectSym
  repeat' first
    | with_reducible assumption
    | with_reducible apply hostField_good
    | with_reducible apply goodOut_next

theorem execKlInjectCrc_good {Q : List Instr} {k : LinkId} {s : State} (h_s : Good Q s) :
    GoodOut Q (execKlInjectCrc k s) := by
  unfold Sys2Proof.Machine.execKlInjectCrc
  repeat' first
    | with_reducible assumption
    | with_reducible apply hostField_good
    | with_reducible apply goodOut_next

theorem execKlInjectFec_good {Q : List Instr} {k : LinkId} {s : State} (h_s : Good Q s) :
    GoodOut Q (execKlInjectFec k s) := by
  unfold Sys2Proof.Machine.execKlInjectFec
  repeat' first
    | with_reducible assumption
    | with_reducible apply hostField_good
    | with_reducible apply goodOut_next

theorem execXclInjectRes_good {Q : List Instr} {s : State} (h_s : Good Q s) :
    GoodOut Q (execXclInjectRes s) := by
  unfold Sys2Proof.Machine.execXclInjectRes
  repeat' first
    | with_reducible assumption
    | with_reducible apply hostField_good
    | with_reducible apply goodOut_next

theorem execRhsInjectDigest_good {Q : List Instr} {s : State} (h_s : Good Q s) :
    GoodOut Q (execRhsInjectDigest s) := by
  unfold Sys2Proof.Machine.execRhsInjectDigest
  repeat' first
    | with_reducible assumption
    | with_reducible apply hostField_good
    | with_reducible apply goodOut_next

theorem execRetrain_good {Q : List Instr} {k : LinkId} {s : State} (h_s : Good Q s) :
    GoodOut Q (execRetrain k s) := by
  unfold Sys2Proof.Machine.execRetrain
  repeat' first
    | with_reducible assumption
    | with_reducible apply hostField_good
    | with_reducible apply goodOut_next

theorem execScnDbgHaltWrite_good {Q : List Instr} {high : Bool} {v : Word} {s : State} (h_s : Good Q s) :
    GoodOut Q (execScnDbgHaltWrite high v s) := by
  unfold Sys2Proof.Machine.execScnDbgHaltWrite
  repeat' first
    | with_reducible assumption
    | with_reducible apply hostWrite_good
    | with_reducible apply goodOut_next

theorem execFabHopmapWrite_good {Q : List Instr} {i : BitVec 7} {v : Word} {s : State} (h_s : Good Q s) :
    GoodOut Q (execFabHopmapWrite i v s) := by
  unfold Sys2Proof.Machine.execFabHopmapWrite
  repeat' first
    | with_reducible assumption
    | with_reducible apply hostWrite_good
    | with_reducible apply goodOut_next

theorem execFabResWrite_good {Q : List Instr} {r : BitVec 10} {v : Word} {s : State} (h_s : Good Q s) :
    GoodOut Q (execFabResWrite r v s) := by
  unfold Sys2Proof.Machine.execFabResWrite
  repeat' first
    | with_reducible assumption
    | with_reducible apply hostWrite_good
    | with_reducible apply goodOut_next

theorem execXclRctxCfgWrite_good {Q : List Instr} {i : BitVec 8} {v : Word} {s : State} (h_s : Good Q s) :
    GoodOut Q (execXclRctxCfgWrite i v s) := by
  unfold Sys2Proof.Machine.execXclRctxCfgWrite
  repeat' first
    | with_reducible assumption
    | with_reducible apply hostWrite_good
    | with_reducible apply goodOut_next

theorem execWltTagWrite_good {Q : List Instr} {i : BitVec 8} {v : Word} {s : State} (h_s : Good Q s) :
    GoodOut Q (execWltTagWrite i v s) := by
  unfold Sys2Proof.Machine.execWltTagWrite
  repeat' first
    | with_reducible assumption
    | with_reducible apply hostWrite_good
    | with_reducible apply goodOut_next

theorem execFltSrcCfgWrite_good {Q : List Instr} {i : Fin 25} {v : Word} {s : State} (h_s : Good Q s) :
    GoodOut Q (execFltSrcCfgWrite i v s) := by
  unfold Sys2Proof.Machine.execFltSrcCfgWrite
  repeat' first
    | with_reducible assumption
    | with_reducible apply hostWrite_good
    | with_reducible apply goodOut_next

theorem execSelftest_good {Q : List Instr} {s : State} (h_s : Good Q s) :
    GoodOut Q (execSelftest s) := by
  unfold Sys2Proof.Machine.execSelftest
  repeat' first
    | with_reducible assumption
    | with_reducible apply hostField_good
    | with_reducible apply goodOut_next

theorem execZeroise_good {Q : List Instr} {s : State} (h_s : Good Q s) :
    GoodOut Q (execZeroise s) := by
  unfold Sys2Proof.Machine.execZeroise
  repeat' first
    | with_reducible assumption
    | with_reducible apply hostField_good
    | with_reducible apply goodOut_next

theorem execDebugLock_good {Q : List Instr} {s : State} (h_s : Good Q s) :
    GoodOut Q (execDebugLock s) := by
  unfold Sys2Proof.Machine.execDebugLock
  repeat' first
    | with_reducible assumption
    | with_reducible apply hostField_good
    | with_reducible apply goodOut_next

theorem execFwCommit_good {Q : List Instr} {s : State} (h_s : Good Q s) :
    GoodOut Q (execFwCommit s) := by
  unfold Sys2Proof.Machine.execFwCommit
  repeat' first
    | with_reducible assumption
    | with_reducible apply hostField_good
    | with_reducible apply goodOut_next

theorem execSvnAdvance_good {Q : List Instr} {s : State} (h_s : Good Q s) :
    GoodOut Q (execSvnAdvance s) := by
  unfold Sys2Proof.Machine.execSvnAdvance
  repeat' first
    | with_reducible assumption
    | with_reducible apply hostField_good
    | with_reducible apply goodOut_next

end Sys2Proof.Laws
end

