-- ==== Sys2Proof/Laws/GoodRing.lean ====
section
/-! SUPPORT. What each definition of Machine/Ring.lean keeps: the queue and the canonical form of every store. -/

namespace Sys2Proof.Laws

open Sys2Proof.Machine Sys2Proof.Safety

theorem execCommandWindowWrite_good {Q : List Instr} {off : BitVec 24} {bytes : List Byte} {s : State} (h_s : Good Q s) :
    GoodOut Q (execCommandWindowWrite off bytes s) := by
  unfold Sys2Proof.Machine.execCommandWindowWrite
  repeat' first
    | with_reducible assumption
    | with_reducible apply goodOut_next
    | with_reducible apply memWrite_wf
    | with_reducible exact Good.mem_ok (q := Q) (by assumption)
    | with_reducible exact Good.regs_ok (q := Q) (by assumption)
    | with_reducible exact Good.ecc_ok (q := Q) (by assumption)
    | with_reducible exact Good.win_ok (q := Q) (by assumption)
    | with_reducible exact Good.cores_wf (q := Q) (by assumption)
    | with_reducible exact Good.cores_ok (q := Q) (by assumption)
    | with_reducible exact Good.stores_ok (q := Q) (by assumption)
    | with_reducible exact Good.pending (q := Q) (by assumption)
    | split
    | (simp -zeta only [good_lit_iff]; refine ⟨?_, ?_, ?_, ?_, ?_, ?_, ?_, ?_⟩)

theorem scanNext_good {Q : List Instr} {s : State} (h_s : Good Q s) :
    Good Q (scanNext s) := by
  unfold Sys2Proof.Machine.scanNext
  repeat' first
    | with_reducible assumption
    | with_reducible apply setFld_good (q := Q)
    | with_reducible apply traceRec_good
    | with_reducible apply memWrite_wf
    | with_reducible exact Good.mem_ok (q := Q) (by assumption)
    | with_reducible exact Good.regs_ok (q := Q) (by assumption)
    | with_reducible exact Good.ecc_ok (q := Q) (by assumption)
    | with_reducible exact Good.win_ok (q := Q) (by assumption)
    | with_reducible exact Good.cores_wf (q := Q) (by assumption)
    | with_reducible exact Good.cores_ok (q := Q) (by assumption)
    | with_reducible exact Good.stores_ok (q := Q) (by assumption)
    | with_reducible exact Good.pending (q := Q) (by assumption)
    | (extract_lets +onlyGivenNames x; refine cut_of (p := Good Q x) ?_ fun hx => ?_; (on_goal 1 => (dsimp -zeta only [x]; clear x)); (on_goal 2 => clear_value x))
    | (extract_lets +onlyGivenNames x; clear_value x)
    | split
    | (simp -zeta only [good_lit_iff]; refine ⟨?_, ?_, ?_, ?_, ?_, ?_, ?_, ?_⟩)

theorem scan_good {Q : List Instr} {s : State} (h_s : Good Q s) :
    Good Q (scan s) := by
  unfold Sys2Proof.Machine.scan
  repeat' first
    | with_reducible assumption
    | with_reducible apply scanNext_good
    | with_reducible exact Good.mem_ok (q := Q) (by assumption)
    | with_reducible exact Good.regs_ok (q := Q) (by assumption)
    | with_reducible exact Good.ecc_ok (q := Q) (by assumption)
    | with_reducible exact Good.win_ok (q := Q) (by assumption)
    | with_reducible exact Good.cores_wf (q := Q) (by assumption)
    | with_reducible exact Good.cores_ok (q := Q) (by assumption)
    | with_reducible exact Good.stores_ok (q := Q) (by assumption)
    | with_reducible exact Good.pending (q := Q) (by assumption)
    | (extract_lets +onlyGivenNames x; clear_value x)
    | split
    | (simp -zeta only [good_lit_iff]; refine ⟨?_, ?_, ?_, ?_, ?_, ?_, ?_, ?_⟩)

theorem postCompletion_good {Q : List Instr} {seq op status taken applied detail : Nat} {notify : Bool} {s : State} (h_s : Good Q s) :
    Good Q (postCompletion seq op status taken applied detail notify s) := by
  unfold Sys2Proof.Machine.postCompletion
  repeat' first
    | with_reducible assumption
    | with_reducible apply irq_good
    | with_reducible apply cplWrite_good
    | with_reducible apply traceRec_good
    | with_reducible exact Good.mem_ok (q := Q) (by assumption)
    | with_reducible exact Good.regs_ok (q := Q) (by assumption)
    | with_reducible exact Good.ecc_ok (q := Q) (by assumption)
    | with_reducible exact Good.win_ok (q := Q) (by assumption)
    | with_reducible exact Good.cores_wf (q := Q) (by assumption)
    | with_reducible exact Good.cores_ok (q := Q) (by assumption)
    | with_reducible exact Good.stores_ok (q := Q) (by assumption)
    | with_reducible exact Good.pending (q := Q) (by assumption)
    | (extract_lets +onlyGivenNames x; refine cut_of (p := Good Q x) ?_ fun hx => ?_; (on_goal 1 => (dsimp -zeta only [x]; clear x)); (on_goal 2 => clear_value x))
    | (extract_lets +onlyGivenNames x; clear_value x)
    | split
    | (simp -zeta only [good_lit_iff]; refine ⟨?_, ?_, ?_, ?_, ?_, ?_, ?_, ?_⟩)

theorem completeTaken_good {Q : List Instr} {t : Taken} {status applied detail : Nat} {s : State} (h_s : Good Q s) :
    Good Q (completeTaken t status applied detail s) := by
  unfold Sys2Proof.Machine.completeTaken
  repeat' first
    | with_reducible apply scanNext_good
    | with_reducible apply postCompletion_good
    | with_reducible exact Good.mem_ok (q := Q) (by assumption)
    | with_reducible exact Good.regs_ok (q := Q) (by assumption)
    | with_reducible exact Good.ecc_ok (q := Q) (by assumption)
    | with_reducible exact Good.win_ok (q := Q) (by assumption)
    | with_reducible exact Good.cores_wf (q := Q) (by assumption)
    | with_reducible exact Good.cores_ok (q := Q) (by assumption)
    | with_reducible exact Good.stores_ok (q := Q) (by assumption)
    | with_reducible exact Good.pending (q := Q) (by assumption)
    | (extract_lets +onlyGivenNames x; clear_value x)
    | (simp -zeta only [good_lit_iff]; refine ⟨?_, ?_, ?_, ?_, ?_, ?_, ?_, ?_⟩)

theorem beginLong_good {Q : List Instr} {t : Taken} {words : List Nat} {s : State} (h_s : Good Q s) :
    Good Q (beginLong t words s) := by
  unfold Sys2Proof.Machine.beginLong
  repeat' first
    | with_reducible exact Good.mem_ok (q := Q) (by assumption)
    | with_reducible exact Good.regs_ok (q := Q) (by assumption)
    | with_reducible exact Good.ecc_ok (q := Q) (by assumption)
    | with_reducible exact Good.win_ok (q := Q) (by assumption)
    | with_reducible exact Good.cores_wf (q := Q) (by assumption)
    | with_reducible exact Good.cores_ok (q := Q) (by assumption)
    | with_reducible exact Good.stores_ok (q := Q) (by assumption)
    | with_reducible exact Good.pending (q := Q) (by assumption)
    | (extract_lets +onlyGivenNames x; clear_value x)
    | (simp -zeta only [good_lit_iff]; refine ⟨?_, ?_, ?_, ?_, ?_, ?_, ?_, ?_⟩)

theorem completeLongAt_good {Q : List Instr} {status applied detail : Nat} {s : State} (h_s : Good Q s) :
    Good Q (completeLongAt status applied detail s) := by
  unfold Sys2Proof.Machine.completeLongAt
  repeat' first
    | with_reducible assumption
    | with_reducible apply postCompletion_good
    | with_reducible exact Good.mem_ok (q := Q) (by assumption)
    | with_reducible exact Good.regs_ok (q := Q) (by assumption)
    | with_reducible exact Good.ecc_ok (q := Q) (by assumption)
    | with_reducible exact Good.win_ok (q := Q) (by assumption)
    | with_reducible exact Good.cores_wf (q := Q) (by assumption)
    | with_reducible exact Good.cores_ok (q := Q) (by assumption)
    | with_reducible exact Good.stores_ok (q := Q) (by assumption)
    | with_reducible exact Good.pending (q := Q) (by assumption)
    | (extract_lets +onlyGivenNames x; refine cut_of (p := Good Q x) ?_ fun hx => ?_; (on_goal 1 => (dsimp -zeta only [x]; clear x)); (on_goal 2 => clear_value x))
    | (extract_lets +onlyGivenNames x; clear_value x)
    | split
    | (simp -zeta only [good_lit_iff]; refine ⟨?_, ?_, ?_, ?_, ?_, ?_, ?_, ?_⟩)

theorem completeLong_good {Q : List Instr} {status detail : Nat} {s : State} (h_s : Good Q s) :
    Good Q (completeLong status detail s) := by
  unfold Sys2Proof.Machine.completeLong
  repeat' first
    | with_reducible assumption
    | with_reducible apply completeLongAt_good

theorem command_good {Q : List Instr} {r : CmdRule} {run : Taken → State → State} {s : State} (h_run : ∀ a0 a1, Good Q a1 → Good Q (run a0 a1)) (h_s : Good Q s) :
    Good Q (command r run s) := by
  unfold Sys2Proof.Machine.command
  repeat' first
    | with_reducible assumption
    | with_reducible apply completeTaken_good
    | split
    | apply h_run

theorem execNop_good {Q : List Instr} {s : State} (h_s : Good Q s) :
    GoodOut Q (execNop s) := by
  unfold Sys2Proof.Machine.execNop
  repeat' first
    | with_reducible assumption
    | with_reducible apply completeTaken_good
    | with_reducible apply command_good
    | with_reducible apply goodOut_next
    | intro x hx

theorem execReservedCommand_good {Q : List Instr} {s : State} (h_s : Good Q s) :
    GoodOut Q (execReservedCommand s) := by
  unfold Sys2Proof.Machine.execReservedCommand
  repeat' first
    | with_reducible assumption
    | with_reducible apply completeTaken_good
    | with_reducible apply goodOut_next
    | split

theorem execQueuedNoticePost_good {Q : List Instr} {s : State} (h_s : Good Q s) :
    GoodOut Q (execQueuedNoticePost s) := by
  unfold Sys2Proof.Machine.execQueuedNoticePost
  repeat' first
    | with_reducible assumption
    | with_reducible apply writeNotice_good
    | with_reducible apply goodOut_next
    | with_reducible exact Good.mem_ok (q := Q) (by assumption)
    | with_reducible exact Good.regs_ok (q := Q) (by assumption)
    | with_reducible exact Good.ecc_ok (q := Q) (by assumption)
    | with_reducible exact Good.win_ok (q := Q) (by assumption)
    | with_reducible exact Good.cores_wf (q := Q) (by assumption)
    | with_reducible exact Good.cores_ok (q := Q) (by assumption)
    | with_reducible exact Good.stores_ok (q := Q) (by assumption)
    | with_reducible exact Good.pending (q := Q) (by assumption)
    | (extract_lets +onlyGivenNames x; clear_value x)
    | split
    | (simp -zeta only [good_lit_iff]; refine ⟨?_, ?_, ?_, ?_, ?_, ?_, ?_, ?_⟩)

theorem execBindSlot_good {Q : List Instr} {s : State} (h_s : Good Q s) :
    GoodOut Q (execBindSlot s) := by
  unfold Sys2Proof.Machine.execBindSlot
  repeat' first
    | with_reducible assumption
    | with_reducible apply completeTaken_good
    | with_reducible apply command_good
    | with_reducible apply goodOut_next
    | with_reducible exact Good.mem_ok (q := Q) (by assumption)
    | with_reducible exact Good.regs_ok (q := Q) (by assumption)
    | with_reducible exact Good.ecc_ok (q := Q) (by assumption)
    | with_reducible exact Good.win_ok (q := Q) (by assumption)
    | with_reducible exact Good.cores_wf (q := Q) (by assumption)
    | with_reducible exact Good.cores_ok (q := Q) (by assumption)
    | with_reducible exact Good.stores_ok (q := Q) (by assumption)
    | with_reducible exact Good.pending (q := Q) (by assumption)
    | intro x hx
    | intro x
    | (simp -zeta only [good_lit_iff]; refine ⟨?_, ?_, ?_, ?_, ?_, ?_, ?_, ?_⟩)

theorem execUnbindSlot_good {Q : List Instr} {s : State} (h_s : Good Q s) :
    GoodOut Q (execUnbindSlot s) := by
  unfold Sys2Proof.Machine.execUnbindSlot
  repeat' first
    | with_reducible assumption
    | with_reducible apply completeTaken_good
    | with_reducible apply command_good
    | with_reducible apply goodOut_next
    | with_reducible exact Good.mem_ok (q := Q) (by assumption)
    | with_reducible exact Good.regs_ok (q := Q) (by assumption)
    | with_reducible exact Good.ecc_ok (q := Q) (by assumption)
    | with_reducible exact Good.win_ok (q := Q) (by assumption)
    | with_reducible exact Good.cores_wf (q := Q) (by assumption)
    | with_reducible exact Good.cores_ok (q := Q) (by assumption)
    | with_reducible exact Good.stores_ok (q := Q) (by assumption)
    | with_reducible exact Good.pending (q := Q) (by assumption)
    | intro x hx
    | intro x
    | (simp -zeta only [good_lit_iff]; refine ⟨?_, ?_, ?_, ?_, ?_, ?_, ?_, ?_⟩)

theorem setDatapos_good {Q : List Instr} {step : Nat} {bs : List Byte} {s : State} (h_s : Good Q s) :
    Good Q (setDatapos step bs s) := by
  unfold Sys2Proof.Machine.setDatapos
  repeat' first
    | with_reducible apply setFld_good (q := Q)
    | with_reducible exact Good.mem_ok (q := Q) (by assumption)
    | with_reducible exact Good.regs_ok (q := Q) (by assumption)
    | with_reducible exact Good.ecc_ok (q := Q) (by assumption)
    | with_reducible exact Good.win_ok (q := Q) (by assumption)
    | with_reducible exact Good.cores_wf (q := Q) (by assumption)
    | with_reducible exact Good.cores_ok (q := Q) (by assumption)
    | with_reducible exact Good.stores_ok (q := Q) (by assumption)
    | with_reducible exact Good.pending (q := Q) (by assumption)
    | (simp -zeta only [good_lit_iff]; refine ⟨?_, ?_, ?_, ?_, ?_, ?_, ?_, ?_⟩)

theorem execDatapos_good {Q : List Instr} {s : State} (h_s : Good Q s) :
    GoodOut Q (execDatapos s) := by
  unfold Sys2Proof.Machine.execDatapos
  repeat' first
    | with_reducible assumption
    | with_reducible apply completeTaken_good
    | with_reducible apply command_good
    | with_reducible apply setDatapos_good
    | with_reducible apply goodOut_next
    | intro x hx
    | intro x

end Sys2Proof.Laws
end

