-- ==== Sys2Proof/Laws/GoodEngine.lean ====
section
/-! SUPPORT. What each definition of Machine/Engine.lean keeps: the queue and the canonical form of every store. -/

namespace Sys2Proof.Laws

open Sys2Proof.Machine Sys2Proof.Safety

theorem endRestore_good {Q : List Instr} {j : RstJob} {s : State} (h_s : Good Q s) :
    Good Q (endRestore j s) := by
  unfold Sys2Proof.Machine.endRestore
  repeat' first
    | with_reducible apply setFld_good (q := Q)
    | with_reducible exact Good.mem_ok (q := Q) (by assumption)
    | with_reducible exact Good.regs_ok (q := Q) (by assumption)
    | with_reducible exact Good.ecc_ok (q := Q) (by assumption)
    | with_reducible exact Good.win_ok (q := Q) (by assumption)
    | with_reducible exact Good.cores_wf (q := Q) (by assumption)
    | with_reducible exact Good.cores_ok (q := Q) (by assumption)
    | with_reducible exact Good.stores_ok (q := Q) (by assumption)
    | with_reducible exact Good.pending (q := Q) (by assumption)
    | (extract_lets +onlyGivenNames x; clear_value x)
    | (simp -zeta only [good_lit_iff]; refine ⟨?_, ?_, ?_, ?_, ?_, ?_, ?_, ?_⟩)

theorem failJob_good {Q : List Instr} {cause sect status : Nat} {s : State} (h_s : Good Q s) :
    Good Q (failJob cause sect status s) := by
  unfold Sys2Proof.Machine.failJob
  repeat' first
    | with_reducible assumption
    | with_reducible apply setFld_good (q := Q)
    | with_reducible apply completeLong_good
    | with_reducible apply endRestore_good
    | with_reducible exact Good.mem_ok (q := Q) (by assumption)
    | with_reducible exact Good.regs_ok (q := Q) (by assumption)
    | with_reducible exact Good.ecc_ok (q := Q) (by assumption)
    | with_reducible exact Good.win_ok (q := Q) (by assumption)
    | with_reducible exact Good.cores_wf (q := Q) (by assumption)
    | with_reducible exact Good.cores_ok (q := Q) (by assumption)
    | with_reducible exact Good.stores_ok (q := Q) (by assumption)
    | with_reducible exact Good.pending (q := Q) (by assumption)
    | (extract_lets +onlyGivenNames x; clear_value x)
    | split
    | (simp -zeta only [good_lit_iff]; refine ⟨?_, ?_, ?_, ?_, ?_, ?_, ?_, ?_⟩)

theorem failReq_good {Q : List Instr} {r : EngReq} {cause status : Nat} {s : State} (h_s : Good Q s) :
    Good Q (failReq r cause status s) := by
  unfold Sys2Proof.Machine.failReq
  repeat' first
    | with_reducible assumption
    | with_reducible apply setFld_good (q := Q)
    | with_reducible apply failJob_good
    | split

theorem launchReq_good {Q : List Instr} {r : EngReq} {s : State} (h_s : Good Q s) :
    Good Q (launchReq r s) := by
  unfold Sys2Proof.Machine.launchReq
  repeat' first
    | with_reducible assumption
    | with_reducible apply routeIllegal_good
    | with_reducible apply launch_good
    | with_reducible apply failReq_good
    | with_reducible exact Good.mem_ok (q := Q) (by assumption)
    | with_reducible exact Good.regs_ok (q := Q) (by assumption)
    | with_reducible exact Good.ecc_ok (q := Q) (by assumption)
    | with_reducible exact Good.win_ok (q := Q) (by assumption)
    | with_reducible exact Good.cores_wf (q := Q) (by assumption)
    | with_reducible exact Good.cores_ok (q := Q) (by assumption)
    | with_reducible exact Good.stores_ok (q := Q) (by assumption)
    | with_reducible exact Good.pending (q := Q) (by assumption)
    | (extract_lets +onlyGivenNames x; refine cut_of (p := Good Q x) ?_ fun hx => ?_; (on_goal 1 => (dsimp -zeta only [x]; clear x)); (on_goal 2 => clear_value x))
    | (extract_lets +onlyGivenNames x; clear_value x)
    | split
    | (simp -zeta only [good_lit_iff]; refine ⟨?_, ?_, ?_, ?_, ?_, ?_, ?_, ?_⟩)

theorem fill64_good {Q : List Instr} {bs : List Byte} {s : State} (h_s : Good Q s) :
    Good Q (fill64 bs s).2 := by
  unfold Sys2Proof.Machine.fill64
  repeat' first
    | with_reducible assumption
    | with_reducible apply drawBytes_good

theorem ckpData_good {Q : List Instr} {j : CkpJob} {n : Snap} {bs : List Byte} {s : State} (h_s : Good Q s) :
    Good Q (ckpData j n bs s).2 := by
  unfold Sys2Proof.Machine.ckpData
  repeat' first
    | with_reducible assumption
    | with_reducible apply drawBytes_good
    | split

theorem ckpChunk_good {Q : List Instr} {j : CkpJob} {n : Snap} {d : Sect} {s : State} (h_s : Good Q s) :
    Good Q (ckpChunk j n d s) := by
  unfold Sys2Proof.Machine.ckpChunk
  repeat' first
    | with_reducible assumption
    | with_reducible apply shareLines_good
    | with_reducible apply stackError_good
    | with_reducible apply countCorr_good
    | with_reducible apply failJob_good
    | with_reducible apply launchReq_good
    | with_reducible apply fill64_good
    | with_reducible apply ckpData_good
    | with_reducible apply good_foldl
    | with_reducible refine Good.mem_ok (q := Q) ?_
    | with_reducible refine Good.regs_ok (q := Q) ?_
    | with_reducible refine Good.ecc_ok (q := Q) ?_
    | with_reducible refine Good.win_ok (q := Q) ?_
    | with_reducible refine Good.cores_wf (q := Q) ?_
    | with_reducible refine Good.cores_ok (q := Q) ?_
    | with_reducible refine Good.stores_ok (q := Q) ?_
    | with_reducible refine Good.pending (q := Q) ?_
    | intro x hx
    | (extract_lets +onlyGivenNames x; refine cut_of (p := Good Q x) ?_ fun hx => ?_; (on_goal 1 => (dsimp -zeta only [x]; clear x)); (on_goal 2 => clear_value x))
    | (extract_lets +onlyGivenNames x; clear_value x)
    | split
    | (simp -zeta only [good_lit_iff]; refine ⟨?_, ?_, ?_, ?_, ?_, ?_, ?_, ?_⟩)

theorem ckpNext_good {Q : List Instr} {s : State} (h_s : Good Q s) :
    GoodOpt Q (ckpNext s) := by
  unfold Sys2Proof.Machine.ckpNext
  repeat' first
    | with_reducible assumption
    | with_reducible exact goodOpt_none
    | with_reducible apply launchReq_good
    | with_reducible apply ckpData_good
    | with_reducible apply ckpChunk_good
    | with_reducible apply goodOpt_some
    | with_reducible exact Good.mem_ok (q := Q) (by assumption)
    | with_reducible exact Good.regs_ok (q := Q) (by assumption)
    | with_reducible exact Good.ecc_ok (q := Q) (by assumption)
    | with_reducible exact Good.win_ok (q := Q) (by assumption)
    | with_reducible exact Good.cores_wf (q := Q) (by assumption)
    | with_reducible exact Good.cores_ok (q := Q) (by assumption)
    | with_reducible exact Good.stores_ok (q := Q) (by assumption)
    | with_reducible exact Good.pending (q := Q) (by assumption)
    | with_reducible refine Good.mem_ok (q := Q) ?_
    | with_reducible refine Good.regs_ok (q := Q) ?_
    | with_reducible refine Good.ecc_ok (q := Q) ?_
    | with_reducible refine Good.win_ok (q := Q) ?_
    | with_reducible refine Good.cores_wf (q := Q) ?_
    | with_reducible refine Good.cores_ok (q := Q) ?_
    | with_reducible refine Good.stores_ok (q := Q) ?_
    | with_reducible refine Good.pending (q := Q) ?_
    | (extract_lets +onlyGivenNames x; clear_value x)
    | split
    | (simp -zeta only [good_lit_iff]; refine ⟨?_, ?_, ?_, ?_, ?_, ?_, ?_, ?_⟩)

theorem manifestIn_good {Q : List Instr} {j : RstJob} {s : State} (h_s : Good Q s) :
    Good Q (manifestIn j s) := by
  unfold Sys2Proof.Machine.manifestIn
  repeat' first
    | with_reducible assumption
    | with_reducible apply failJob_good
    | with_reducible exact Good.mem_ok (q := Q) (by assumption)
    | with_reducible exact Good.regs_ok (q := Q) (by assumption)
    | with_reducible exact Good.ecc_ok (q := Q) (by assumption)
    | with_reducible exact Good.win_ok (q := Q) (by assumption)
    | with_reducible exact Good.cores_wf (q := Q) (by assumption)
    | with_reducible exact Good.cores_ok (q := Q) (by assumption)
    | with_reducible exact Good.stores_ok (q := Q) (by assumption)
    | with_reducible exact Good.pending (q := Q) (by assumption)
    | (extract_lets +onlyGivenNames x; clear_value x)
    | split
    | (simp -zeta only [good_lit_iff]; refine ⟨?_, ?_, ?_, ?_, ?_, ?_, ?_, ?_⟩)

theorem rstSection_good {Q : List Instr} {j : RstJob} {d : Sect} {s : State} (h_s : Good Q s) :
    Good Q (rstSection j d s) := by
  unfold Sys2Proof.Machine.rstSection
  repeat' first
    | with_reducible assumption
    | with_reducible apply stackError_good
    | with_reducible apply failJob_good
    | with_reducible apply launchReq_good
    | with_reducible exact Good.mem_ok (q := Q) (by assumption)
    | with_reducible exact Good.regs_ok (q := Q) (by assumption)
    | with_reducible exact Good.ecc_ok (q := Q) (by assumption)
    | with_reducible exact Good.win_ok (q := Q) (by assumption)
    | with_reducible exact Good.cores_wf (q := Q) (by assumption)
    | with_reducible exact Good.cores_ok (q := Q) (by assumption)
    | with_reducible exact Good.stores_ok (q := Q) (by assumption)
    | with_reducible exact Good.pending (q := Q) (by assumption)
    | (extract_lets +onlyGivenNames x; clear_value x)
    | split
    | (simp -zeta only [good_lit_iff]; refine ⟨?_, ?_, ?_, ?_, ?_, ?_, ?_, ?_⟩)
    | extract_lets +onlyGivenNames x

theorem rstNext_good {Q : List Instr} {s : State} (h_s : Good Q s) :
    GoodOpt Q (rstNext s) := by
  unfold Sys2Proof.Machine.rstNext
  repeat' first
    | with_reducible assumption
    | with_reducible exact goodOpt_none
    | with_reducible apply launchReq_good
    | with_reducible apply rstSection_good
    | with_reducible apply goodOpt_some
    | with_reducible apply goodOpt_map
    | with_reducible exact Good.mem_ok (q := Q) (by assumption)
    | with_reducible exact Good.regs_ok (q := Q) (by assumption)
    | with_reducible exact Good.ecc_ok (q := Q) (by assumption)
    | with_reducible exact Good.win_ok (q := Q) (by assumption)
    | with_reducible exact Good.cores_wf (q := Q) (by assumption)
    | with_reducible exact Good.cores_ok (q := Q) (by assumption)
    | with_reducible exact Good.stores_ok (q := Q) (by assumption)
    | with_reducible exact Good.pending (q := Q) (by assumption)
    | intro x
    | (extract_lets +onlyGivenNames x; clear_value x)
    | split
    | (simp -zeta only [good_lit_iff]; refine ⟨?_, ?_, ?_, ?_, ?_, ?_, ?_, ?_⟩)

theorem engPump_good {Q : List Instr} {n : Nat} {s : State} (h : Good Q s) : Good Q (engPump n s) := by
  induction' n with n ih generalizing s <;> unfold engPump
  repeat' first
    | with_reducible assumption
    | with_reducible apply launchReq_good
    | with_reducible apply ckpNext_good
    | with_reducible apply rstNext_good
    | with_reducible exact Good.mem_ok (q := Q) (by assumption)
    | with_reducible exact Good.regs_ok (q := Q) (by assumption)
    | with_reducible exact Good.ecc_ok (q := Q) (by assumption)
    | with_reducible exact Good.win_ok (q := Q) (by assumption)
    | with_reducible exact Good.cores_wf (q := Q) (by assumption)
    | with_reducible exact Good.cores_ok (q := Q) (by assumption)
    | with_reducible exact Good.stores_ok (q := Q) (by assumption)
    | with_reducible exact Good.pending (q := Q) (by assumption)
    | with_reducible refine good_some (by assumption) ?_
    | (extract_lets +onlyGivenNames x; clear_value x)
    | split
    | (simp -zeta only [good_lit_iff]; refine ⟨?_, ?_, ?_, ?_, ?_, ?_, ?_, ?_⟩)
    | apply ih

theorem engGo_good {Q : List Instr} {s : State} (h_s : Good Q s) :
    Good Q (engGo s) := by
  unfold Sys2Proof.Machine.engGo
  repeat' first
    | with_reducible assumption
    | with_reducible apply engPump_good

theorem sectIn_good {Q : List Instr} {j : RstJob} {d : Sect} {r : EngReq} {bs : List Byte} {s : State} (h_s : Good Q s) :
    Good Q (sectIn j d r bs s) := by
  unfold Sys2Proof.Machine.sectIn
  repeat' first
    | with_reducible assumption
    | with_reducible apply State_store_good
    | with_reducible apply shareLines_good
    | with_reducible apply failJob_good
    | with_reducible apply good_foldl_fst
    | with_reducible exact Good.mem_ok (q := Q) (by assumption)
    | with_reducible exact Good.regs_ok (q := Q) (by assumption)
    | with_reducible exact Good.ecc_ok (q := Q) (by assumption)
    | with_reducible exact Good.win_ok (q := Q) (by assumption)
    | with_reducible exact Good.cores_wf (q := Q) (by assumption)
    | with_reducible exact Good.cores_ok (q := Q) (by assumption)
    | with_reducible exact Good.stores_ok (q := Q) (by assumption)
    | with_reducible exact Good.pending (q := Q) (by assumption)
    | intro x hx
    | (extract_lets +onlyGivenNames x; refine cut_of (p := Good Q x) ?_ fun hx => ?_; (on_goal 1 => (dsimp -zeta only [x]; clear x)); (on_goal 2 => clear_value x))
    | (extract_lets +onlyGivenNames x; clear_value x)
    | split
    | (simp -zeta only [good_lit_iff]; refine ⟨?_, ?_, ?_, ?_, ?_, ?_, ?_, ?_⟩)

theorem manBytesIn_good {Q : List Instr} {j : RstJob} {r : EngReq} {bs : List Byte} {s : State} (h_s : Good Q s) :
    Good Q (manBytesIn j r bs s) := by
  unfold Sys2Proof.Machine.manBytesIn
  repeat' first
    | with_reducible assumption
    | with_reducible apply failJob_good
    | with_reducible apply manifestIn_good
    | with_reducible exact Good.mem_ok (q := Q) (by assumption)
    | with_reducible exact Good.regs_ok (q := Q) (by assumption)
    | with_reducible exact Good.ecc_ok (q := Q) (by assumption)
    | with_reducible exact Good.win_ok (q := Q) (by assumption)
    | with_reducible exact Good.cores_wf (q := Q) (by assumption)
    | with_reducible exact Good.cores_ok (q := Q) (by assumption)
    | with_reducible exact Good.stores_ok (q := Q) (by assumption)
    | with_reducible exact Good.pending (q := Q) (by assumption)
    | (extract_lets +onlyGivenNames x; refine cut_of (p := Good Q x) ?_ fun hx => ?_; (on_goal 1 => (dsimp -zeta only [x]; clear x)); (on_goal 2 => clear_value x))
    | (extract_lets +onlyGivenNames x; clear_value x)
    | split
    | (simp -zeta only [good_lit_iff]; refine ⟨?_, ?_, ?_, ?_, ?_, ?_, ?_, ?_⟩)

theorem replyBytes_good {Q : List Instr} {r : EngReq} {bs : List Byte} {s : State} (h_s : Good Q s) :
    Good Q (replyBytes r bs s).2 := by
  unfold Sys2Proof.Machine.replyBytes
  repeat' first
    | with_reducible assumption
    | with_reducible apply drawBytes_good

theorem reply_good {Q : List Instr} {write : Bool} {p : DataPkt} {s : State} (h_s : Good Q s) :
    Good Q (reply write p s) := by
  unfold Sys2Proof.Machine.reply
  repeat' first
    | with_reducible assumption
    | with_reducible apply failReq_good
    | with_reducible apply engGo_good
    | with_reducible apply sectIn_good
    | with_reducible apply manBytesIn_good
    | with_reducible apply replyBytes_good
    | with_reducible exact Good.mem_ok (q := Q) (by assumption)
    | with_reducible exact Good.regs_ok (q := Q) (by assumption)
    | with_reducible exact Good.ecc_ok (q := Q) (by assumption)
    | with_reducible exact Good.win_ok (q := Q) (by assumption)
    | with_reducible exact Good.cores_wf (q := Q) (by assumption)
    | with_reducible exact Good.cores_ok (q := Q) (by assumption)
    | with_reducible exact Good.stores_ok (q := Q) (by assumption)
    | with_reducible exact Good.pending (q := Q) (by assumption)
    | (extract_lets +onlyGivenNames x; refine cut_of (p := Good Q x) ?_ fun hx => ?_; (on_goal 1 => (dsimp -zeta only [x]; clear x)); (on_goal 2 => clear_value x))
    | (extract_lets +onlyGivenNames x; clear_value x)
    | split
    | (simp -zeta only [good_lit_iff]; refine ⟨?_, ?_, ?_, ?_, ?_, ?_, ?_, ?_⟩)

theorem execRdRsp_good {Q : List Instr} {k : LinkId} {p : DataPkt} {s : State} (h_s : Good Q s) :
    GoodOut Q (execRdRsp k p s) := by
  unfold Sys2Proof.Machine.execRdRsp
  repeat' first
    | with_reducible assumption
    | with_reducible apply handle_good
    | with_reducible apply reply_good
    | with_reducible apply goodOut_next
    | with_reducible apply goodOpt_some
    | intro x hx
    | split

theorem execWrAck_good {Q : List Instr} {k : LinkId} {p : DataPkt} {s : State} (h_s : Good Q s) :
    GoodOut Q (execWrAck k p s) := by
  unfold Sys2Proof.Machine.execWrAck
  repeat' first
    | with_reducible assumption
    | with_reducible apply handle_good
    | with_reducible apply reply_good
    | with_reducible apply goodOut_next
    | with_reducible apply goodOpt_some
    | intro x hx
    | split

theorem retry_good {Q : List Instr} {r : EngReq} {s : State} (h_s : Good Q s) :
    Good Q (retry r s) := by
  unfold Sys2Proof.Machine.retry
  repeat' first
    | with_reducible apply launchReq_good
    | with_reducible exact Good.mem_ok (q := Q) (by assumption)
    | with_reducible exact Good.regs_ok (q := Q) (by assumption)
    | with_reducible exact Good.ecc_ok (q := Q) (by assumption)
    | with_reducible exact Good.win_ok (q := Q) (by assumption)
    | with_reducible exact Good.cores_wf (q := Q) (by assumption)
    | with_reducible exact Good.cores_ok (q := Q) (by assumption)
    | with_reducible exact Good.stores_ok (q := Q) (by assumption)
    | with_reducible exact Good.pending (q := Q) (by assumption)
    | (extract_lets +onlyGivenNames x; clear_value x)
    | (simp -zeta only [good_lit_iff]; refine ⟨?_, ?_, ?_, ?_, ?_, ?_, ?_, ?_⟩)

theorem timedOut_good {Q : List Instr} {r : EngReq} {s : State} (h_s : Good Q s) :
    Good Q (timedOut r s) := by
  unfold Sys2Proof.Machine.timedOut
  repeat' first
    | with_reducible assumption
    | with_reducible apply failReq_good
    | with_reducible apply retry_good
    | with_reducible exact Good.mem_ok (q := Q) (by assumption)
    | with_reducible exact Good.regs_ok (q := Q) (by assumption)
    | with_reducible exact Good.ecc_ok (q := Q) (by assumption)
    | with_reducible exact Good.win_ok (q := Q) (by assumption)
    | with_reducible exact Good.cores_wf (q := Q) (by assumption)
    | with_reducible exact Good.cores_ok (q := Q) (by assumption)
    | with_reducible exact Good.stores_ok (q := Q) (by assumption)
    | with_reducible exact Good.pending (q := Q) (by assumption)
    | (extract_lets +onlyGivenNames x; refine cut_of (p := Good Q x) ?_ fun hx => ?_; (on_goal 1 => (dsimp -zeta only [x]; clear x)); (on_goal 2 => clear_value x))
    | (extract_lets +onlyGivenNames x; clear_value x)
    | split
    | (simp -zeta only [good_lit_iff]; refine ⟨?_, ?_, ?_, ?_, ?_, ?_, ?_, ?_⟩)

theorem execRequestTimeout_good {Q : List Instr} {tag : BitVec 14} {s : State} (h_s : Good Q s) :
    GoodOut Q (execRequestTimeout tag s) := by
  unfold Sys2Proof.Machine.execRequestTimeout
  repeat' first
    | with_reducible assumption
    | with_reducible apply advanceTo_good
    | with_reducible apply engGo_good
    | with_reducible apply timedOut_good
    | with_reducible apply goodOut_next
    | split

theorem engQuiesce_good {Q : List Instr} {on : Bool} {s : State} (h_s : Good Q s) :
    Good Q (engQuiesce on s) := by
  unfold Sys2Proof.Machine.engQuiesce
  repeat' first
    | with_reducible apply engGo_good
    | with_reducible exact Good.mem_ok (q := Q) (by assumption)
    | with_reducible exact Good.regs_ok (q := Q) (by assumption)
    | with_reducible exact Good.ecc_ok (q := Q) (by assumption)
    | with_reducible exact Good.win_ok (q := Q) (by assumption)
    | with_reducible exact Good.cores_wf (q := Q) (by assumption)
    | with_reducible exact Good.cores_ok (q := Q) (by assumption)
    | with_reducible exact Good.stores_ok (q := Q) (by assumption)
    | with_reducible exact Good.pending (q := Q) (by assumption)
    | (extract_lets +onlyGivenNames x; clear_value x)
    | split
    | (simp -zeta only [good_lit_iff]; refine ⟨?_, ?_, ?_, ?_, ?_, ?_, ?_, ?_⟩)

theorem latchSnap_good {Q : List Instr} {s : State} (h_s : Good Q s) :
    Good Q (latchSnap s) := by
  unfold Sys2Proof.Machine.latchSnap
  repeat' first
    | with_reducible assumption
    | with_reducible exact Good.mem_ok (q := Q) (by assumption)
    | with_reducible exact Good.regs_ok (q := Q) (by assumption)
    | with_reducible exact Good.ecc_ok (q := Q) (by assumption)
    | with_reducible exact Good.win_ok (q := Q) (by assumption)
    | with_reducible exact Good.cores_wf (q := Q) (by assumption)
    | with_reducible exact Good.cores_ok (q := Q) (by assumption)
    | with_reducible exact Good.stores_ok (q := Q) (by assumption)
    | with_reducible exact Good.pending (q := Q) (by assumption)
    | (extract_lets +onlyGivenNames x; clear_value x)
    | split
    | (simp -zeta only [good_lit_iff]; refine ⟨?_, ?_, ?_, ?_, ?_, ?_, ?_, ?_⟩)

theorem execCheckpoint_good {Q : List Instr} {s : State} (h_s : Good Q s) :
    GoodOut Q (execCheckpoint s) := by
  unfold Sys2Proof.Machine.execCheckpoint
  repeat' first
    | with_reducible assumption
    | with_reducible apply scanNext_good
    | with_reducible apply beginLong_good
    | with_reducible apply command_good
    | with_reducible apply latchSnap_good
    | with_reducible apply goodOut_next
    | with_reducible refine Good.mem_ok (q := Q) ?_
    | with_reducible refine Good.regs_ok (q := Q) ?_
    | with_reducible refine Good.ecc_ok (q := Q) ?_
    | with_reducible refine Good.win_ok (q := Q) ?_
    | with_reducible refine Good.cores_wf (q := Q) ?_
    | with_reducible refine Good.cores_ok (q := Q) ?_
    | with_reducible refine Good.stores_ok (q := Q) ?_
    | with_reducible refine Good.pending (q := Q) ?_
    | intro x hx
    | intro x
    | (extract_lets +onlyGivenNames x; clear_value x)
    | split
    | (simp -zeta only [good_lit_iff]; refine ⟨?_, ?_, ?_, ?_, ?_, ?_, ?_, ?_⟩)

theorem execCheckpointSnapshot_good {Q : List Instr} {s : State} (h_s : Good Q s) :
    GoodOut Q (execCheckpointSnapshot s) := by
  unfold Sys2Proof.Machine.execCheckpointSnapshot
  repeat' first
    | with_reducible assumption
    | with_reducible apply engGo_good
    | with_reducible apply goodOut_next
    | with_reducible exact Good.mem_ok (q := Q) (by assumption)
    | with_reducible exact Good.regs_ok (q := Q) (by assumption)
    | with_reducible exact Good.ecc_ok (q := Q) (by assumption)
    | with_reducible exact Good.win_ok (q := Q) (by assumption)
    | with_reducible exact Good.cores_wf (q := Q) (by assumption)
    | with_reducible exact Good.cores_ok (q := Q) (by assumption)
    | with_reducible exact Good.stores_ok (q := Q) (by assumption)
    | with_reducible exact Good.pending (q := Q) (by assumption)
    | (extract_lets +onlyGivenNames x; clear_value x)
    | split
    | (simp -zeta only [good_lit_iff]; refine ⟨?_, ?_, ?_, ?_, ?_, ?_, ?_, ?_⟩)

theorem execCheckpointDone_good {Q : List Instr} {s : State} (h_s : Good Q s) :
    GoodOut Q (execCheckpointDone s) := by
  unfold Sys2Proof.Machine.execCheckpointDone
  repeat' first
    | with_reducible assumption
    | with_reducible apply setFld_good (q := Q)
    | with_reducible apply completeLong_good
    | with_reducible apply goodOut_next
    | with_reducible exact Good.mem_ok (q := Q) (by assumption)
    | with_reducible exact Good.regs_ok (q := Q) (by assumption)
    | with_reducible exact Good.ecc_ok (q := Q) (by assumption)
    | with_reducible exact Good.win_ok (q := Q) (by assumption)
    | with_reducible exact Good.cores_wf (q := Q) (by assumption)
    | with_reducible exact Good.cores_ok (q := Q) (by assumption)
    | with_reducible exact Good.stores_ok (q := Q) (by assumption)
    | with_reducible exact Good.pending (q := Q) (by assumption)
    | (extract_lets +onlyGivenNames x; clear_value x)
    | split
    | (simp -zeta only [good_lit_iff]; refine ⟨?_, ?_, ?_, ?_, ?_, ?_, ?_, ?_⟩)

theorem execRestore_good {Q : List Instr} {s : State} (h_s : Good Q s) :
    GoodOut Q (execRestore s) := by
  unfold Sys2Proof.Machine.execRestore
  repeat' first
    | with_reducible assumption
    | with_reducible apply setFld_good (q := Q)
    | with_reducible apply scanNext_good
    | with_reducible apply beginLong_good
    | with_reducible apply command_good
    | with_reducible apply engGo_good
    | with_reducible apply goodOut_next
    | with_reducible refine Good.mem_ok (q := Q) ?_
    | with_reducible refine Good.regs_ok (q := Q) ?_
    | with_reducible refine Good.ecc_ok (q := Q) ?_
    | with_reducible refine Good.win_ok (q := Q) ?_
    | with_reducible refine Good.cores_wf (q := Q) ?_
    | with_reducible refine Good.cores_ok (q := Q) ?_
    | with_reducible refine Good.stores_ok (q := Q) ?_
    | with_reducible refine Good.pending (q := Q) ?_
    | intro x hx
    | intro x
    | (extract_lets +onlyGivenNames x; clear_value x)
    | split
    | (simp -zeta only [good_lit_iff]; refine ⟨?_, ?_, ?_, ?_, ?_, ?_, ?_, ?_⟩)

theorem rekey_good {Q : List Instr} {s : State} (h_s : Good Q s) :
    Good Q (rekey s) := by
  unfold Sys2Proof.Machine.rekey
  repeat' first
    | with_reducible assumption
    | with_reducible apply wf_foldl
    | with_reducible exact Good.mem_ok (q := Q) (by assumption)
    | with_reducible exact Good.regs_ok (q := Q) (by assumption)
    | with_reducible exact Good.ecc_ok (q := Q) (by assumption)
    | with_reducible exact Good.win_ok (q := Q) (by assumption)
    | with_reducible exact Good.cores_wf (q := Q) (by assumption)
    | with_reducible exact Good.cores_ok (q := Q) (by assumption)
    | with_reducible exact Good.pending (q := Q) (by assumption)
    | intro x hx
    | intro x
    | split
    | (simp -zeta only [good_lit_iff]; refine ⟨?_, ?_, ?_, ?_, ?_, ?_, ?_, ?_⟩)
    | with_reducible exact StoresOk.links (Good.stores_ok (q := Q) (by assumption))
    | with_reducible exact StoresOk.used (Good.stores_ok (q := Q) (by assumption))
    | with_reducible exact StoresOk.red (Good.stores_ok (q := Q) (by assumption))
    | with_reducible exact StoresOk.wit (Good.stores_ok (q := Q) (by assumption))
    | with_reducible exact StoresOk.frostX (Good.stores_ok (q := Q) (by assumption))
    | with_reducible exact StoresOk.wlt (Good.stores_ok (q := Q) (by assumption))
    | with_reducible exact StoresOk.subkeys (Good.stores_ok (q := Q) (by assumption))
    | with_reducible apply SMap.wf_put
    | with_reducible apply storesOk_mk

theorem setSeed_good {Q : List Instr} {seed : Word} {s : State} (h_s : Good Q s) :
    Good Q (setSeed seed s) := by
  unfold Sys2Proof.Machine.setSeed
  repeat' first
    | with_reducible apply rekey_good
    | with_reducible exact Good.mem_ok (q := Q) (by assumption)
    | with_reducible exact Good.regs_ok (q := Q) (by assumption)
    | with_reducible exact Good.ecc_ok (q := Q) (by assumption)
    | with_reducible exact Good.win_ok (q := Q) (by assumption)
    | with_reducible exact Good.cores_wf (q := Q) (by assumption)
    | with_reducible exact Good.cores_ok (q := Q) (by assumption)
    | with_reducible exact Good.stores_ok (q := Q) (by assumption)
    | with_reducible exact Good.pending (q := Q) (by assumption)
    | (simp -zeta only [good_lit_iff]; refine ⟨?_, ?_, ?_, ?_, ?_, ?_, ?_, ?_⟩)

theorem restoreKeeps_good {Q : List Instr} {j : RstJob} {s : State} (h_s : Good Q s) :
    Good Q (restoreKeeps j s) := by
  unfold Sys2Proof.Machine.restoreKeeps
  repeat' first
    | with_reducible exact Good.mem_ok (q := Q) (by assumption)
    | with_reducible exact Good.regs_ok (q := Q) (by assumption)
    | with_reducible exact Good.ecc_ok (q := Q) (by assumption)
    | with_reducible exact Good.win_ok (q := Q) (by assumption)
    | with_reducible exact Good.cores_wf (q := Q) (by assumption)
    | with_reducible exact Good.cores_ok (q := Q) (by assumption)
    | with_reducible exact Good.stores_ok (q := Q) (by assumption)
    | with_reducible exact Good.pending (q := Q) (by assumption)
    | (extract_lets +onlyGivenNames x; clear_value x)
    | split
    | (simp -zeta only [good_lit_iff]; refine ⟨?_, ?_, ?_, ?_, ?_, ?_, ?_, ?_⟩)

theorem restoreWrites_good {Q : List Instr} {j : RstJob} {s : State} (h_s : Good Q s) :
    Good Q (restoreWrites j s) := by
  unfold Sys2Proof.Machine.restoreWrites
  repeat' first
    | with_reducible assumption
    | with_reducible apply setFld_good (q := Q)

theorem restoreAgrees_good {Q : List Instr} {j : RstJob} {s : State} (h_s : Good Q s) :
    Good Q (restoreAgrees j s) := by
  unfold Sys2Proof.Machine.restoreAgrees
  repeat' first
    | with_reducible assumption
    | with_reducible apply setFld_good (q := Q)
    | with_reducible apply postNotice_good
    | with_reducible exact Good.mem_ok (q := Q) (by assumption)
    | with_reducible exact Good.regs_ok (q := Q) (by assumption)
    | with_reducible exact Good.ecc_ok (q := Q) (by assumption)
    | with_reducible exact Good.win_ok (q := Q) (by assumption)
    | with_reducible exact Good.cores_wf (q := Q) (by assumption)
    | with_reducible exact Good.cores_ok (q := Q) (by assumption)
    | with_reducible exact Good.stores_ok (q := Q) (by assumption)
    | with_reducible exact Good.pending (q := Q) (by assumption)
    | (extract_lets +onlyGivenNames x; clear_value x)
    | split
    | (simp -zeta only [good_lit_iff]; refine ⟨?_, ?_, ?_, ?_, ?_, ?_, ?_, ?_⟩)

theorem restoreEnds_good {Q : List Instr} {j : RstJob} {s : State} (h_s : Good Q s) :
    Good Q (restoreEnds j s) := by
  unfold Sys2Proof.Machine.restoreEnds
  repeat' first
    | with_reducible assumption
    | with_reducible apply completeLong_good
    | with_reducible apply setSeed_good
    | with_reducible apply restoreKeeps_good
    | with_reducible apply restoreWrites_good
    | with_reducible apply restoreAgrees_good

theorem execRestoreDone_good {Q : List Instr} {s : State} (h_s : Good Q s) :
    GoodOut Q (execRestoreDone s) := by
  unfold Sys2Proof.Machine.execRestoreDone
  repeat' first
    | with_reducible assumption
    | with_reducible apply restoreEnds_good
    | with_reducible apply goodOut_next
    | split

theorem execRestoreAlign_good {Q : List Instr} {s : State} (h_s : Good Q s) :
    GoodOut Q (execRestoreAlign s) := by
  unfold Sys2Proof.Machine.execRestoreAlign
  repeat' first
    | with_reducible assumption
    | with_reducible apply completeTaken_good
    | with_reducible apply command_good
    | with_reducible apply goodOut_next
    | with_reducible exact Good.mem_ok (q := Q) (by assumption)
    | with_reducible exact Good.regs_ok (q := Q) (by assumption)
    | with_reducible exact Good.ecc_ok (q := Q) (by assumption)
    | with_reducible exact Good.win_ok (q := Q) (by assumption)
    | with_reducible exact Good.cores_wf (q := Q) (by assumption)
    | with_reducible exact Good.cores_ok (q := Q) (by assumption)
    | with_reducible exact Good.stores_ok (q := Q) (by assumption)
    | with_reducible exact Good.pending (q := Q) (by assumption)
    | intro x hx
    | intro x
    | (simp -zeta only [good_lit_iff]; refine ⟨?_, ?_, ?_, ?_, ?_, ?_, ?_, ?_⟩)

theorem Core_fresh_good {k : Core} (h_k : CoreOk k) :
    CoreOk (Sys2Proof.Machine.Core.fresh k) := by
  unfold Sys2Proof.Machine.Core.fresh
  repeat' first
    | with_reducible exact filesOk_nil
    | cases ‹none = some _›
    | (simp -zeta only [coreOk_lit_iff]; refine And.intro ?_ ?_)
    | intro x hx

theorem startApplies_good {Q : List Instr} {t : Taken} {s : State} (h_s : Good Q s) :
    Good Q (startApplies t s) := by
  unfold Sys2Proof.Machine.startApplies
  repeat' first
    | with_reducible apply setSeed_good
    | with_reducible apply Core_fresh_good
    | with_reducible apply updCore_good
    | with_reducible apply good_foldl
    | with_reducible exact Good.mem_ok (q := Q) (by assumption)
    | with_reducible exact Good.regs_ok (q := Q) (by assumption)
    | with_reducible exact Good.ecc_ok (q := Q) (by assumption)
    | with_reducible exact Good.win_ok (q := Q) (by assumption)
    | with_reducible exact Good.cores_wf (q := Q) (by assumption)
    | with_reducible exact Good.cores_ok (q := Q) (by assumption)
    | with_reducible exact Good.stores_ok (q := Q) (by assumption)
    | with_reducible exact Good.pending (q := Q) (by assumption)
    | intro x hx
    | (extract_lets +onlyGivenNames x; refine cut_of (p := Good Q x) ?_ fun hx => ?_; (on_goal 1 => (dsimp -zeta only [x]; clear x)); (on_goal 2 => clear_value x))
    | (simp -zeta only [good_lit_iff]; refine ⟨?_, ?_, ?_, ?_, ?_, ?_, ?_, ?_⟩)

theorem execStartRun_good {Q : List Instr} {s : State} (h_s : Good Q s) :
    GoodOut Q (execStartRun s) := by
  unfold Sys2Proof.Machine.execStartRun
  repeat' first
    | with_reducible assumption
    | with_reducible apply completeTaken_good
    | with_reducible apply command_good
    | with_reducible apply startApplies_good
    | with_reducible apply goodOut_next
    | intro x hx
    | intro x
    | split

theorem execAbort_good {Q : List Instr} {s : State} (h_s : Good Q s) :
    GoodOut Q (execAbort s) := by
  unfold Sys2Proof.Machine.execAbort
  repeat' first
    | with_reducible assumption
    | with_reducible apply completeTaken_good
    | with_reducible apply completeLong_good
    | with_reducible apply command_good
    | with_reducible apply endRestore_good
    | with_reducible apply goodOut_next
    | with_reducible exact Good.mem_ok (q := Q) (by assumption)
    | with_reducible exact Good.regs_ok (q := Q) (by assumption)
    | with_reducible exact Good.ecc_ok (q := Q) (by assumption)
    | with_reducible exact Good.win_ok (q := Q) (by assumption)
    | with_reducible exact Good.cores_wf (q := Q) (by assumption)
    | with_reducible exact Good.cores_ok (q := Q) (by assumption)
    | with_reducible exact Good.stores_ok (q := Q) (by assumption)
    | with_reducible exact Good.pending (q := Q) (by assumption)
    | intro x hx
    | intro x
    | (extract_lets +onlyGivenNames x; clear_value x)
    | split
    | (simp -zeta only [good_lit_iff]; refine ⟨?_, ?_, ?_, ?_, ?_, ?_, ?_, ?_⟩)

theorem execTwinExchange_good {Q : List Instr} {s : State} (h_s : Good Q s) :
    GoodOut Q (execTwinExchange s) := by
  unfold Sys2Proof.Machine.execTwinExchange
  repeat' first
    | with_reducible assumption
    | with_reducible apply setFld_good (q := Q)
    | with_reducible apply engGo_good
    | with_reducible apply goodOut_next
    | with_reducible exact Good.mem_ok (q := Q) (by assumption)
    | with_reducible exact Good.regs_ok (q := Q) (by assumption)
    | with_reducible exact Good.ecc_ok (q := Q) (by assumption)
    | with_reducible exact Good.win_ok (q := Q) (by assumption)
    | with_reducible exact Good.cores_wf (q := Q) (by assumption)
    | with_reducible exact Good.cores_ok (q := Q) (by assumption)
    | with_reducible exact Good.stores_ok (q := Q) (by assumption)
    | with_reducible exact Good.pending (q := Q) (by assumption)
    | (extract_lets +onlyGivenNames x; clear_value x)
    | split
    | (simp -zeta only [good_lit_iff]; refine ⟨?_, ?_, ?_, ?_, ?_, ?_, ?_, ?_⟩)

end Sys2Proof.Laws
end

