-- ==== Sys2Proof/Laws/GoodDoor.lean ====
section
/-! SUPPORT. What each definition of Machine/Door.lean keeps: the queue and the canonical form of every store. -/

namespace Sys2Proof.Laws

open Sys2Proof.Machine Sys2Proof.Safety

theorem seedDrbg_good {Q : List Instr} {s : State} (h_s : Good Q s) :
    Good Q (seedDrbg s) := by
  unfold Sys2Proof.Machine.seedDrbg
  repeat' first
    | with_reducible assumption
    | with_reducible apply drawBytes_good
    | with_reducible refine good_snd (by assumption) ?_
    | with_reducible refine Good.mem_ok (q := Q) ?_
    | with_reducible refine Good.regs_ok (q := Q) ?_
    | with_reducible refine Good.ecc_ok (q := Q) ?_
    | with_reducible refine Good.win_ok (q := Q) ?_
    | with_reducible refine Good.cores_wf (q := Q) ?_
    | with_reducible refine Good.cores_ok (q := Q) ?_
    | with_reducible refine Good.stores_ok (q := Q) ?_
    | with_reducible refine Good.pending (q := Q) ?_
    | (extract_lets +onlyGivenNames x; clear_value x)
    | split
    | (simp -zeta only [good_lit_iff]; refine ⟨?_, ?_, ?_, ?_, ?_, ?_, ?_, ?_⟩)

theorem drbgBytes_good {Q : List Instr} {n : Nat} {s : State} (h_s : Good Q s) :
    Good Q (drbgBytes n s).2 := by
  unfold Sys2Proof.Machine.drbgBytes
  repeat' first
    | with_reducible assumption
    | with_reducible apply seedDrbg_good
    | with_reducible exact Good.mem_ok (q := Q) (by assumption)
    | with_reducible exact Good.regs_ok (q := Q) (by assumption)
    | with_reducible exact Good.ecc_ok (q := Q) (by assumption)
    | with_reducible exact Good.win_ok (q := Q) (by assumption)
    | with_reducible exact Good.cores_wf (q := Q) (by assumption)
    | with_reducible exact Good.cores_ok (q := Q) (by assumption)
    | with_reducible exact Good.stores_ok (q := Q) (by assumption)
    | with_reducible exact Good.pending (q := Q) (by assumption)
    | (extract_lets +onlyGivenNames x; refine cut_of (p := Good Q x) ?_ fun hx => ?_; (on_goal 1 => (dsimp -zeta only [x]; clear x)); (on_goal 2 => clear_value x))
    | (extract_lets +onlyGivenNames x; clear_value x)
    | split
    | dsimp -zeta only
    | (simp -zeta only [good_lit_iff]; refine ⟨?_, ?_, ?_, ?_, ?_, ?_, ?_, ?_⟩)

theorem doorError_good {Q : List Instr} {cause : Nat} {s : State} (h_s : Good Q s) :
    Good Q (doorError cause s) := by
  unfold Sys2Proof.Machine.doorError
  repeat' first
    | with_reducible assumption
    | with_reducible apply setFld_good (q := Q)
    | split

theorem showTests_good {Q : List Instr} {mask fails : Nat} {s : State} (h_s : Good Q s) :
    Good Q (showTests mask fails s) := by
  unfold Sys2Proof.Machine.showTests
  repeat' first
    | with_reducible assumption
    | with_reducible apply setFld_good (q := Q)

theorem execEntropySample_good {Q : List Instr} {pass : Bool} {s : State} (h_s : Good Q s) :
    GoodOut Q (execEntropySample pass s) := by
  unfold Sys2Proof.Machine.execEntropySample
  repeat' first
    | with_reducible assumption
    | with_reducible apply doorError_good
    | with_reducible apply showTests_good
    | with_reducible apply goodOut_next
    | split

theorem stagedLines_good {Q : List Instr} {n a : Nat} {s : State} (h : Good Q s) : Good Q (stagedLines n a s).2 := by
  induction' n with n ih generalizing a s <;> unfold stagedLines
  repeat' first
    | with_reducible assumption
    | with_reducible apply busReadNow_good
    | with_reducible apply granted_good
    | with_reducible refine good_snd (by assumption) ?_
    | split
    | extract_lets +onlyGivenNames x
    | apply ih

theorem readStaged_good {Q : List Instr} {s : State} (h_s : Good Q s) :
    Good Q (readStaged s).2 := by
  unfold Sys2Proof.Machine.readStaged
  repeat' first
    | with_reducible assumption
    | with_reducible apply stagedLines_good
    | with_reducible refine good_snd (by assumption) ?_
    | (extract_lets +onlyGivenNames x; clear_value x)
    | split

theorem startCommit_good {Q : List Instr} {s : State} (h_s : Good Q s) :
    Good Q (startCommit s) := by
  unfold Sys2Proof.Machine.startCommit
  repeat' first
    | with_reducible assumption
    | with_reducible apply setFld_good (q := Q)
    | with_reducible apply readStaged_good
    | with_reducible exact Good.mem_ok (q := Q) (by assumption)
    | with_reducible exact Good.regs_ok (q := Q) (by assumption)
    | with_reducible exact Good.ecc_ok (q := Q) (by assumption)
    | with_reducible exact Good.win_ok (q := Q) (by assumption)
    | with_reducible exact Good.cores_wf (q := Q) (by assumption)
    | with_reducible exact Good.cores_ok (q := Q) (by assumption)
    | with_reducible exact Good.stores_ok (q := Q) (by assumption)
    | with_reducible exact Good.pending (q := Q) (by assumption)
    | with_reducible refine Good.mem_ok (q := Q) ?_
    | with_reducible refine Good.regs_ok (q := Q) ?_
    | with_reducible refine Good.ecc_ok (q := Q) ?_
    | with_reducible refine Good.win_ok (q := Q) ?_
    | with_reducible refine Good.cores_wf (q := Q) ?_
    | with_reducible refine Good.cores_ok (q := Q) ?_
    | with_reducible refine Good.stores_ok (q := Q) ?_
    | with_reducible refine Good.pending (q := Q) ?_
    | (extract_lets +onlyGivenNames x; clear_value x)
    | split
    | dsimp -zeta only
    | (simp -zeta only [good_lit_iff]; refine ⟨?_, ?_, ?_, ?_, ?_, ?_, ?_, ?_⟩)

theorem execFwCommitDone_good {Q : List Instr} {readback : Bool} {s : State} (h_s : Good Q s) :
    GoodOut Q (execFwCommitDone readback s) := by
  unfold Sys2Proof.Machine.execFwCommitDone
  repeat' first
    | with_reducible assumption
    | with_reducible apply setFld_good (q := Q)
    | with_reducible apply drawBytes_good
    | with_reducible apply goodOut_next
    | with_reducible exact Good.mem_ok (q := Q) (by assumption)
    | with_reducible exact Good.regs_ok (q := Q) (by assumption)
    | with_reducible exact Good.ecc_ok (q := Q) (by assumption)
    | with_reducible exact Good.win_ok (q := Q) (by assumption)
    | with_reducible exact Good.cores_wf (q := Q) (by assumption)
    | with_reducible exact Good.cores_ok (q := Q) (by assumption)
    | with_reducible exact Good.stores_ok (q := Q) (by assumption)
    | with_reducible exact Good.pending (q := Q) (by assumption)
    | with_reducible refine good_snd (by assumption) ?_
    | with_reducible refine Good.mem_ok (q := Q) ?_
    | with_reducible refine Good.regs_ok (q := Q) ?_
    | with_reducible refine Good.ecc_ok (q := Q) ?_
    | with_reducible refine Good.win_ok (q := Q) ?_
    | with_reducible refine Good.cores_wf (q := Q) ?_
    | with_reducible refine Good.cores_ok (q := Q) ?_
    | with_reducible refine Good.stores_ok (q := Q) ?_
    | with_reducible refine Good.pending (q := Q) ?_
    | intro x hx
    | intro x
    | (extract_lets +onlyGivenNames x; refine cut_of (p := Good Q x) ?_ fun hx => ?_; (on_goal 1 => (dsimp -zeta only [x]; clear x)); (on_goal 2 => clear_value x))
    | (extract_lets +onlyGivenNames x; refine cut_of (p := ∀ a s, Good Q s → Good Q (x a s)) ?_ fun hfun => ?_; (on_goal 1 => (dsimp -zeta only [x]; clear x)); (on_goal 2 => clear_value x))
    | (extract_lets +onlyGivenNames x; clear_value x)
    | split
    | (simp -zeta only [good_lit_iff]; refine ⟨?_, ?_, ?_, ?_, ?_, ?_, ?_, ?_⟩)
    | with_reducible apply hfun

theorem svnAdvance_good {Q : List Instr} {s : State} (h_s : Good Q s) :
    Good Q (svnAdvance s) := by
  unfold Sys2Proof.Machine.svnAdvance
  repeat' first
    | with_reducible assumption
    | with_reducible apply setFld_good (q := Q)
    | with_reducible exact Good.mem_ok (q := Q) (by assumption)
    | with_reducible exact Good.regs_ok (q := Q) (by assumption)
    | with_reducible exact Good.ecc_ok (q := Q) (by assumption)
    | with_reducible exact Good.win_ok (q := Q) (by assumption)
    | with_reducible exact Good.cores_wf (q := Q) (by assumption)
    | with_reducible exact Good.cores_ok (q := Q) (by assumption)
    | with_reducible exact Good.stores_ok (q := Q) (by assumption)
    | with_reducible exact Good.pending (q := Q) (by assumption)
    | (extract_lets +onlyGivenNames x; clear_value x)
    | split
    | (simp -zeta only [good_lit_iff]; refine ⟨?_, ?_, ?_, ?_, ?_, ?_, ?_, ?_⟩)

theorem startZero_good {Q : List Instr} {mesh : Bool} {s : State} (h_s : Good Q s) :
    Good Q (startZero mesh s) := by
  unfold Sys2Proof.Machine.startZero
  repeat' first
    | with_reducible assumption
    | with_reducible apply setFld_good (q := Q)
    | with_reducible exact Good.mem_ok (q := Q) (by assumption)
    | with_reducible exact Good.regs_ok (q := Q) (by assumption)
    | with_reducible exact Good.ecc_ok (q := Q) (by assumption)
    | with_reducible exact Good.win_ok (q := Q) (by assumption)
    | with_reducible exact Good.cores_wf (q := Q) (by assumption)
    | with_reducible exact Good.cores_ok (q := Q) (by assumption)
    | with_reducible exact Good.stores_ok (q := Q) (by assumption)
    | with_reducible exact Good.pending (q := Q) (by assumption)
    | (extract_lets +onlyGivenNames x; clear_value x)
    | split
    | (simp -zeta only [good_lit_iff]; refine ⟨?_, ?_, ?_, ?_, ?_, ?_, ?_, ?_⟩)

theorem endZero_good {Q : List Instr} {mesh : Bool} {s : State} (h_s : Good Q s) :
    Good Q (endZero mesh s) := by
  unfold Sys2Proof.Machine.endZero
  repeat' first
    | with_reducible apply setFld_good (q := Q)
    | with_reducible exact Good.mem_ok (q := Q) (by assumption)
    | with_reducible exact Good.regs_ok (q := Q) (by assumption)
    | with_reducible exact Good.ecc_ok (q := Q) (by assumption)
    | with_reducible exact Good.win_ok (q := Q) (by assumption)
    | with_reducible exact Good.cores_wf (q := Q) (by assumption)
    | with_reducible exact Good.cores_ok (q := Q) (by assumption)
    | with_reducible exact Good.stores_ok (q := Q) (by assumption)
    | with_reducible exact Good.pending (q := Q) (by assumption)
    | (extract_lets +onlyGivenNames x; clear_value x)
    | split
    | (simp -zeta only [good_lit_iff]; refine ⟨?_, ?_, ?_, ?_, ?_, ?_, ?_, ?_⟩)

theorem execTamper_good {Q : List Instr} {s : State} (h_s : Good Q s) :
    GoodOut Q (execTamper s) := by
  unfold Sys2Proof.Machine.execTamper
  repeat' first
    | with_reducible assumption
    | with_reducible apply startZero_good
    | with_reducible apply goodOut_next
    | split

theorem execZeroisationDone_good {Q : List Instr} {s : State} (h_s : Good Q s) :
    GoodOut Q (execZeroisationDone s) := by
  unfold Sys2Proof.Machine.execZeroisationDone
  repeat' first
    | with_reducible assumption
    | with_reducible apply endZero_good
    | with_reducible apply goodOut_next
    | split

theorem endHalts_good {Q : List Instr} {s : State} (h_s : Good Q s) :
    Good Q (endHalts s) := by
  unfold Sys2Proof.Machine.endHalts
  repeat' first
    | with_reducible apply setFld_good (q := Q)
    | with_reducible exact Good.mem_ok (q := Q) (by assumption)
    | with_reducible exact Good.regs_ok (q := Q) (by assumption)
    | with_reducible exact Good.ecc_ok (q := Q) (by assumption)
    | with_reducible exact Good.win_ok (q := Q) (by assumption)
    | with_reducible exact Good.cores_wf (q := Q) (by assumption)
    | with_reducible exact Good.cores_ok (q := Q) (by assumption)
    | with_reducible exact Good.stores_ok (q := Q) (by assumption)
    | with_reducible exact Good.pending (q := Q) (by assumption)
    | (extract_lets +onlyGivenNames x; clear_value x)
    | dsimp -zeta only
    | (simp -zeta only [good_lit_iff]; refine ⟨?_, ?_, ?_, ?_, ?_, ?_, ?_, ?_⟩)

theorem relock_good {Q : List Instr} {s : State} (h_s : Good Q s) :
    Good Q (relock s) := by
  unfold Sys2Proof.Machine.relock
  repeat' first
    | with_reducible apply setFld_good (q := Q)
    | with_reducible apply endHalts_good
    | with_reducible exact Good.mem_ok (q := Q) (by assumption)
    | with_reducible exact Good.regs_ok (q := Q) (by assumption)
    | with_reducible exact Good.ecc_ok (q := Q) (by assumption)
    | with_reducible exact Good.win_ok (q := Q) (by assumption)
    | with_reducible exact Good.cores_wf (q := Q) (by assumption)
    | with_reducible exact Good.cores_ok (q := Q) (by assumption)
    | with_reducible exact Good.stores_ok (q := Q) (by assumption)
    | with_reducible exact Good.pending (q := Q) (by assumption)
    | (extract_lets +onlyGivenNames x; clear_value x)
    | (simp -zeta only [good_lit_iff]; refine ⟨?_, ?_, ?_, ?_, ?_, ?_, ?_, ?_⟩)

theorem applyScope_good {Q : List Instr} {s : State} (h_s : Good Q s) :
    Good Q (applyScope s) := by
  unfold Sys2Proof.Machine.applyScope
  repeat' first
    | with_reducible assumption
    | with_reducible apply setFld_good (q := Q)
    | with_reducible exact Good.mem_ok (q := Q) (by assumption)
    | with_reducible exact Good.regs_ok (q := Q) (by assumption)
    | with_reducible exact Good.ecc_ok (q := Q) (by assumption)
    | with_reducible exact Good.win_ok (q := Q) (by assumption)
    | with_reducible exact Good.cores_wf (q := Q) (by assumption)
    | with_reducible exact Good.cores_ok (q := Q) (by assumption)
    | with_reducible exact Good.stores_ok (q := Q) (by assumption)
    | with_reducible exact Good.pending (q := Q) (by assumption)
    | (extract_lets +onlyGivenNames x; clear_value x)
    | split
    | (simp -zeta only [good_lit_iff]; refine ⟨?_, ?_, ?_, ?_, ?_, ?_, ?_, ?_⟩)

theorem execDebugUnlock_good {Q : List Instr} {s : State} (h_s : Good Q s) :
    GoodOut Q (execDebugUnlock s) := by
  unfold Sys2Proof.Machine.execDebugUnlock
  repeat' first
    | with_reducible assumption
    | with_reducible apply scanNext_good
    | with_reducible apply beginLong_good
    | with_reducible apply command_good
    | with_reducible apply goodOut_next
    | with_reducible exact Good.mem_ok (q := Q) (by assumption)
    | with_reducible exact Good.regs_ok (q := Q) (by assumption)
    | with_reducible exact Good.ecc_ok (q := Q) (by assumption)
    | with_reducible exact Good.win_ok (q := Q) (by assumption)
    | with_reducible exact Good.cores_wf (q := Q) (by assumption)
    | with_reducible exact Good.cores_ok (q := Q) (by assumption)
    | with_reducible exact Good.stores_ok (q := Q) (by assumption)
    | with_reducible exact Good.pending (q := Q) (by assumption)
    | intro x hx
    | intro x
    | (extract_lets +onlyGivenNames x; clear_value x)
    | (simp -zeta only [good_lit_iff]; refine ⟨?_, ?_, ?_, ?_, ?_, ?_, ?_, ?_⟩)

theorem tokenAct_good {Q : List Instr} {t : List Byte} {s : State} (h_s : Good Q s) :
    Good Q (tokenAct t s) := by
  unfold Sys2Proof.Machine.tokenAct
  repeat' first
    | with_reducible assumption
    | with_reducible apply setFld_good (q := Q)
    | with_reducible apply startZero_good
    | with_reducible exact Good.mem_ok (q := Q) (by assumption)
    | with_reducible exact Good.regs_ok (q := Q) (by assumption)
    | with_reducible exact Good.ecc_ok (q := Q) (by assumption)
    | with_reducible exact Good.win_ok (q := Q) (by assumption)
    | with_reducible exact Good.cores_wf (q := Q) (by assumption)
    | with_reducible exact Good.cores_ok (q := Q) (by assumption)
    | with_reducible exact Good.stores_ok (q := Q) (by assumption)
    | with_reducible exact Good.pending (q := Q) (by assumption)
    | (extract_lets +onlyGivenNames x; clear_value x)
    | split
    | (simp -zeta only [good_lit_iff]; refine ⟨?_, ?_, ?_, ?_, ?_, ?_, ?_, ?_⟩)

theorem drawNonce_good {Q : List Instr} {s : State} (h_s : Good Q s) :
    Good Q (drawNonce s) := by
  unfold Sys2Proof.Machine.drawNonce
  repeat' first
    | with_reducible assumption
    | with_reducible apply setReg_good (q := Q)
    | with_reducible apply drbgBytes_good

theorem execTokenEvaluation_good {Q : List Instr} {s : State} (h_s : Good Q s) :
    GoodOut Q (execTokenEvaluation s) := by
  unfold Sys2Proof.Machine.execTokenEvaluation
  repeat' first
    | with_reducible assumption
    | with_reducible apply completeLong_good
    | with_reducible apply tokenAct_good
    | with_reducible apply drawNonce_good
    | with_reducible apply goodOut_next
    | with_reducible exact Good.mem_ok (q := Q) (by assumption)
    | with_reducible exact Good.regs_ok (q := Q) (by assumption)
    | with_reducible exact Good.ecc_ok (q := Q) (by assumption)
    | with_reducible exact Good.win_ok (q := Q) (by assumption)
    | with_reducible exact Good.cores_wf (q := Q) (by assumption)
    | with_reducible exact Good.cores_ok (q := Q) (by assumption)
    | with_reducible exact Good.stores_ok (q := Q) (by assumption)
    | with_reducible exact Good.pending (q := Q) (by assumption)
    | (extract_lets +onlyGivenNames x; refine cut_of (p := Good Q x) ?_ fun hx => ?_; (on_goal 1 => (dsimp -zeta only [x]; clear x)); (on_goal 2 => clear_value x))
    | (extract_lets +onlyGivenNames x; clear_value x)
    | split
    | (simp -zeta only [good_lit_iff]; refine ⟨?_, ?_, ?_, ?_, ?_, ?_, ?_, ?_⟩)

theorem keepKey_good {Q : List Instr} {key : List Byte × List Byte} {s : State} (h : Good Q s) : Good Q (keepKey key s) :=
  have h1 : Good Q (showTests 0x80 0 { s with door := { s.door with keyArea := 1, key := key } }) :=
    showTests_good (good_of h rfl rfl rfl rfl rfl rfl rfl rfl rfl rfl rfl rfl rfl)
  good_of (setFld_good (f := Fld.SDR_STATUS_IDKEY) (x := 1) h1) rfl rfl rfl rfl rfl rfl rfl rfl rfl rfl rfl rfl rfl

theorem generateKey_good {Q : List Instr} {key : List Byte × List Byte} {s : State} (h_s : Good Q s) :
    Good Q (generateKey key s) := by
  unfold Sys2Proof.Machine.generateKey
  repeat' first
    | with_reducible assumption
    | with_reducible apply doorError_good
    | with_reducible apply showTests_good
    | with_reducible apply keepKey_good
    | split

theorem writeCerts_good {Q : List Instr} {device ca : List Byte} {s : State} (h_s : Good Q s) :
    Good Q (writeCerts device ca s) := by
  unfold Sys2Proof.Machine.writeCerts
  repeat' first
    | with_reducible assumption
    | with_reducible exact Good.mem_ok (q := Q) (by assumption)
    | with_reducible exact Good.regs_ok (q := Q) (by assumption)
    | with_reducible exact Good.ecc_ok (q := Q) (by assumption)
    | with_reducible exact Good.win_ok (q := Q) (by assumption)
    | with_reducible exact Good.cores_wf (q := Q) (by assumption)
    | with_reducible exact Good.cores_ok (q := Q) (by assumption)
    | with_reducible exact Good.stores_ok (q := Q) (by assumption)
    | with_reducible exact Good.pending (q := Q) (by assumption)
    | (extract_lets +onlyGivenNames x; clear_value x)
    | split
    | (simp -zeta only [good_lit_iff]; refine ⟨?_, ?_, ?_, ?_, ?_, ?_, ?_, ?_⟩)

theorem deploy_good {Q : List Instr} {s : State} (h_s : Good Q s) :
    Good Q (deploy s) := by
  unfold Sys2Proof.Machine.deploy
  repeat' first
    | with_reducible assumption
    | with_reducible apply setFld_good (q := Q)
    | split

theorem mfgService_good {Q : List Instr} {q : DoorReq} {act : State → State} {s : State} (h_act : ∀ a0, Good Q a0 → Good Q (act a0)) (h_s : Good Q s) :
    Good Q (mfgService q act s) := by
  unfold Sys2Proof.Machine.mfgService
  repeat' first
    | with_reducible assumption
    | with_reducible exact Good.mem_ok (q := Q) (by assumption)
    | with_reducible exact Good.regs_ok (q := Q) (by assumption)
    | with_reducible exact Good.ecc_ok (q := Q) (by assumption)
    | with_reducible exact Good.win_ok (q := Q) (by assumption)
    | with_reducible exact Good.cores_wf (q := Q) (by assumption)
    | with_reducible exact Good.cores_ok (q := Q) (by assumption)
    | with_reducible exact Good.stores_ok (q := Q) (by assumption)
    | with_reducible exact Good.pending (q := Q) (by assumption)
    | (extract_lets +onlyGivenNames x; clear_value x)
    | split
    | (simp -zeta only [good_lit_iff]; refine ⟨?_, ?_, ?_, ?_, ?_, ?_, ?_, ?_⟩)
    | apply h_act

theorem execIdentityKeyGeneration_good {Q : List Instr} {key : List Byte × List Byte} {s : State} (h_s : Good Q s) :
    GoodOut Q (execIdentityKeyGeneration key s) := by
  unfold Sys2Proof.Machine.execIdentityKeyGeneration
  repeat' first
    | with_reducible assumption
    | with_reducible apply generateKey_good
    | with_reducible apply mfgService_good
    | with_reducible apply goodOut_next

theorem execCertificateWrite_good {Q : List Instr} {device ca : List Byte} {s : State} (h_s : Good Q s) :
    GoodOut Q (execCertificateWrite device ca s) := by
  unfold Sys2Proof.Machine.execCertificateWrite
  repeat' first
    | with_reducible assumption
    | with_reducible apply writeCerts_good
    | with_reducible apply mfgService_good
    | with_reducible apply goodOut_next

theorem execDeploy_good {Q : List Instr} {s : State} (h_s : Good Q s) :
    GoodOut Q (execDeploy s) := by
  unfold Sys2Proof.Machine.execDeploy
  repeat' first
    | with_reducible assumption
    | with_reducible apply deploy_good
    | with_reducible apply mfgService_good
    | with_reducible apply goodOut_next

theorem respond_good {Q : List Instr} {code : Nat} {bytes : List Byte} {s : State} (h_s : Good Q s) :
    Good Q (respond code bytes s) := by
  unfold Sys2Proof.Machine.respond
  repeat' first
    | with_reducible exact Good.mem_ok (q := Q) (by assumption)
    | with_reducible exact Good.regs_ok (q := Q) (by assumption)
    | with_reducible exact Good.ecc_ok (q := Q) (by assumption)
    | with_reducible exact Good.win_ok (q := Q) (by assumption)
    | with_reducible exact Good.cores_wf (q := Q) (by assumption)
    | with_reducible exact Good.cores_ok (q := Q) (by assumption)
    | with_reducible exact Good.stores_ok (q := Q) (by assumption)
    | with_reducible exact Good.pending (q := Q) (by assumption)
    | (simp -zeta only [good_lit_iff]; refine ⟨?_, ?_, ?_, ?_, ?_, ?_, ?_, ?_⟩)

theorem respondError_good {Q : List Instr} {code : Nat} {s : State} (h_s : Good Q s) :
    Good Q (respondError code s) := by
  unfold Sys2Proof.Machine.respondError
  repeat' first
    | with_reducible assumption
    | with_reducible apply respond_good

theorem respondSigned_good {Q : List Instr} {code : Nat} {pre post : List Byte} {sign : Bool} {s : State} (h_s : Good Q s) :
    Good Q (respondSigned code pre post sign s) := by
  unfold Sys2Proof.Machine.respondSigned
  repeat' first
    | with_reducible assumption
    | with_reducible apply drawBytes_good
    | with_reducible apply drbgBytes_good
    | with_reducible apply respond_good
    | split

theorem answerMeasurements_good {Q : List Instr} {i : Nat} {sign : Bool} {s : State} (h_s : Good Q s) :
    Good Q (answerMeasurements i sign s) := by
  unfold Sys2Proof.Machine.answerMeasurements
  repeat' first
    | with_reducible assumption
    | with_reducible apply respondError_good
    | with_reducible apply respondSigned_good
    | (extract_lets +onlyGivenNames x; clear_value x)
    | split

theorem answer_good {Q : List Instr} {q : SpdmReq} {s : State} (h_s : Good Q s) :
    Good Q (answer q s) := by
  unfold Sys2Proof.Machine.answer
  repeat' first
    | with_reducible assumption
    | with_reducible apply respond_good
    | with_reducible apply respondError_good
    | with_reducible apply respondSigned_good
    | with_reducible apply answerMeasurements_good
    | (extract_lets +onlyGivenNames x; clear_value x)
    | split

theorem spdm_good {Q : List Instr} {q : SpdmReq} {s : State} (h_s : Good Q s) :
    Good Q (spdm q s) := by
  unfold Sys2Proof.Machine.spdm
  repeat' first
    | with_reducible assumption
    | with_reducible apply answer_good
    | with_reducible exact Good.mem_ok (q := Q) (by assumption)
    | with_reducible exact Good.regs_ok (q := Q) (by assumption)
    | with_reducible exact Good.ecc_ok (q := Q) (by assumption)
    | with_reducible exact Good.win_ok (q := Q) (by assumption)
    | with_reducible exact Good.cores_wf (q := Q) (by assumption)
    | with_reducible exact Good.cores_ok (q := Q) (by assumption)
    | with_reducible exact Good.stores_ok (q := Q) (by assumption)
    | with_reducible exact Good.pending (q := Q) (by assumption)
    | (extract_lets +onlyGivenNames x; clear_value x)
    | split
    | (simp -zeta only [good_lit_iff]; refine ⟨?_, ?_, ?_, ?_, ?_, ?_, ?_, ?_⟩)

theorem execGetVersion_good {Q : List Instr} {s : State} (h_s : Good Q s) :
    GoodOut Q (execGetVersion s) := by
  unfold Sys2Proof.Machine.execGetVersion
  repeat' first
    | with_reducible assumption
    | with_reducible apply spdm_good
    | with_reducible apply goodOut_next

theorem execGetCapabilities_good {Q : List Instr} {s : State} (h_s : Good Q s) :
    GoodOut Q (execGetCapabilities s) := by
  unfold Sys2Proof.Machine.execGetCapabilities
  repeat' first
    | with_reducible assumption
    | with_reducible apply spdm_good
    | with_reducible apply goodOut_next

theorem execNegotiateAlgorithms_good {Q : List Instr} {s : State} (h_s : Good Q s) :
    GoodOut Q (execNegotiateAlgorithms s) := by
  unfold Sys2Proof.Machine.execNegotiateAlgorithms
  repeat' first
    | with_reducible assumption
    | with_reducible apply spdm_good
    | with_reducible apply goodOut_next

theorem execGetDigests_good {Q : List Instr} {s : State} (h_s : Good Q s) :
    GoodOut Q (execGetDigests s) := by
  unfold Sys2Proof.Machine.execGetDigests
  repeat' first
    | with_reducible assumption
    | with_reducible apply spdm_good
    | with_reducible apply goodOut_next

theorem execGetCertificate_good {Q : List Instr} {slot : BitVec 4} {off len : BitVec 16} {s : State} (h_s : Good Q s) :
    GoodOut Q (execGetCertificate slot off len s) := by
  unfold Sys2Proof.Machine.execGetCertificate
  repeat' first
    | with_reducible assumption
    | with_reducible apply spdm_good
    | with_reducible apply goodOut_next

theorem execChallenge_good {Q : List Instr} {slot : BitVec 4} {s : State} (h_s : Good Q s) :
    GoodOut Q (execChallenge slot s) := by
  unfold Sys2Proof.Machine.execChallenge
  repeat' first
    | with_reducible assumption
    | with_reducible apply spdm_good
    | with_reducible apply goodOut_next

theorem execGetMeasurements_good {Q : List Instr} {index : BitVec 8} {sign : Bool} {s : State} (h_s : Good Q s) :
    GoodOut Q (execGetMeasurements index sign s) := by
  unfold Sys2Proof.Machine.execGetMeasurements
  repeat' first
    | with_reducible assumption
    | with_reducible apply spdm_good
    | with_reducible apply goodOut_next

theorem startTests_good {Q : List Instr} {s : State} (h_s : Good Q s) :
    Good Q (startTests s) := by
  unfold Sys2Proof.Machine.startTests
  repeat' first
    | with_reducible exact Good.mem_ok (q := Q) (by assumption)
    | with_reducible exact Good.regs_ok (q := Q) (by assumption)
    | with_reducible exact Good.ecc_ok (q := Q) (by assumption)
    | with_reducible exact Good.win_ok (q := Q) (by assumption)
    | with_reducible exact Good.cores_wf (q := Q) (by assumption)
    | with_reducible exact Good.cores_ok (q := Q) (by assumption)
    | with_reducible exact Good.stores_ok (q := Q) (by assumption)
    | with_reducible exact Good.pending (q := Q) (by assumption)
    | (extract_lets +onlyGivenNames x; clear_value x)
    | (simp -zeta only [good_lit_iff]; refine ⟨?_, ?_, ?_, ?_, ?_, ?_, ?_, ?_⟩)

theorem testsEnd_good {Q : List Instr} {fails : Nat} {s : State} (h : Good Q s) : Good Q (testsEnd fails s) := by
  have h1 : Good Q (showTests 0x7F fails { s with door := { s.door with testing := false, deferred := [], svnWaits := false } }) :=
    showTests_good (good_of h rfl rfl rfl rfl rfl rfl rfl rfl rfl rfl rfl rfl rfl)
  unfold testsEnd
  split
  · exact h1
  · exact doorError_good h1

theorem commitAfterTests_good {Q : List Instr} {ok : Bool} {s : State} (h_s : Good Q s) :
    Good Q (commitAfterTests ok s) := by
  unfold Sys2Proof.Machine.commitAfterTests
  repeat' first
    | with_reducible assumption
    | with_reducible apply setFld_good (q := Q)
    | with_reducible apply readStaged_good
    | with_reducible exact Good.mem_ok (q := Q) (by assumption)
    | with_reducible exact Good.regs_ok (q := Q) (by assumption)
    | with_reducible exact Good.ecc_ok (q := Q) (by assumption)
    | with_reducible exact Good.win_ok (q := Q) (by assumption)
    | with_reducible exact Good.cores_wf (q := Q) (by assumption)
    | with_reducible exact Good.cores_ok (q := Q) (by assumption)
    | with_reducible exact Good.stores_ok (q := Q) (by assumption)
    | with_reducible exact Good.pending (q := Q) (by assumption)
    | with_reducible refine good_snd (by assumption) ?_
    | with_reducible refine Good.mem_ok (q := Q) ?_
    | with_reducible refine Good.regs_ok (q := Q) ?_
    | with_reducible refine Good.ecc_ok (q := Q) ?_
    | with_reducible refine Good.win_ok (q := Q) ?_
    | with_reducible refine Good.cores_wf (q := Q) ?_
    | with_reducible refine Good.cores_ok (q := Q) ?_
    | with_reducible refine Good.stores_ok (q := Q) ?_
    | with_reducible refine Good.pending (q := Q) ?_
    | (extract_lets +onlyGivenNames x; clear_value x)
    | split
    | (simp -zeta only [good_lit_iff]; refine ⟨?_, ?_, ?_, ?_, ?_, ?_, ?_, ?_⟩)

theorem performService_good {Q : List Instr} {q : DoorReq} {s : State} (h_s : Good Q s) :
    Good Q (performService q s) := by
  unfold Sys2Proof.Machine.performService
  repeat' first
    | with_reducible assumption
    | with_reducible apply generateKey_good
    | with_reducible apply writeCerts_good
    | with_reducible apply deploy_good
    | with_reducible apply spdm_good
    | split

theorem execSelftestDone_good {Q : List Instr} {fails : BitVec 8} {s : State} (h_s : Good Q s) :
    GoodOut Q (execSelftestDone fails s) := by
  unfold Sys2Proof.Machine.execSelftestDone
  repeat' first
    | with_reducible assumption
    | with_reducible apply svnAdvance_good
    | with_reducible apply testsEnd_good
    | with_reducible apply commitAfterTests_good
    | with_reducible apply performService_good
    | with_reducible apply goodOut_next
    | with_reducible apply good_foldl
    | intro x hx
    | (extract_lets +onlyGivenNames x; refine cut_of (p := Good Q x) ?_ fun hx => ?_; (on_goal 1 => (dsimp -zeta only [x]; clear x)); (on_goal 2 => clear_value x))
    | (extract_lets +onlyGivenNames x; clear_value x)
    | split

end Sys2Proof.Laws
end

