-- ==== Sys2Proof/Laws/GoodLinks.lean ====
section
/-! SUPPORT. What each definition of Machine/Links.lean keeps: the queue and the canonical form of every store. -/

namespace Sys2Proof.Laws

open Sys2Proof.Machine Sys2Proof.Safety

theorem receive_good {Q : List Instr} {k : LinkId} {p : Pkt} {s : State} (h_s : Good Q s) :
    Good Q (receive k p s) := by
  unfold Sys2Proof.Machine.receive
  repeat' first
    | with_reducible assumption
    | with_reducible apply arrive_good
    | with_reducible apply discardCtrl_good
    | split

theorem acceptFlit_good {Q : List Instr} {k : LinkId} {lcf : Bool} {body : List Byte} {s : State} (h_s : Good Q s) :
    Good Q (acceptFlit k lcf body s) := by
  unfold Sys2Proof.Machine.acceptFlit
  repeat' first
    | with_reducible assumption
    | with_reducible apply State_setLink_good
    | with_reducible apply linkSay_good
    | with_reducible apply receive_good
    | with_reducible apply good_foldl
    | intro x hx
    | (extract_lets +onlyGivenNames x; refine cut_of (p := Good Q x) ?_ fun hx => ?_; (on_goal 1 => (dsimp -zeta only [x]; clear x)); (on_goal 2 => clear_value x))
    | (extract_lets +onlyGivenNames x; clear_value x)
    | split

theorem flushLink_good {Q : List Instr} {k : Nat} {s : State} (h_s : Good Q s) :
    Good Q (flushLink k s) := by
  unfold Sys2Proof.Machine.flushLink
  repeat' first
    | with_reducible assumption
    | with_reducible apply dropPkt_good
    | with_reducible apply freeBuffer_good
    | with_reducible apply SMap.wf_filter
    | with_reducible apply good_foldl
    | with_reducible exact Good.mem_ok (q := Q) (by assumption)
    | with_reducible exact Good.regs_ok (q := Q) (by assumption)
    | with_reducible exact Good.ecc_ok (q := Q) (by assumption)
    | with_reducible exact Good.win_ok (q := Q) (by assumption)
    | with_reducible exact Good.cores_wf (q := Q) (by assumption)
    | with_reducible exact Good.cores_ok (q := Q) (by assumption)
    | with_reducible exact Good.pending (q := Q) (by assumption)
    | intro x hx
    | intro x
    | (extract_lets +onlyGivenNames x; refine cut_of (p := SMap.wf (fun _ => (0 : Nat)) x.used = true) ?_ fun hx => ?_; (on_goal 1 => (dsimp -zeta only [x]; clear x)); (on_goal 2 => clear_value x))
    | split
    | (simp -zeta only [good_lit_iff]; refine ⟨?_, ?_, ?_, ?_, ?_, ?_, ?_, ?_⟩)
    | with_reducible exact StoresOk.links (Good.stores_ok (q := Q) (by assumption))
    | with_reducible exact StoresOk.used (Good.stores_ok (q := Q) (by assumption))
    | with_reducible exact StoresOk.red (Good.stores_ok (q := Q) (by assumption))
    | with_reducible exact StoresOk.wit (Good.stores_ok (q := Q) (by assumption))
    | with_reducible exact StoresOk.frostX (Good.stores_ok (q := Q) (by assumption))
    | with_reducible exact StoresOk.wlt (Good.stores_ok (q := Q) (by assumption))
    | with_reducible exact StoresOk.subkeys (Good.stores_ok (q := Q) (by assumption))
    | with_reducible apply storesOk_mk

theorem startTraining_good {Q : List Instr} {k : Nat} {s : State} (h_s : Good Q s) :
    Good Q (startTraining k s) := by
  unfold Sys2Proof.Machine.startTraining
  repeat' first
    | with_reducible assumption
    | with_reducible apply setFld_good (q := Q)
    | with_reducible apply State_setLink_good
    | with_reducible apply flushLink_good

theorem linkDown_good {Q : List Instr} {n : Nat} {s : State} (h_s : Good Q s) :
    Good Q (linkDown n s) := by
  unfold Sys2Proof.Machine.linkDown
  repeat' first
    | with_reducible assumption
    | with_reducible apply setFld_good (q := Q)
    | with_reducible apply addSat_good (q := Q)
    | with_reducible apply raise_good
    | with_reducible apply startTraining_good
    | split

theorem execLinkDown_good {Q : List Instr} {k : LinkId} {s : State} (h_s : Good Q s) :
    GoodOut Q (execLinkDown k s) := by
  unfold Sys2Proof.Machine.execLinkDown
  repeat' first
    | with_reducible assumption
    | with_reducible apply linkDown_good
    | with_reducible apply goodOut_next

theorem heedFlit_good {Q : List Instr} {k : LinkId} {lctl : Nat} {mgmt : BitVec 2} {s : State} (h_s : Good Q s) :
    Good Q (heedFlit k lctl mgmt s) := by
  unfold Sys2Proof.Machine.heedFlit
  repeat' first
    | with_reducible assumption
    | with_reducible apply setFld_good (q := Q)
    | with_reducible apply acknowledge_good
    | with_reducible apply replayFlits_good
    | with_reducible apply pump_good
    | (extract_lets +onlyGivenNames x; refine cut_of (p := Good Q x) ?_ fun hx => ?_; (on_goal 1 => (dsimp -zeta only [x]; clear x)); (on_goal 2 => clear_value x))
    | (extract_lets +onlyGivenNames x; clear_value x)
    | split

theorem execFlit_good {Q : List Instr} {k : LinkId} {fec : BitVec 2} {crc : BitVec 32} {mgmt : BitVec 2} {bytes : List Byte} {s : State} (h_s : Good Q s) :
    GoodOut Q (execFlit k fec crc mgmt bytes s) := by
  unfold Sys2Proof.Machine.execFlit
  repeat' first
    | with_reducible assumption
    | with_reducible apply addSat_good (q := Q)
    | with_reducible apply State_setLink_good
    | with_reducible apply linkSay_good
    | with_reducible apply replayFlits_good
    | with_reducible apply acceptFlit_good
    | with_reducible apply linkDown_good
    | with_reducible apply heedFlit_good
    | with_reducible apply goodOut_next
    | (extract_lets +onlyGivenNames x; refine cut_of (p := Good Q x) ?_ fun hx => ?_; (on_goal 1 => (dsimp -zeta only [x]; clear x)); (on_goal 2 => clear_value x))
    | (extract_lets +onlyGivenNames x; clear_value x)
    | split

theorem enterTraining_good {Q : List Instr} {n st : Nat} {s : State} (h_s : Good Q s) :
    Good Q (enterTraining n st s) := by
  unfold Sys2Proof.Machine.enterTraining
  repeat' first
    | with_reducible assumption
    | with_reducible apply setFld_good (q := Q)
    | with_reducible apply State_setLink_good

theorem execLinkDetectProbe_good {Q : List Instr} {k : LinkId} {found : Bool} {s : State} (h_s : Good Q s) :
    GoodOut Q (execLinkDetectProbe k found s) := by
  unfold Sys2Proof.Machine.execLinkDetectProbe
  repeat' first
    | with_reducible assumption
    | with_reducible apply State_setLink_good
    | with_reducible apply linkSay_good
    | with_reducible apply advanceTo_good
    | with_reducible apply enterTraining_good
    | with_reducible apply goodOut_next
    | (extract_lets +onlyGivenNames x; refine cut_of (p := Good Q x) ?_ fun hx => ?_; (on_goal 1 => (dsimp -zeta only [x]; clear x)); (on_goal 2 => clear_value x))
    | (extract_lets +onlyGivenNames x; clear_value x)
    | split

theorem execCapabilityExchange_good {Q : List Instr} {k : LinkId} {rev gen : BitVec 2} {type : BitVec 4} {id : BitVec 16} {port : BitVec 6} {s : State} (h_s : Good Q s) :
    GoodOut Q (execCapabilityExchange k rev gen type id port s) := by
  unfold Sys2Proof.Machine.execCapabilityExchange
  repeat' first
    | with_reducible assumption
    | with_reducible apply setFld_good (q := Q)
    | with_reducible apply enterTraining_good
    | with_reducible apply goodOut_next
    | (extract_lets +onlyGivenNames x; refine cut_of (p := Good Q x) ?_ fun hx => ?_; (on_goal 1 => (dsimp -zeta only [x]; clear x)); (on_goal 2 => clear_value x))
    | (extract_lets +onlyGivenNames x; clear_value x)
    | split

theorem execEqualiseDone_good {Q : List Instr} {k : LinkId} {s : State} (h_s : Good Q s) :
    GoodOut Q (execEqualiseDone k s) := by
  unfold Sys2Proof.Machine.execEqualiseDone
  repeat' first
    | with_reducible assumption
    | with_reducible apply State_setLink_good
    | with_reducible apply enterTraining_good
    | with_reducible apply goodOut_next
    | (extract_lets +onlyGivenNames x; clear_value x)
    | split

theorem execMeasureDone_good {Q : List Instr} {k : LinkId} {probes : List (BitVec 40 × BitVec 40)} {s : State} (h_s : Good Q s) :
    GoodOut Q (execMeasureDone k probes s) := by
  unfold Sys2Proof.Machine.execMeasureDone
  repeat' first
    | with_reducible assumption
    | with_reducible apply setFld_good (q := Q)
    | with_reducible apply enterTraining_good
    | with_reducible apply goodOut_next
    | (extract_lets +onlyGivenNames x; refine cut_of (p := Good Q x) ?_ fun hx => ?_; (on_goal 1 => (dsimp -zeta only [x]; clear x)); (on_goal 2 => clear_value x))
    | (extract_lets +onlyGivenNames x; clear_value x)
    | split

theorem execVerifyDone_good {Q : List Instr} {k : LinkId} {s : State} (h_s : Good Q s) :
    GoodOut Q (execVerifyDone k s) := by
  unfold Sys2Proof.Machine.execVerifyDone
  repeat' first
    | with_reducible assumption
    | with_reducible apply setFld_good (q := Q)
    | with_reducible apply State_setLink_good
    | with_reducible apply goodOut_next
    | (extract_lets +onlyGivenNames x; clear_value x)
    | split

theorem execTrainingRetry_good {Q : List Instr} {k : LinkId} {s : State} (h_s : Good Q s) :
    GoodOut Q (execTrainingRetry k s) := by
  unfold Sys2Proof.Machine.execTrainingRetry
  repeat' first
    | with_reducible assumption
    | with_reducible apply addSat_good (q := Q)
    | with_reducible apply advanceTo_good
    | with_reducible apply startTraining_good
    | with_reducible apply goodOut_next
    | (extract_lets +onlyGivenNames x; clear_value x)
    | split

end Sys2Proof.Laws
end

