-- ==== Sys2Proof/Laws/GoodSetCheck.lean ====
section
/-! SUPPORT. What each definition of Machine/SetCheck.lean keeps: the queue and the canonical form of every store. -/

namespace Sys2Proof.Laws

open Sys2Proof.Machine Sys2Proof.Safety

theorem showReject_good {Q : List Instr} {r : Reject} {s : State} (h_s : Good Q s) :
    Good Q (showReject r s) := by
  unfold Sys2Proof.Machine.showReject
  repeat' first
    | with_reducible assumption
    | with_reducible apply setFld_good (q := Q)

end Sys2Proof.Laws
end

