-- ==== Sys2Proof/Laws/GoodPower.lean ====
section
/-! SUPPORT. What each definition of Machine/Power.lean keeps: the queue and the canonical form of every store. -/

namespace Sys2Proof.Laws

open Sys2Proof.Machine Sys2Proof.Safety

theorem coldState_good {Q : List Instr} {s : State} (h : Good Q s) : Good Q (coldState s) := by
  unfold coldState
  refine setReg_good (good_foldl (fun t f ht => setFld_good ht) _ ?_)
  exact ⟨h.pending, rfl, rfl, rfl, rfl, ⟨rfl, fun e he => absurd he List.not_mem_nil⟩, ⟨rfl, rfl, rfl, rfl, rfl, rfl, rfl⟩⟩

theorem enterPs4_good {Q : List Instr} {s : State} (h_s : Good Q s) :
    Good Q (enterPs4 s) := by
  unfold Sys2Proof.Machine.enterPs4
  repeat' first
    | with_reducible assumption
    | with_reducible apply setFld_good (q := Q)
    | with_reducible apply pairOut_good
    | with_reducible apply coldState_good

theorem powerEnds_good {Q : List Instr} {status detail : Nat} {s : State} (h_s : Good Q s) :
    Good Q (powerEnds status detail s) := by
  unfold Sys2Proof.Machine.powerEnds
  repeat' first
    | with_reducible apply completeLongAt_good
    | with_reducible exact Good.mem_ok (q := Q) (by assumption)
    | with_reducible exact Good.regs_ok (q := Q) (by assumption)
    | with_reducible exact Good.ecc_ok (q := Q) (by assumption)
    | with_reducible exact Good.win_ok (q := Q) (by assumption)
    | with_reducible exact Good.cores_wf (q := Q) (by assumption)
    | with_reducible exact Good.cores_ok (q := Q) (by assumption)
    | with_reducible exact Good.stores_ok (q := Q) (by assumption)
    | with_reducible exact Good.pending (q := Q) (by assumption)
    | (extract_lets +onlyGivenNames x; clear_value x)
    | (simp -zeta only [good_lit_iff]; refine ⟨?_, ?_, ?_, ?_, ?_, ?_, ?_, ?_⟩)

theorem beginStep_good {Q : List Instr} {ps div : Nat} {ms : Option Nat} {s : State} (h_s : Good Q s) :
    Good Q (beginStep ps div ms s) := by
  unfold Sys2Proof.Machine.beginStep
  repeat' first
    | with_reducible exact Good.mem_ok (q := Q) (by assumption)
    | with_reducible exact Good.regs_ok (q := Q) (by assumption)
    | with_reducible exact Good.ecc_ok (q := Q) (by assumption)
    | with_reducible exact Good.win_ok (q := Q) (by assumption)
    | with_reducible exact Good.cores_wf (q := Q) (by assumption)
    | with_reducible exact Good.cores_ok (q := Q) (by assumption)
    | with_reducible exact Good.stores_ok (q := Q) (by assumption)
    | with_reducible exact Good.pending (q := Q) (by assumption)
    | (extract_lets +onlyGivenNames x; clear_value x)
    | (simp -zeta only [good_lit_iff]; refine ⟨?_, ?_, ?_, ?_, ?_, ?_, ?_, ?_⟩)

theorem powerGo_good {Q : List Instr} {s : State} (h_s : Good Q s) :
    Good Q (powerGo s) := by
  unfold Sys2Proof.Machine.powerGo
  repeat' first
    | with_reducible assumption
    | with_reducible apply showReject_good
    | with_reducible apply powerEnds_good
    | with_reducible apply beginStep_good
    | with_reducible exact Good.mem_ok (q := Q) (by assumption)
    | with_reducible exact Good.regs_ok (q := Q) (by assumption)
    | with_reducible exact Good.ecc_ok (q := Q) (by assumption)
    | with_reducible exact Good.win_ok (q := Q) (by assumption)
    | with_reducible exact Good.cores_wf (q := Q) (by assumption)
    | with_reducible exact Good.cores_ok (q := Q) (by assumption)
    | with_reducible exact Good.stores_ok (q := Q) (by assumption)
    | with_reducible exact Good.pending (q := Q) (by assumption)
    | (extract_lets +onlyGivenNames x; clear_value x)
    | split
    | (simp -zeta only [good_lit_iff]; refine ⟨?_, ?_, ?_, ?_, ?_, ?_, ?_, ?_⟩)

theorem tracePower_good {Q : List Instr} {ps : Nat} {s : State} (h_s : Good Q s) :
    Good Q (tracePower ps s) := by
  unfold Sys2Proof.Machine.tracePower
  repeat' first
    | with_reducible assumption
    | with_reducible apply traceRec_good

theorem clearCores_good {Q : List Instr} {s : State} (h : Good Q s) : Good Q (clearCores s) := by
  have hf : ∀ (l : List CoreId) (m : SMap Core), (SMap.wf (fun _ => ({} : Core)) m = true ∧ ∀ e ∈ m, CoreOk e.2) →
      SMap.wf (fun _ => ({} : Core)) (l.foldl (fun m c =>
        SMap.set {} m c.val { phases := (s.core c).phases, phaseLost := (s.core c).phaseLost }) m) = true ∧
      ∀ e ∈ l.foldl (fun m c =>
        SMap.set {} m c.val { phases := (s.core c).phases, phaseLost := (s.core c).phaseLost }) m, CoreOk e.2 := by
    intro l
    induction l with
    | nil => exact fun _ hm => hm
    | cons c l ih =>
      intro m hm
      refine ih _ ⟨SMap.wf_set (d := fun _ => ({} : Core)) _ _ hm.1, fun e he => ?_⟩
      rcases mem_set he with he | he
      · subst he
        exact ⟨filesOk_nil, fun r e => by cases e⟩
      · exact hm.2 e he
  exact ⟨h.pending, SMap.wf_filter _ h.mem_ok, h.regs_ok, SMap.wf_filter _ h.ecc_ok, h.win_ok,
    hf allCores [] ⟨rfl, fun e he => absurd he List.not_mem_nil⟩, h.stores_ok⟩

theorem enterPs3_good {Q : List Instr} {s : State} (h_s : Good Q s) :
    Good Q (enterPs3 s) := by
  unfold Sys2Proof.Machine.enterPs3
  repeat' first
    | with_reducible assumption
    | with_reducible apply setFld_good (q := Q)
    | with_reducible apply linkSay_good
    | with_reducible apply clearCores_good
    | with_reducible apply good_foldl
    | with_reducible exact Good.mem_ok (q := Q) (by assumption)
    | with_reducible exact Good.regs_ok (q := Q) (by assumption)
    | with_reducible exact Good.ecc_ok (q := Q) (by assumption)
    | with_reducible exact Good.win_ok (q := Q) (by assumption)
    | with_reducible exact Good.cores_wf (q := Q) (by assumption)
    | with_reducible exact Good.cores_ok (q := Q) (by assumption)
    | with_reducible exact Good.stores_ok (q := Q) (by assumption)
    | with_reducible exact Good.pending (q := Q) (by assumption)
    | intro x hx
    | intro x
    | (extract_lets +onlyGivenNames x; refine cut_of (p := Good Q x) ?_ fun hx => ?_; (on_goal 1 => (dsimp -zeta only [x]; clear x)); (on_goal 2 => clear_value x))
    | (extract_lets +onlyGivenNames x; clear_value x)
    | split
    | (simp -zeta only [good_lit_iff]; refine ⟨?_, ?_, ?_, ?_, ?_, ?_, ?_, ?_⟩)

theorem leavePs3_good {Q : List Instr} {s : State} (h_s : Good Q s) :
    Good Q (leavePs3 s) := by
  unfold Sys2Proof.Machine.leavePs3
  repeat' first
    | with_reducible assumption
    | with_reducible apply setFld_good (q := Q)
    | with_reducible apply linkSay_good
    | with_reducible apply clearCores_good
    | with_reducible apply good_foldl
    | intro x hx
    | intro x
    | split

theorem noteMoved_good {Q : List Instr} {s : State} (h_s : Good Q s) :
    Good Q (noteMoved s) := by
  unfold Sys2Proof.Machine.noteMoved
  repeat' first
    | with_reducible exact Good.mem_ok (q := Q) (by assumption)
    | with_reducible exact Good.regs_ok (q := Q) (by assumption)
    | with_reducible exact Good.ecc_ok (q := Q) (by assumption)
    | with_reducible exact Good.win_ok (q := Q) (by assumption)
    | with_reducible exact Good.cores_wf (q := Q) (by assumption)
    | with_reducible exact Good.cores_ok (q := Q) (by assumption)
    | with_reducible exact Good.stores_ok (q := Q) (by assumption)
    | with_reducible exact Good.pending (q := Q) (by assumption)
    | (extract_lets +onlyGivenNames x; clear_value x)
    | (simp -zeta only [good_lit_iff]; refine ⟨?_, ?_, ?_, ?_, ?_, ?_, ?_, ?_⟩)

theorem reachState_good {Q : List Instr} {p : PwrStep} {s : State} (h : Good Q s) : Good Q (reachState p s) := by
  unfold reachState
  extract_lets from_ src s1 s2 s3 src2 s4
  have h1 : Good Q s1 := noteMoved_good (good_of h rfl rfl rfl rfl rfl rfl rfl rfl rfl rfl rfl rfl rfl)
  have h2 : Good Q s2 := setFld_good (setFld_good h1)
  have h3 : Good Q s3 := by
    dsimp -zeta only [s3]
    clear_value s2
    split
    · exact enterPs3_good h2
    · split
      · exact leavePs3_good h2
      · exact h2
  have h4 : Good Q s4 := by
    dsimp -zeta only [s4, src2]
    clear_value s3
    split
    · exact setFld_good (good_of h3 rfl rfl rfl rfl rfl rfl rfl rfl rfl rfl rfl rfl rfl)
    · exact h3
  exact tracePower_good h4

theorem endStep_good {Q : List Instr} {s : State} (h_s : Good Q s) :
    Good Q (endStep s) := by
  unfold Sys2Proof.Machine.endStep
  repeat' first
    | with_reducible assumption
    | with_reducible apply enterPs4_good
    | with_reducible apply powerEnds_good
    | with_reducible apply powerGo_good
    | with_reducible apply reachState_good
    | with_reducible exact Good.mem_ok (q := Q) (by assumption)
    | with_reducible exact Good.regs_ok (q := Q) (by assumption)
    | with_reducible exact Good.ecc_ok (q := Q) (by assumption)
    | with_reducible exact Good.win_ok (q := Q) (by assumption)
    | with_reducible exact Good.cores_wf (q := Q) (by assumption)
    | with_reducible exact Good.cores_ok (q := Q) (by assumption)
    | with_reducible exact Good.stores_ok (q := Q) (by assumption)
    | with_reducible exact Good.pending (q := Q) (by assumption)
    | (extract_lets +onlyGivenNames x; clear_value x)
    | split
    | (simp -zeta only [good_lit_iff]; refine ⟨?_, ?_, ?_, ?_, ?_, ?_, ?_, ?_⟩)

theorem stepAtCue_good {Q : List Instr} {s : State} (h_s : Good Q s) :
    Good Q (stepAtCue s) := by
  unfold Sys2Proof.Machine.stepAtCue
  repeat' first
    | with_reducible assumption
    | with_reducible apply reachState_good
    | split

theorem powerAtCue_good {Q : List Instr} {s : State} (h_s : Good Q s) :
    Good Q (powerAtCue s) := by
  unfold Sys2Proof.Machine.powerAtCue
  repeat' first
    | with_reducible assumption
    | with_reducible apply powerGo_good
    | split

theorem execPowerStepDone_good {Q : List Instr} {s : State} (h_s : Good Q s) :
    GoodOut Q (execPowerStepDone s) := by
  unfold Sys2Proof.Machine.execPowerStepDone
  repeat' first
    | with_reducible assumption
    | with_reducible apply advanceTo_good
    | with_reducible apply endStep_good
    | with_reducible apply goodOut_next
    | split

theorem execSetPower_good {Q : List Instr} {s : State} (h_s : Good Q s) :
    GoodOut Q (execSetPower s) := by
  unfold Sys2Proof.Machine.execSetPower
  repeat' first
    | with_reducible assumption
    | with_reducible apply setFld_good (q := Q)
    | with_reducible apply scanNext_good
    | with_reducible apply beginLong_good
    | with_reducible apply command_good
    | with_reducible apply powerGo_good
    | with_reducible apply goodOut_next
    | intro x hx
    | intro x

end Sys2Proof.Laws
end

