-- ==== Sys2Proof/Laws/GoodBoot.lean ====
section
/-! SUPPORT. What each definition of Machine/Boot.lean keeps: the queue and the canonical form of every store. -/

namespace Sys2Proof.Laws

open Sys2Proof.Machine Sys2Proof.Safety

theorem holdReset_good {Q : List Instr} {s : State} (h_s : Good Q s) :
    Good Q (holdReset s) := by
  unfold Sys2Proof.Machine.holdReset
  repeat' first
    | with_reducible assumption
    | with_reducible apply pairOut_good
    | with_reducible apply coldState_good
    | with_reducible exact Good.mem_ok (q := Q) (by assumption)
    | with_reducible exact Good.regs_ok (q := Q) (by assumption)
    | with_reducible exact Good.ecc_ok (q := Q) (by assumption)
    | with_reducible exact Good.win_ok (q := Q) (by assumption)
    | with_reducible exact Good.cores_wf (q := Q) (by assumption)
    | with_reducible exact Good.cores_ok (q := Q) (by assumption)
    | with_reducible exact Good.stores_ok (q := Q) (by assumption)
    | with_reducible exact Good.pending (q := Q) (by assumption)
    | (extract_lets +onlyGivenNames x; refine cut_of (p := Good Q x) ?_ fun hx => ?_; (on_goal 1 => (dsimp -zeta only [x]; clear x)); (on_goal 2 => clear_value x))
    | (extract_lets +onlyGivenNames x; clear_value x)
    | (simp -zeta only [good_lit_iff]; refine ⟨?_, ?_, ?_, ?_, ?_, ?_, ?_, ?_⟩)

theorem leaveReset_good {Q : List Instr} {mfg wp spare : Bool} {s : State} (h_s : Good Q s) :
    Good Q (leaveReset mfg wp spare s) := by
  unfold Sys2Proof.Machine.leaveReset
  repeat' first
    | with_reducible assumption
    | with_reducible apply setFld_good (q := Q)
    | with_reducible apply pairOut_good
    | with_reducible apply coldState_good
    | split

theorem execPerstAssert_good {Q : List Instr} {s : State} (h_s : Good Q s) :
    GoodOut Q (execPerstAssert s) := by
  unfold Sys2Proof.Machine.execPerstAssert
  repeat' first
    | with_reducible assumption
    | with_reducible apply holdReset_good
    | with_reducible apply goodOut_next
    | split

theorem execAuxUndervoltage_good {Q : List Instr} {s : State} (h_s : Good Q s) :
    GoodOut Q (execAuxUndervoltage s) := by
  unfold Sys2Proof.Machine.execAuxUndervoltage
  repeat' first
    | with_reducible assumption
    | with_reducible apply holdReset_good
    | with_reducible apply goodOut_next
    | split

theorem execPerstDeassert_good {Q : List Instr} {mfg wp spare : Bool} {s : State} (h_s : Good Q s) :
    GoodOut Q (execPerstDeassert mfg wp spare s) := by
  unfold Sys2Proof.Machine.execPerstDeassert
  repeat' first
    | with_reducible assumption
    | with_reducible apply leaveReset_good
    | with_reducible apply goodOut_next
    | split

theorem execPowerLoss_good {Q : List Instr} {s : State} (h_s : Good Q s) :
    GoodOut Q (execPowerLoss s) := by
  unfold Sys2Proof.Machine.execPowerLoss
  repeat' first
    | with_reducible assumption
    | with_reducible apply pairOut_good
    | with_reducible apply coldState_good
    | with_reducible apply goodOut_next
    | with_reducible exact Good.mem_ok (q := Q) (by assumption)
    | with_reducible exact Good.regs_ok (q := Q) (by assumption)
    | with_reducible exact Good.ecc_ok (q := Q) (by assumption)
    | with_reducible exact Good.win_ok (q := Q) (by assumption)
    | with_reducible exact Good.cores_wf (q := Q) (by assumption)
    | with_reducible exact Good.cores_ok (q := Q) (by assumption)
    | with_reducible exact Good.stores_ok (q := Q) (by assumption)
    | with_reducible exact Good.pending (q := Q) (by assumption)
    | (extract_lets +onlyGivenNames x; refine cut_of (p := Good Q x) ?_ fun hx => ?_; (on_goal 1 => (dsimp -zeta only [x]; clear x)); (on_goal 2 => clear_value x))
    | (extract_lets +onlyGivenNames x; clear_value x)
    | (simp -zeta only [good_lit_iff]; refine ⟨?_, ?_, ?_, ?_, ?_, ?_, ?_, ?_⟩)

theorem execPowerUp_good {Q : List Instr} {mfg wp spare : Bool} {s : State} (h_s : Good Q s) :
    GoodOut Q (execPowerUp mfg wp spare s) := by
  unfold Sys2Proof.Machine.execPowerUp
  repeat' first
    | with_reducible assumption
    | with_reducible apply leaveReset_good
    | with_reducible apply goodOut_next
    | split

theorem release_good {Q : List Instr} {sm mc : FlashCopy} {s : State} (h_s : Good Q s) :
    Good Q (release sm mc s) := by
  unfold Sys2Proof.Machine.release
  repeat' first
    | with_reducible assumption
    | with_reducible apply setFld_good (q := Q)
    | with_reducible apply seedDrbg_good
    | with_reducible apply drawNonce_good
    | with_reducible refine Good.mem_ok (q := Q) ?_
    | with_reducible refine Good.regs_ok (q := Q) ?_
    | with_reducible refine Good.ecc_ok (q := Q) ?_
    | with_reducible refine Good.win_ok (q := Q) ?_
    | with_reducible refine Good.cores_wf (q := Q) ?_
    | with_reducible refine Good.cores_ok (q := Q) ?_
    | with_reducible refine Good.stores_ok (q := Q) ?_
    | with_reducible refine Good.pending (q := Q) ?_
    | (extract_lets +onlyGivenNames x; clear_value x)
    | (simp -zeta only [good_lit_iff]; refine ⟨?_, ?_, ?_, ?_, ?_, ?_, ?_, ?_⟩)

theorem assemble_good {Q : List Instr} {answers : Nat} {s : State} (h_s : Good Q s) :
    Good Q (assemble answers s) := by
  unfold Sys2Proof.Machine.assemble
  repeat' first
    | with_reducible assumption
    | with_reducible apply setFld_good (q := Q)
    | with_reducible apply pairFault_good
    | with_reducible apply pairClear_good
    | with_reducible apply trip_good
    | with_reducible exact Good.mem_ok (q := Q) (by assumption)
    | with_reducible exact Good.regs_ok (q := Q) (by assumption)
    | with_reducible exact Good.ecc_ok (q := Q) (by assumption)
    | with_reducible exact Good.win_ok (q := Q) (by assumption)
    | with_reducible exact Good.cores_wf (q := Q) (by assumption)
    | with_reducible exact Good.cores_ok (q := Q) (by assumption)
    | with_reducible exact Good.stores_ok (q := Q) (by assumption)
    | with_reducible exact Good.pending (q := Q) (by assumption)
    | (extract_lets +onlyGivenNames x; refine cut_of (p := Good Q x) ?_ fun hx => ?_; (on_goal 1 => (dsimp -zeta only [x]; clear x)); (on_goal 2 => clear_value x))
    | (extract_lets +onlyGivenNames x; clear_value x)
    | split
    | (simp -zeta only [good_lit_iff]; refine ⟨?_, ?_, ?_, ?_, ?_, ?_, ?_, ?_⟩)

theorem execStageDoorBootDone_good {Q : List Instr} {fails : BitVec 8} {answers : BitVec 16} {s : State} (h_s : Good Q s) :
    GoodOut Q (execStageDoorBootDone fails answers s) := by
  unfold Sys2Proof.Machine.execStageDoorBootDone
  repeat' first
    | with_reducible assumption
    | with_reducible apply setFld_good (q := Q)
    | with_reducible apply doorError_good
    | with_reducible apply showTests_good
    | with_reducible apply endZero_good
    | with_reducible apply release_good
    | with_reducible apply assemble_good
    | with_reducible apply goodOut_next
    | (extract_lets +onlyGivenNames x; refine cut_of (p := Good Q x) ?_ fun hx => ?_; (on_goal 1 => (dsimp -zeta only [x]; clear x)); (on_goal 2 => clear_value x))
    | (extract_lets +onlyGivenNames x; clear_value x)
    | split

theorem execRailRampDone_good {Q : List Instr} {s : State} (h_s : Good Q s) :
    GoodOut Q (execRailRampDone s) := by
  unfold Sys2Proof.Machine.execRailRampDone
  repeat' first
    | with_reducible assumption
    | with_reducible apply setFld_good (q := Q)
    | with_reducible apply State_setLink_good
    | with_reducible apply goodOut_next
    | with_reducible apply good_foldl
    | with_reducible exact Good.mem_ok (q := Q) (by assumption)
    | with_reducible exact Good.regs_ok (q := Q) (by assumption)
    | with_reducible exact Good.ecc_ok (q := Q) (by assumption)
    | with_reducible exact Good.win_ok (q := Q) (by assumption)
    | with_reducible exact Good.cores_wf (q := Q) (by assumption)
    | with_reducible exact Good.cores_ok (q := Q) (by assumption)
    | with_reducible exact Good.stores_ok (q := Q) (by assumption)
    | with_reducible exact Good.pending (q := Q) (by assumption)
    | intro x hx
    | intro x
    | (extract_lets +onlyGivenNames x; refine cut_of (p := Good Q x) ?_ fun hx => ?_; (on_goal 1 => (dsimp -zeta only [x]; clear x)); (on_goal 2 => clear_value x))
    | (extract_lets +onlyGivenNames x; clear_value x)
    | split
    | (simp -zeta only [good_lit_iff]; refine ⟨?_, ?_, ?_, ?_, ?_, ?_, ?_, ?_⟩)

theorem execMemoryClearDone_good {Q : List Instr} {failed : BitVec 12} {s : State} (h_s : Good Q s) :
    GoodOut Q (execMemoryClearDone failed s) := by
  unfold Sys2Proof.Machine.execMemoryClearDone
  repeat' first
    | with_reducible assumption
    | with_reducible exact SMap.wf_nil _
    | with_reducible apply setFld_good (q := Q)
    | with_reducible apply severeEvent_good
    | with_reducible apply goodOut_next
    | with_reducible apply good_foldl
    | with_reducible exact Good.regs_ok (q := Q) (by assumption)
    | with_reducible exact Good.win_ok (q := Q) (by assumption)
    | with_reducible exact Good.cores_wf (q := Q) (by assumption)
    | with_reducible exact Good.cores_ok (q := Q) (by assumption)
    | with_reducible exact Good.stores_ok (q := Q) (by assumption)
    | with_reducible exact Good.pending (q := Q) (by assumption)
    | intro x hx
    | intro x
    | (extract_lets +onlyGivenNames x; refine cut_of (p := Good Q x) ?_ fun hx => ?_; (on_goal 1 => (dsimp -zeta only [x]; clear x)); (on_goal 2 => clear_value x))
    | (extract_lets +onlyGivenNames x; clear_value x)
    | split
    | (simp -zeta only [good_lit_iff]; refine ⟨?_, ?_, ?_, ?_, ?_, ?_, ?_, ?_⟩)

theorem execFlr_good {Q : List Instr} {s : State} (h_s : Good Q s) :
    GoodOut Q (execFlr s) := by
  unfold Sys2Proof.Machine.execFlr
  repeat' first
    | with_reducible assumption
    | with_reducible exact SMap.wf_nil _
    | with_reducible apply setFld_good (q := Q)
    | with_reducible apply traceRec_good
    | with_reducible apply goodOut_next
    | with_reducible apply SMap.wf_filter
    | with_reducible apply good_foldl
    | with_reducible exact Good.mem_ok (q := Q) (by assumption)
    | with_reducible exact Good.regs_ok (q := Q) (by assumption)
    | with_reducible exact Good.ecc_ok (q := Q) (by assumption)
    | with_reducible exact Good.cores_wf (q := Q) (by assumption)
    | with_reducible exact Good.cores_ok (q := Q) (by assumption)
    | with_reducible exact Good.stores_ok (q := Q) (by assumption)
    | with_reducible exact Good.pending (q := Q) (by assumption)
    | intro x hx
    | (extract_lets +onlyGivenNames x; refine cut_of (p := Good Q x) ?_ fun hx => ?_; (on_goal 1 => (dsimp -zeta only [x]; clear x)); (on_goal 2 => clear_value x))
    | (extract_lets +onlyGivenNames x; clear_value x)
    | split
    | (simp -zeta only [good_lit_iff]; refine ⟨?_, ?_, ?_, ?_, ?_, ?_, ?_, ?_⟩)

theorem execD3hot_good {Q : List Instr} {enter : Bool} {s : State} (h_s : Good Q s) :
    GoodOut Q (execD3hot enter s) := by
  unfold Sys2Proof.Machine.execD3hot
  repeat' first
    | with_reducible assumption
    | with_reducible apply setFld_good (q := Q)
    | with_reducible apply goodOut_next
    | split

theorem execPcieLinkTraining_good {Q : List Instr} {rate width : BitVec 3} {flit : Bool} {s : State} (h_s : Good Q s) :
    GoodOut Q (execPcieLinkTraining rate width flit s) := by
  unfold Sys2Proof.Machine.execPcieLinkTraining
  repeat' first
    | with_reducible assumption
    | with_reducible apply setFld_good (q := Q)
    | with_reducible apply goodOut_next
    | split

theorem tdo_good {Q : List Instr} {what value : Nat} {s : State} (h_s : Good Q s) :
    Good Q (tdo what value s) := by
  unfold Sys2Proof.Machine.tdo
  repeat' first
    | with_reducible exact Good.mem_ok (q := Q) (by assumption)
    | with_reducible exact Good.regs_ok (q := Q) (by assumption)
    | with_reducible exact Good.ecc_ok (q := Q) (by assumption)
    | with_reducible exact Good.win_ok (q := Q) (by assumption)
    | with_reducible exact Good.cores_wf (q := Q) (by assumption)
    | with_reducible exact Good.cores_ok (q := Q) (by assumption)
    | with_reducible exact Good.stores_ok (q := Q) (by assumption)
    | with_reducible exact Good.pending (q := Q) (by assumption)
    | (simp -zeta only [good_lit_iff]; refine ⟨?_, ?_, ?_, ?_, ?_, ?_, ?_, ?_⟩)

theorem jtagAct_good {Q : List Instr} {op : JtagOp} {s : State} (h_s : Good Q s) :
    Good Q (jtagAct op s) := by
  unfold Sys2Proof.Machine.jtagAct
  repeat' first
    | with_reducible assumption
    | with_reducible apply tdo_good
    | with_reducible exact Good.mem_ok (q := Q) (by assumption)
    | with_reducible exact Good.regs_ok (q := Q) (by assumption)
    | with_reducible exact Good.ecc_ok (q := Q) (by assumption)
    | with_reducible exact Good.win_ok (q := Q) (by assumption)
    | with_reducible exact Good.cores_wf (q := Q) (by assumption)
    | with_reducible exact Good.cores_ok (q := Q) (by assumption)
    | with_reducible exact Good.stores_ok (q := Q) (by assumption)
    | with_reducible exact Good.pending (q := Q) (by assumption)
    | (extract_lets +onlyGivenNames x; clear_value x)
    | split
    | (simp -zeta only [good_lit_iff]; refine ⟨?_, ?_, ?_, ?_, ?_, ?_, ?_, ?_⟩)

theorem execJtagDebug_good {Q : List Instr} {op : JtagOp} {s : State} (h_s : Good Q s) :
    GoodOut Q (execJtagDebug op s) := by
  unfold Sys2Proof.Machine.execJtagDebug
  repeat' first
    | with_reducible assumption
    | with_reducible apply jtagAct_good
    | with_reducible apply goodOut_next
    | with_reducible exact Good.mem_ok (q := Q) (by assumption)
    | with_reducible exact Good.regs_ok (q := Q) (by assumption)
    | with_reducible exact Good.ecc_ok (q := Q) (by assumption)
    | with_reducible exact Good.win_ok (q := Q) (by assumption)
    | with_reducible exact Good.cores_wf (q := Q) (by assumption)
    | with_reducible exact Good.cores_ok (q := Q) (by assumption)
    | with_reducible exact Good.stores_ok (q := Q) (by assumption)
    | with_reducible exact Good.pending (q := Q) (by assumption)
    | (extract_lets +onlyGivenNames x; clear_value x)
    | split
    | (simp -zeta only [good_lit_iff]; refine ⟨?_, ?_, ?_, ?_, ?_, ?_, ?_, ?_⟩)

theorem execTrst_good {Q : List Instr} {s : State} (h_s : Good Q s) :
    GoodOut Q (execTrst s) := by
  unfold Sys2Proof.Machine.execTrst
  repeat' first
    | with_reducible apply goodOut_next
    | with_reducible exact Good.mem_ok (q := Q) (by assumption)
    | with_reducible exact Good.regs_ok (q := Q) (by assumption)
    | with_reducible exact Good.ecc_ok (q := Q) (by assumption)
    | with_reducible exact Good.win_ok (q := Q) (by assumption)
    | with_reducible exact Good.cores_wf (q := Q) (by assumption)
    | with_reducible exact Good.cores_ok (q := Q) (by assumption)
    | with_reducible exact Good.stores_ok (q := Q) (by assumption)
    | with_reducible exact Good.pending (q := Q) (by assumption)
    | (extract_lets +onlyGivenNames x; clear_value x)
    | (simp -zeta only [good_lit_iff]; refine ⟨?_, ?_, ?_, ?_, ?_, ?_, ?_, ?_⟩)

end Sys2Proof.Laws
end

