-- ==== Sys2Proof/Laws/GoodRehearsal.lean ====
section
/-! SUPPORT. What each definition of Machine/Rehearsal.lean keeps: the queue and the canonical form of every store. -/

namespace Sys2Proof.Laws

open Sys2Proof.Machine Sys2Proof.Safety

theorem execRehearsalDue_good {Q : List Instr} {s : State} (h_s : Good Q s) :
    GoodOut Q (execRehearsalDue s) := by
  unfold Sys2Proof.Machine.execRehearsalDue
  repeat' first
    | with_reducible assumption
    | with_reducible apply setFld_good (q := Q)
    | with_reducible apply logEvent_good
    | with_reducible apply goodOut_next
    | with_reducible apply good_foldl
    | with_reducible exact Good.mem_ok (q := Q) (by assumption)
    | with_reducible exact Good.regs_ok (q := Q) (by assumption)
    | with_reducible exact Good.ecc_ok (q := Q) (by assumption)
    | with_reducible exact Good.win_ok (q := Q) (by assumption)
    | with_reducible exact Good.cores_wf (q := Q) (by assumption)
    | with_reducible exact Good.cores_ok (q := Q) (by assumption)
    | with_reducible exact Good.stores_ok (q := Q) (by assumption)
    | with_reducible exact Good.pending (q := Q) (by assumption)
    | intro x hx
    | intro x
    | (extract_lets +onlyGivenNames x; refine cut_of (p := Good Q x) ?_ fun hx => ?_; (on_goal 1 => (dsimp -zeta only [x]; clear x)); (on_goal 2 => clear_value x))
    | (extract_lets +onlyGivenNames x; clear_value x)
    | split
    | (simp -zeta only [good_lit_iff]; refine ⟨?_, ?_, ?_, ?_, ?_, ?_, ?_, ?_⟩)

theorem beginRun_good {Q : List Instr} {a b due : Nat} {forced : Bool} {s : State} (h_s : Good Q s) :
    Good Q (beginRun a b due forced s) := by
  unfold Sys2Proof.Machine.beginRun
  repeat' first
    | with_reducible assumption
    | with_reducible apply useInj_good
    | with_reducible apply good_foldl
    | with_reducible exact Good.mem_ok (q := Q) (by assumption)
    | with_reducible exact Good.regs_ok (q := Q) (by assumption)
    | with_reducible exact Good.ecc_ok (q := Q) (by assumption)
    | with_reducible exact Good.win_ok (q := Q) (by assumption)
    | with_reducible exact Good.cores_wf (q := Q) (by assumption)
    | with_reducible exact Good.cores_ok (q := Q) (by assumption)
    | with_reducible exact Good.stores_ok (q := Q) (by assumption)
    | with_reducible exact Good.pending (q := Q) (by assumption)
    | intro x hx
    | (extract_lets +onlyGivenNames x; refine cut_of (p := Good Q x) ?_ fun hx => ?_; (on_goal 1 => (dsimp -zeta only [x]; clear x)); (on_goal 2 => clear_value x))
    | (extract_lets +onlyGivenNames x; clear_value x)
    | split
    | (simp -zeta only [good_lit_iff]; refine ⟨?_, ?_, ?_, ?_, ?_, ?_, ?_, ?_⟩)

theorem execRehearsalStart_good {Q : List Instr} {c : CoreId} {s : State} (h_s : Good Q s) :
    GoodOut Q (execRehearsalStart c s) := by
  unfold Sys2Proof.Machine.execRehearsalStart
  repeat' first
    | with_reducible assumption
    | with_reducible apply beginRun_good
    | with_reducible apply goodOut_next
    | split

theorem holdForced_good {Q : List Instr} {n : Nat} {s : State} (h_s : Good Q s) :
    Good Q (holdForced n s) := by
  unfold Sys2Proof.Machine.holdForced
  repeat' first
    | with_reducible assumption
    | with_reducible apply updCore_good
    | with_reducible exact coreOk_regs (by assumption)
    | with_reducible exact coreOk_shadow (by assumption) (by assumption)
    | (simp -zeta only [coreOk_lit_iff]; refine And.intro ?_ ?_)
    | intro x hx
    | split

theorem execForcedRehearsal_good {Q : List Instr} {c : CoreId} {s : State} (h_s : Good Q s) :
    GoodOut Q (execForcedRehearsal c s) := by
  unfold Sys2Proof.Machine.execForcedRehearsal
  repeat' first
    | with_reducible assumption
    | with_reducible apply setFld_good (q := Q)
    | with_reducible apply beginRun_good
    | with_reducible apply holdForced_good
    | with_reducible apply goodOut_next
    | (extract_lets +onlyGivenNames x; clear_value x)
    | split

theorem passCore_good {Q : List Instr} {n : Nat} {s : State} (h_s : Good Q s) :
    Good Q (passCore n s) := by
  unfold Sys2Proof.Machine.passCore
  repeat' first
    | with_reducible assumption
    | with_reducible apply setFld_good (q := Q)
    | (extract_lets +onlyGivenNames x; refine cut_of (p := Good Q x) ?_ fun hx => ?_; (on_goal 1 => (dsimp -zeta only [x]; clear x)); (on_goal 2 => clear_value x))
    | split

theorem passPair_good {Q : List Instr} {r : RhsRun} {s : State} (h_s : Good Q s) :
    Good Q (passPair r s) := by
  unfold Sys2Proof.Machine.passPair
  repeat' first
    | with_reducible assumption
    | with_reducible apply logEvent_good
    | with_reducible apply passCore_good

theorem failPair_good {Q : List Instr} {r : RhsRun} {test : Nat} {injected : Bool} {s : State} (h_s : Good Q s) :
    Good Q (failPair r test injected s) := by
  unfold Sys2Proof.Machine.failPair
  repeat' first
    | with_reducible assumption
    | with_reducible apply setFld_good (q := Q)
    | with_reducible apply raise_good

theorem settle_good {Q : List Instr} {a b : Nat} {s : State} (h_s : Good Q s) :
    Good Q (settle a b s) := by
  unfold Sys2Proof.Machine.settle
  repeat' first
    | with_reducible assumption
    | with_reducible apply setFld_good (q := Q)
    | with_reducible apply powerGo_good
    | with_reducible exact Good.mem_ok (q := Q) (by assumption)
    | with_reducible exact Good.regs_ok (q := Q) (by assumption)
    | with_reducible exact Good.ecc_ok (q := Q) (by assumption)
    | with_reducible exact Good.win_ok (q := Q) (by assumption)
    | with_reducible exact Good.cores_wf (q := Q) (by assumption)
    | with_reducible exact Good.cores_ok (q := Q) (by assumption)
    | with_reducible exact Good.stores_ok (q := Q) (by assumption)
    | with_reducible exact Good.pending (q := Q) (by assumption)
    | (extract_lets +onlyGivenNames x; refine cut_of (p := Good Q x) ?_ fun hx => ?_; (on_goal 1 => (dsimp -zeta only [x]; clear x)); (on_goal 2 => clear_value x))
    | (extract_lets +onlyGivenNames x; clear_value x)
    | split
    | (simp -zeta only [good_lit_iff]; refine ⟨?_, ?_, ?_, ?_, ?_, ?_, ?_, ?_⟩)

theorem execRehearsalEnd_good {Q : List Instr} {c : CoreId} {found : RhsReport} {s : State} (h_s : Good Q s) :
    GoodOut Q (execRehearsalEnd c found s) := by
  unfold Sys2Proof.Machine.execRehearsalEnd
  repeat' first
    | with_reducible assumption
    | with_reducible apply advanceTo_good
    | with_reducible apply passPair_good
    | with_reducible apply failPair_good
    | with_reducible apply settle_good
    | with_reducible apply goodOut_next
    | with_reducible exact Good.mem_ok (q := Q) (by assumption)
    | with_reducible exact Good.regs_ok (q := Q) (by assumption)
    | with_reducible exact Good.ecc_ok (q := Q) (by assumption)
    | with_reducible exact Good.win_ok (q := Q) (by assumption)
    | with_reducible exact Good.cores_wf (q := Q) (by assumption)
    | with_reducible exact Good.cores_ok (q := Q) (by assumption)
    | with_reducible exact Good.stores_ok (q := Q) (by assumption)
    | with_reducible exact Good.pending (q := Q) (by assumption)
    | (extract_lets +onlyGivenNames x; refine cut_of (p := Good Q x) ?_ fun hx => ?_; (on_goal 1 => (dsimp -zeta only [x]; clear x)); (on_goal 2 => clear_value x))
    | (extract_lets +onlyGivenNames x; clear_value x)
    | split
    | (simp -zeta only [good_lit_iff]; refine ⟨?_, ?_, ?_, ?_, ?_, ?_, ?_, ?_⟩)

end Sys2Proof.Laws
end

