-- ==== Sys2Proof/Laws/GoodSpeculation.lean ====
section
/-! SUPPORT. What each definition of Machine/Speculation.lean keeps: the queue and the canonical form of every store. -/

namespace Sys2Proof.Laws

open Sys2Proof.Machine Sys2Proof.Safety

theorem recordNotice_good {Q : List Instr} {o : CoreId} {dev core region outcome : Nat} {counts : List (Nat × Nat)} {s : State} (h_s : Good Q s) :
    Good Q (recordNotice o dev core region outcome counts s) := by
  unfold Sys2Proof.Machine.recordNotice
  repeat' first
    | with_reducible assumption
    | with_reducible apply touchSource_good
    | with_reducible apply updCore_good

theorem sendNotice_good {Q : List Instr} {c : CoreId} {region outcome : Nat} {sent : List SentRec} {r : SentRec} {s : State} (h_s : Good Q s) :
    Good Q (sendNotice c region outcome sent r s) := by
  unfold Sys2Proof.Machine.sendNotice
  repeat' first
    | with_reducible assumption
    | with_reducible apply routeIllegal_good
    | with_reducible apply launch_good
    | with_reducible apply recordNotice_good
    | (extract_lets +onlyGivenNames x; clear_value x)
    | split

theorem sendNotices_good {Q : List Instr} {c : CoreId} {r : Region} {outcome : Nat} {s : State} (h_r : FilesOk r.shadow) (h_s : Good Q s) :
    Good Q (sendNotices c r outcome s) := by
  unfold Sys2Proof.Machine.sendNotices
  repeat' first
    | with_reducible assumption
    | with_reducible apply sendNotice_good
    | with_reducible apply good_foldl
    | intro x hx

theorem unwrite_good {Q : List Instr} {o : CoreId} {mark : Pend → Bool} {s : State} (h_s : Good Q s) :
    Good Q (unwrite o mark s) := by
  unfold Sys2Proof.Machine.unwrite
  repeat' first
    | with_reducible assumption
    | with_reducible apply write_good (q := Q)
    | with_reducible apply updCore_good
    | with_reducible apply good_foldl
    | with_reducible exact coreOk_regs (by assumption)
    | with_reducible exact coreOk_shadow (by assumption) (by assumption)
    | (simp -zeta only [coreOk_lit_iff]; refine And.intro ?_ ?_)
    | intro x hx

theorem ordinary_good {Q : List Instr} {o : CoreId} {mark : Pend → Bool} {s : State} (h_s : Good Q s) :
    Good Q (ordinary o mark s) := by
  unfold Sys2Proof.Machine.ordinary
  repeat' first
    | with_reducible assumption
    | with_reducible apply updCore_good
    | with_reducible exact coreOk_regs (by assumption)
    | with_reducible exact coreOk_shadow (by assumption) (by assumption)
    | (simp -zeta only [coreOk_lit_iff]; refine And.intro ?_ ?_)
    | intro x hx

theorem squashCore_good {r : Region} {k : Core} (h_r : FilesOk r.shadow) (h_k : CoreOk k) :
    CoreOk (squashCore r k) := by
  unfold Sys2Proof.Machine.squashCore
  repeat' first
    | with_reducible assumption
    | cases ‹none = some _›
    | (simp -zeta only [coreOk_lit_iff]; refine And.intro ?_ ?_)
    | intro x hx
    | (extract_lets +onlyGivenNames x; clear_value x)

theorem squash_good {Q : List Instr} {c : CoreId} {outcome : Nat} {s : State} (h : Good Q s) : Good Q (squash c outcome s) := by
  unfold squash
  split
  · exact h
  · next r heq =>
    have hr : FilesOk r.shadow := coreOk_shadow (core_ok h) heq
    exact sendNotices_good hr (addSat_good (unwrite_good (updCore_good (fun k hk => squashCore_good hr hk) h)))

theorem confirmRegion_good {Q : List Instr} {c : CoreId} {r : Region} {s : State} (h_r : FilesOk r.shadow) (h_s : Good Q s) :
    Good Q (confirmRegion c r s) := by
  unfold Sys2Proof.Machine.confirmRegion
  repeat' first
    | with_reducible assumption
    | with_reducible apply addSat_good (q := Q)
    | with_reducible apply sendNotices_good
    | with_reducible apply ordinary_good
    | with_reducible apply updCore_good
    | with_reducible apply wf_foldl
    | with_reducible exact coreOk_regs (by assumption)
    | cases ‹none = some _›
    | (simp -zeta only [coreOk_lit_iff]; refine And.intro ?_ ?_)
    | with_reducible refine Good.mem_ok (q := Q) ?_
    | with_reducible refine Good.regs_ok (q := Q) ?_
    | with_reducible refine Good.ecc_ok (q := Q) ?_
    | with_reducible refine Good.win_ok (q := Q) ?_
    | with_reducible refine Good.cores_wf (q := Q) ?_
    | with_reducible refine Good.cores_ok (q := Q) ?_
    | with_reducible refine Good.pending (q := Q) ?_
    | intro x hx
    | intro x
    | (extract_lets +onlyGivenNames x; clear_value x)
    | (simp -zeta only [good_lit_iff]; refine ⟨?_, ?_, ?_, ?_, ?_, ?_, ?_, ?_⟩)
    | with_reducible refine StoresOk.links (Good.stores_ok (q := Q) ?_)
    | with_reducible refine StoresOk.used (Good.stores_ok (q := Q) ?_)
    | with_reducible refine StoresOk.red (Good.stores_ok (q := Q) ?_)
    | with_reducible refine StoresOk.wit (Good.stores_ok (q := Q) ?_)
    | with_reducible refine StoresOk.frostX (Good.stores_ok (q := Q) ?_)
    | with_reducible refine StoresOk.wlt (Good.stores_ok (q := Q) ?_)
    | with_reducible refine StoresOk.subkeys (Good.stores_ok (q := Q) ?_)
    | with_reducible apply SMap.wf_put
    | with_reducible apply storesOk_mk

theorem execConfirm_good {Q : List Instr} {c : CoreId} {gd : BitVec 6} {s : State} (h_s : Good Q s) :
    GoodOut Q (execConfirm c gd s) := by
  unfold Sys2Proof.Machine.execConfirm
  repeat' first
    | with_reducible assumption
    | with_reducible apply runUnit_good
    | with_reducible apply goodOut_next
    | with_reducible apply goodOpt_some
    | with_reducible apply updCore_good
    | with_reducible exact coreOk_regs (by assumption)
    | with_reducible exact coreOk_shadow (by assumption) (by assumption)
    | (simp -zeta only [coreOk_lit_iff]; refine And.intro ?_ ?_)
    | intro x hx
    | intro x
    | split

theorem execConfirmOutcome_good {Q : List Instr} {c : CoreId} {s : State} (h : Good Q s) :
    GoodOut Q (execConfirmOutcome c s) := by
  unfold execConfirmOutcome
  refine goodOut_next ?_
  split
  · split
    · next e gd r h1 heq =>
      have hr : FilesOk r.shadow := coreOk_shadow (core_ok h) heq
      split
      · extract_lets s0 o s1 s2
        have h0 : Good Q s0 := advanceTo_good h
        have h1 : Good Q s1 := by
          dsimp -zeta only [s1]
          split
          · exact confirmRegion_good hr h0
          · exact squash_good h0
        have h2 : Good Q s2 := by
          dsimp -zeta only [s2]
          clear_value s1
          split
          · exact repotEvent_good (addSat_good h1)
          · exact h1
        exact updCore_good (fun k hk => ⟨setG_ok hk.1, hk.2⟩) h2
      · exact h
    · exact h
  · exact h

theorem execSquash_good {Q : List Instr} {c : CoreId} {s : State} (h_s : Good Q s) :
    GoodOut Q (execSquash c s) := by
  unfold Sys2Proof.Machine.execSquash
  repeat' first
    | with_reducible assumption
    | with_reducible apply runUnit_good
    | with_reducible apply squash_good
    | with_reducible apply goodOut_next
    | with_reducible apply goodOpt_some
    | intro x hx
    | intro x

theorem execAdmit_good {Q : List Instr} {c : CoreId} {gd : BitVec 6} {x : BitVec 12} {s : State} (h_s : Good Q s) :
    GoodOut Q (execAdmit c gd x s) := by
  unfold Sys2Proof.Machine.execAdmit
  repeat' first
    | with_reducible assumption
    | with_reducible apply runUnit_good
    | with_reducible apply guardXfer_good
    | with_reducible apply goodOpt_some
    | with_reducible apply updCore_good
    | with_reducible exact coreOk_regs (by assumption)
    | with_reducible exact coreOk_shadow (by assumption) (by assumption)
    | (simp -zeta only [coreOk_lit_iff]; refine And.intro ?_ ?_)
    | intro x hx
    | intro x

theorem execAdmitComplete_good {Q : List Instr} {c : CoreId} {s : State} (h_s : Good Q s) :
    GoodOut Q (execAdmitComplete c s) := by
  unfold Sys2Proof.Machine.execAdmitComplete
  repeat' first
    | with_reducible assumption
    | with_reducible apply Core_writeRegs_good
    | with_reducible apply unwrite_good
    | with_reducible apply ordinary_good
    | with_reducible apply goodOut_next
    | with_reducible apply updCore_good
    | with_reducible apply setG_ok
    | with_reducible exact coreOk_regs (by assumption)
    | with_reducible exact coreOk_shadow (by assumption) (by assumption)
    | (simp -zeta only [coreOk_lit_iff]; refine And.intro ?_ ?_)
    | intro x hx
    | (extract_lets +onlyGivenNames x; refine cut_of (p := CoreOk x) ?_ fun hx => ?_; (on_goal 1 => (dsimp -zeta only [x]; clear x)); (on_goal 2 => clear_value x))
    | (extract_lets +onlyGivenNames x; clear_value x)
    | split

theorem execNotice_good {Q : List Instr} {k : LinkId} {p : CtrlPkt} {s : State} (h_s : Good Q s) :
    GoodOut Q (execNotice k p s) := by
  unfold Sys2Proof.Machine.execNotice
  repeat' first
    | with_reducible assumption
    | with_reducible apply handle_good
    | with_reducible apply recordNotice_good
    | with_reducible apply goodOut_next
    | with_reducible apply goodOpt_some
    | intro x hx
    | (extract_lets +onlyGivenNames x; clear_value x)
    | split

end Sys2Proof.Laws
end

