-- ==== Sys2Proof/Laws/GoodCue.lean ====
section
/-! SUPPORT. What each definition of Machine/Cue.lean keeps: the queue and the canonical form of every store. -/

namespace Sys2Proof.Laws

open Sys2Proof.Machine Sys2Proof.Safety

theorem noteOverrun_good {Q : List Instr} {n : Nat} {s : State} (h_s : Good Q s) :
    Good Q (noteOverrun n s) := by
  unfold Sys2Proof.Machine.noteOverrun
  repeat' first
    | with_reducible apply setFld_good (q := Q)
    | with_reducible apply raise_good
    | with_reducible exact Good.mem_ok (q := Q) (by assumption)
    | with_reducible exact Good.regs_ok (q := Q) (by assumption)
    | with_reducible exact Good.ecc_ok (q := Q) (by assumption)
    | with_reducible exact Good.win_ok (q := Q) (by assumption)
    | with_reducible exact Good.cores_wf (q := Q) (by assumption)
    | with_reducible exact Good.cores_ok (q := Q) (by assumption)
    | with_reducible exact Good.stores_ok (q := Q) (by assumption)
    | with_reducible exact Good.pending (q := Q) (by assumption)
    | (extract_lets +onlyGivenNames x; clear_value x)
    | (simp -zeta only [good_lit_iff]; refine ⟨?_, ?_, ?_, ?_, ?_, ?_, ?_, ?_⟩)

theorem sceneStats_good {Q : List Instr} {s : State} (h_s : Good Q s) :
    Good Q (sceneStats s) := by
  unfold Sys2Proof.Machine.sceneStats
  repeat' first
    | with_reducible assumption
    | with_reducible apply setFld_good (q := Q)
    | (extract_lets +onlyGivenNames x; clear_value x)
    | split

theorem fenceStats_good {Q : List Instr} {s : State} (h_s : Good Q s) :
    Good Q (fenceStats s) := by
  unfold Sys2Proof.Machine.fenceStats
  repeat' first
    | with_reducible assumption
    | with_reducible apply setFld_good (q := Q)
    | with_reducible apply good_foldl
    | intro x hx

theorem abandonRegion_good {Q : List Instr} {s : State} {c : CoreId} (h_s : Good Q s) :
    Good Q (abandonRegion s c) := by
  unfold Sys2Proof.Machine.abandonRegion
  repeat' first
    | with_reducible assumption
    | with_reducible apply setFld_good (q := Q)
    | with_reducible apply logEvent_good
    | with_reducible apply squash_good
    | split

theorem dropSources_good {Q : List Instr} {s : State} {c : CoreId} (h_s : Good Q s) :
    Good Q (dropSources s c) := by
  unfold Sys2Proof.Machine.dropSources
  repeat' first
    | with_reducible assumption
    | with_reducible apply unwrite_good
    | with_reducible apply updCore_good
    | with_reducible apply core_ok (q := Q)
    | with_reducible exact coreOk_regs (by assumption)
    | with_reducible exact coreOk_shadow (by assumption) (by assumption)
    | (simp -zeta only [coreOk_lit_iff]; refine And.intro ?_ ?_)
    | intro x hx
    | (extract_lets +onlyGivenNames x; refine cut_of (p := CoreOk x) ?_ fun hx => ?_; (on_goal 1 => (dsimp -zeta only [x]; clear x)); (on_goal 2 => clear_value x))
    | split

theorem endFrame_good {Q : List Instr} {s : State} {c : CoreId} (h_s : Good Q s) :
    Good Q (endFrame s c) := by
  unfold Sys2Proof.Machine.endFrame
  repeat' first
    | with_reducible assumption
    | with_reducible apply setFld_good (q := Q)
    | with_reducible apply logEvent_good
    | with_reducible apply updCore_good
    | with_reducible apply core_ok (q := Q)
    | with_reducible exact coreOk_regs (by assumption)
    | with_reducible exact coreOk_shadow (by assumption) (by assumption)
    | (simp -zeta only [coreOk_lit_iff]; refine And.intro ?_ ?_)
    | intro x hx
    | (extract_lets +onlyGivenNames x; refine cut_of (p := Good Q x) ?_ fun hx => ?_; (on_goal 1 => (dsimp -zeta only [x]; clear x)); (on_goal 2 => clear_value x))
    | (extract_lets +onlyGivenNames x; refine cut_of (p := CoreOk x) ?_ fun hx => ?_; (on_goal 1 => (dsimp -zeta only [x]; clear x)); (on_goal 2 => clear_value x))
    | (extract_lets +onlyGivenNames x; clear_value x)
    | split

theorem endScene_good {Q : List Instr} {s : State} (h_s : Good Q s) :
    Good Q (endScene s) := by
  unfold Sys2Proof.Machine.endScene
  repeat' first
    | with_reducible assumption
    | with_reducible apply setFld_good (q := Q)
    | with_reducible apply latchSnap_good
    | with_reducible apply wiltUpdate_good
    | with_reducible apply applyPosadd_good
    | with_reducible apply applyCmds_good
    | with_reducible apply endFrame_good
    | with_reducible apply good_foldl
    | with_reducible exact Good.mem_ok (q := Q) (by assumption)
    | with_reducible exact Good.regs_ok (q := Q) (by assumption)
    | with_reducible exact Good.ecc_ok (q := Q) (by assumption)
    | with_reducible exact Good.win_ok (q := Q) (by assumption)
    | with_reducible exact Good.cores_wf (q := Q) (by assumption)
    | with_reducible exact Good.cores_ok (q := Q) (by assumption)
    | with_reducible exact Good.stores_ok (q := Q) (by assumption)
    | with_reducible exact Good.pending (q := Q) (by assumption)
    | (extract_lets +onlyGivenNames x; refine cut_of (p := Good Q x) ?_ fun hx => ?_; (on_goal 1 => (dsimp -zeta only [x]; clear x)); (on_goal 2 => clear_value x))
    | (extract_lets +onlyGivenNames x; clear_value x)
    | split
    | (simp -zeta only [good_lit_iff]; refine ⟨?_, ?_, ?_, ?_, ?_, ?_, ?_, ?_⟩)

theorem cutTile_good {Q : List Instr} {c : CoreId} {s : State} {t : Tile} (h_s : Good Q s) :
    Good Q (cutTile c s t) := by
  unfold Sys2Proof.Machine.cutTile
  repeat' first
    | with_reducible assumption
    | with_reducible apply write_good (q := Q)
    | with_reducible apply drawBytes_good
    | with_reducible apply Core_updTile_good
    | with_reducible apply updCore_good
    | with_reducible apply good_foldl
    | intro x hx
    | intro x

theorem cutReplays_good {Q : List Instr} {s : State} {c : CoreId} (h_s : Good Q s) :
    Good Q (cutReplays s c) := by
  unfold Sys2Proof.Machine.cutReplays
  repeat' first
    | with_reducible assumption
    | with_reducible apply cutTile_good
    | with_reducible apply updCore_good
    | with_reducible apply good_foldl
    | with_reducible exact coreOk_regs (by assumption)
    | with_reducible exact coreOk_shadow (by assumption) (by assumption)
    | (simp -zeta only [coreOk_lit_iff]; refine And.intro ?_ ?_)
    | intro x hx
    | (extract_lets +onlyGivenNames x; clear_value x)
    | split

theorem Core_rebase_good {n : Nat} {k : Core} (h_k : CoreOk k) :
    CoreOk (Sys2Proof.Machine.Core.rebase n k) := by
  unfold Sys2Proof.Machine.Core.rebase
  repeat' first
    | with_reducible exact coreOk_regs (by assumption)
    | with_reducible exact coreOk_shadow (by assumption) (by assumption)
    | (simp -zeta only [coreOk_lit_iff]; refine And.intro ?_ ?_)
    | intro x hx
    | (extract_lets +onlyGivenNames x; clear_value x)

theorem leaveScene_good {Q : List Instr} {s : State} {c : CoreId} (h_s : Good Q s) :
    Good Q (leaveScene s c) := by
  unfold Sys2Proof.Machine.leaveScene
  repeat' first
    | with_reducible assumption
    | with_reducible apply cutReplays_good
    | with_reducible apply Core_rebase_good
    | with_reducible apply updCore_good
    | with_reducible exact coreOk_regs (by assumption)
    | with_reducible exact coreOk_shadow (by assumption) (by assumption)
    | (simp -zeta only [coreOk_lit_iff]; refine And.intro ?_ ?_)
    | intro x hx
    | (extract_lets +onlyGivenNames x; refine cut_of (p := CoreOk x) ?_ fun hx => ?_; (on_goal 1 => (dsimp -zeta only [x]; clear x)); (on_goal 2 => clear_value x))
    | split

theorem applyShadows_good {Q : List Instr} {n scene : Nat} {s : State} (h_s : Good Q s) :
    Good Q (applyShadows n scene s) := by
  unfold Sys2Proof.Machine.applyShadows
  repeat' first
    | with_reducible assumption
    | with_reducible apply setFld_good (q := Q)
    | with_reducible apply twinEdge_good
    | with_reducible apply applyScope_good
    | with_reducible apply stepAtCue_good
    | with_reducible apply applyQ_good
    | with_reducible apply applyT_good
    | split

theorem coldRecords_good {Q : List Instr} {s : State} (h_s : Good Q s) :
    Good Q (coldRecords s) := by
  unfold Sys2Proof.Machine.coldRecords
  repeat' first
    | with_reducible assumption
    | with_reducible apply logEvent_good
    | with_reducible apply drawWord_good
    | with_reducible apply State_store_good
    | with_reducible apply good_foldl
    | with_reducible exact Good.mem_ok (q := Q) (by assumption)
    | with_reducible exact Good.regs_ok (q := Q) (by assumption)
    | with_reducible exact Good.ecc_ok (q := Q) (by assumption)
    | with_reducible exact Good.win_ok (q := Q) (by assumption)
    | with_reducible exact Good.cores_wf (q := Q) (by assumption)
    | with_reducible exact Good.cores_ok (q := Q) (by assumption)
    | with_reducible exact Good.stores_ok (q := Q) (by assumption)
    | with_reducible exact Good.pending (q := Q) (by assumption)
    | intro x hx
    | (extract_lets +onlyGivenNames x; refine cut_of (p := Good Q x) ?_ fun hx => ?_; (on_goal 1 => (dsimp -zeta only [x]; clear x)); (on_goal 2 => clear_value x))
    | (extract_lets +onlyGivenNames x; clear_value x)
    | split
    | (simp -zeta only [good_lit_iff]; refine ⟨?_, ?_, ?_, ?_, ?_, ?_, ?_, ?_⟩)

theorem startCore_good {Q : List Instr} {pos : Nat} {s : State} {c : CoreId} (h_s : Good Q s) :
    Good Q (startCore pos s c) := by
  unfold Sys2Proof.Machine.startCore
  repeat' first
    | with_reducible assumption
    | with_reducible apply setCore_good
    | with_reducible apply core_ok (q := Q)
    | with_reducible exact coreOk_regs (by assumption)
    | with_reducible exact coreOk_shadow (by assumption) (by assumption)
    | (simp -zeta only [coreOk_lit_iff]; refine And.intro ?_ ?_)
    | intro x hx
    | (extract_lets +onlyGivenNames x; refine cut_of (p := CoreOk x) ?_ fun hx => ?_; (on_goal 1 => (dsimp -zeta only [x]; clear x)); (on_goal 2 => clear_value x))
    | (extract_lets +onlyGivenNames x; clear_value x)
    | split

theorem startScene_good {Q : List Instr} {s : State} (h_s : Good Q s) :
    Good Q (startScene s) := by
  unfold Sys2Proof.Machine.startScene
  repeat' first
    | with_reducible assumption
    | with_reducible apply coldRecords_good
    | with_reducible apply startCore_good
    | with_reducible apply good_foldl
    | with_reducible exact Good.mem_ok (q := Q) (by assumption)
    | with_reducible exact Good.regs_ok (q := Q) (by assumption)
    | with_reducible exact Good.ecc_ok (q := Q) (by assumption)
    | with_reducible exact Good.win_ok (q := Q) (by assumption)
    | with_reducible exact Good.cores_wf (q := Q) (by assumption)
    | with_reducible exact Good.cores_ok (q := Q) (by assumption)
    | with_reducible exact Good.stores_ok (q := Q) (by assumption)
    | with_reducible exact Good.pending (q := Q) (by assumption)
    | (extract_lets +onlyGivenNames x; refine cut_of (p := Good Q x) ?_ fun hx => ?_; (on_goal 1 => (dsimp -zeta only [x]; clear x)); (on_goal 2 => clear_value x))
    | (extract_lets +onlyGivenNames x; clear_value x)
    | (simp -zeta only [good_lit_iff]; refine ⟨?_, ?_, ?_, ?_, ?_, ?_, ?_, ?_⟩)

theorem tickEnds_good {Q : List Instr} {s : State} (h_s : Good Q s) :
    Good Q (tickEnds s) := by
  unfold Sys2Proof.Machine.tickEnds
  repeat' first
    | with_reducible assumption
    | with_reducible apply twinTick_good
    | with_reducible apply sendMsix_good
    | with_reducible apply scan_good
    | with_reducible apply good_foldl
    | with_reducible exact Good.mem_ok (q := Q) (by assumption)
    | with_reducible exact Good.regs_ok (q := Q) (by assumption)
    | with_reducible exact Good.ecc_ok (q := Q) (by assumption)
    | with_reducible exact Good.win_ok (q := Q) (by assumption)
    | with_reducible exact Good.cores_wf (q := Q) (by assumption)
    | with_reducible exact Good.cores_ok (q := Q) (by assumption)
    | with_reducible exact Good.stores_ok (q := Q) (by assumption)
    | with_reducible exact Good.pending (q := Q) (by assumption)
    | intro x hx
    | (extract_lets +onlyGivenNames x; refine cut_of (p := Good Q x) ?_ fun hx => ?_; (on_goal 1 => (dsimp -zeta only [x]; clear x)); (on_goal 2 => clear_value x))
    | (extract_lets +onlyGivenNames x; clear_value x)
    | split
    | (simp -zeta only [good_lit_iff]; refine ⟨?_, ?_, ?_, ?_, ?_, ?_, ?_, ?_⟩)

theorem endPinTest_good {Q : List Instr} {s : State} (h_s : Good Q s) :
    Good Q (endPinTest s) := by
  unfold Sys2Proof.Machine.endPinTest
  repeat' first
    | with_reducible assumption
    | with_reducible apply pairClear_good
    | split

theorem placeNext_good {Q : List Instr} {t len scene : Nat} {s : State} (h_s : Good Q s) :
    Good Q (placeNext t len scene s) := by
  unfold Sys2Proof.Machine.placeNext
  repeat' first
    | with_reducible assumption
    | with_reducible exact Good.mem_ok (q := Q) (by assumption)
    | with_reducible exact Good.regs_ok (q := Q) (by assumption)
    | with_reducible exact Good.ecc_ok (q := Q) (by assumption)
    | with_reducible exact Good.win_ok (q := Q) (by assumption)
    | with_reducible exact Good.cores_wf (q := Q) (by assumption)
    | with_reducible exact Good.cores_ok (q := Q) (by assumption)
    | with_reducible exact Good.stores_ok (q := Q) (by assumption)
    | with_reducible exact Good.pending (q := Q) (by assumption)
    | (extract_lets +onlyGivenNames x; clear_value x)
    | split
    | (simp -zeta only [good_lit_iff]; refine ⟨?_, ?_, ?_, ?_, ?_, ?_, ?_, ?_⟩)

theorem cueSettled_good {Q : List Instr} {s : State} (h_s : Good Q s) :
    Good Q (cueSettled s) := by
  unfold Sys2Proof.Machine.cueSettled
  repeat' first
    | with_reducible assumption
    | with_reducible apply leftovers_good
    | with_reducible apply resetReducers_good
    | with_reducible apply endPinTest_good

theorem cueCloses_good {Q : List Instr} {who : Option Nat} {s : State} (h_s : Good Q s) :
    Good Q (cueCloses who s) := by
  unfold Sys2Proof.Machine.cueCloses
  repeat' first
    | with_reducible assumption
    | with_reducible apply noteOverrun_good
    | with_reducible apply sceneStats_good
    | with_reducible apply fenceStats_good
    | with_reducible apply abandonRegion_good
    | with_reducible apply dropSources_good
    | with_reducible apply endScene_good
    | with_reducible apply leaveScene_good
    | with_reducible apply good_foldl
    | split

theorem cueMarks_good {Q : List Instr} {lost seqBad lenOk : Bool} {s : State} (h_s : Good Q s) :
    Good Q (cueMarks lost seqBad lenOk s) := by
  unfold Sys2Proof.Machine.cueMarks
  repeat' first
    | with_reducible assumption
    | with_reducible apply setFld_good (q := Q)
    | with_reducible apply raise_good
    | split

theorem cueSendsHalt_good {Q : List Instr} {send : Bool} {who lost seqBad : Bool} {s : State} (h_s : Good Q s) :
    Good Q (cueSendsHalt send who lost seqBad s) := by
  unfold Sys2Proof.Machine.cueSendsHalt
  repeat' first
    | with_reducible assumption
    | with_reducible apply sendHalt_good
    | split

theorem cueHalts_good {Q : List Instr} {halted : Bool} {s : State} (h_s : Good Q s) :
    Good Q (cueHalts halted s) := by
  unfold Sys2Proof.Machine.cueHalts
  repeat' first
    | with_reducible assumption
    | with_reducible apply setFld_good (q := Q)
    | with_reducible apply postNotice_good
    | (extract_lets +onlyGivenNames x; refine cut_of (p := Good Q x) ?_ fun hx => ?_; (on_goal 1 => (dsimp -zeta only [x]; clear x)); (on_goal 2 => clear_value x))
    | (extract_lets +onlyGivenNames x; clear_value x)
    | split

theorem cueHealth_good {Q : List Instr} {s : State} (h_s : Good Q s) :
    Good Q (cueHealth s) := by
  unfold Sys2Proof.Machine.cueHealth
  repeat' first
    | with_reducible assumption
    | with_reducible apply measurePower_good
    | with_reducible apply frostUpdate_good
    | split

theorem cueOpens_good {Q : List Instr} {scene : Nat} {s : State} (h_s : Good Q s) :
    Good Q (cueOpens scene s) := by
  unfold Sys2Proof.Machine.cueOpens
  repeat' first
    | with_reducible exact Good.mem_ok (q := Q) (by assumption)
    | with_reducible exact Good.regs_ok (q := Q) (by assumption)
    | with_reducible exact Good.ecc_ok (q := Q) (by assumption)
    | with_reducible exact Good.win_ok (q := Q) (by assumption)
    | with_reducible exact Good.cores_wf (q := Q) (by assumption)
    | with_reducible exact Good.cores_ok (q := Q) (by assumption)
    | with_reducible exact Good.stores_ok (q := Q) (by assumption)
    | with_reducible exact Good.pending (q := Q) (by assumption)
    | (extract_lets +onlyGivenNames x; clear_value x)
    | (simp -zeta only [good_lit_iff]; refine ⟨?_, ?_, ?_, ?_, ?_, ?_, ?_, ?_⟩)

theorem cueSteps_good {Q : List Instr} {t : Nat} {a : Announce} {hold lost : Bool} {s : State} (h_s : Good Q s) :
    Good Q (cueSteps t a hold lost s) := by
  unfold Sys2Proof.Machine.cueSteps
  repeat' first
    | with_reducible assumption
    | with_reducible apply setFld_good (q := Q)
    | with_reducible apply powerAtCue_good
    | with_reducible apply applyShadows_good
    | with_reducible apply startScene_good
    | with_reducible apply tickEnds_good
    | with_reducible apply placeNext_good
    | with_reducible apply cueSettled_good
    | with_reducible apply cueCloses_good
    | with_reducible apply cueMarks_good
    | with_reducible apply cueSendsHalt_good
    | with_reducible apply cueHalts_good
    | with_reducible apply cueHealth_good
    | with_reducible apply cueOpens_good
    | split

theorem fireCue_good {Q : List Instr} {t : Nat} {a : Announce} {hold lost : Bool} {s : State} (h_s : Good Q s) :
    Good Q (fireCue t a hold lost s) := by
  unfold Sys2Proof.Machine.fireCue
  repeat' first
    | with_reducible assumption
    | with_reducible apply advanceTo_good
    | with_reducible apply cuePulse_good
    | with_reducible apply cueSteps_good
    | with_reducible refine Good.mem_ok (q := Q) ?_
    | with_reducible refine Good.regs_ok (q := Q) ?_
    | with_reducible refine Good.ecc_ok (q := Q) ?_
    | with_reducible refine Good.win_ok (q := Q) ?_
    | with_reducible refine Good.cores_wf (q := Q) ?_
    | with_reducible refine Good.cores_ok (q := Q) ?_
    | with_reducible refine Good.stores_ok (q := Q) ?_
    | with_reducible refine Good.pending (q := Q) ?_
    | (extract_lets +onlyGivenNames x; clear_value x)
    | split
    | (simp -zeta only [good_lit_iff]; refine ⟨?_, ?_, ?_, ?_, ?_, ?_, ?_, ?_⟩)

theorem execCue_good {Q : List Instr} {s : State} (h_s : Good Q s) :
    GoodOut Q (execCue s) := by
  unfold Sys2Proof.Machine.execCue
  repeat' first
    | with_reducible assumption
    | with_reducible apply fireCue_good
    | with_reducible apply goodOut_next
    | split

theorem execCueHoldover_good {Q : List Instr} {s : State} (h_s : Good Q s) :
    GoodOut Q (execCueHoldover s) := by
  unfold Sys2Proof.Machine.execCueHoldover
  repeat' first
    | with_reducible assumption
    | with_reducible apply setFld_good (q := Q)
    | with_reducible apply fireCue_good
    | with_reducible apply goodOut_next
    | (extract_lets +onlyGivenNames x; refine cut_of (p := Good Q x) ?_ fun hx => ?_; (on_goal 1 => (dsimp -zeta only [x]; clear x)); (on_goal 2 => clear_value x))
    | (extract_lets +onlyGivenNames x; clear_value x)
    | split

theorem execIdleTick_good {Q : List Instr} {s : State} (h_s : Good Q s) :
    GoodOut Q (execIdleTick s) := by
  unfold Sys2Proof.Machine.execIdleTick
  repeat' first
    | with_reducible assumption
    | with_reducible apply advanceTo_good
    | with_reducible apply powerAtCue_good
    | with_reducible apply applyPosadd_good
    | with_reducible apply applyCmds_good
    | with_reducible apply applyShadows_good
    | with_reducible apply tickEnds_good
    | with_reducible apply goodOut_next
    | with_reducible exact Good.mem_ok (q := Q) (by assumption)
    | with_reducible exact Good.regs_ok (q := Q) (by assumption)
    | with_reducible exact Good.ecc_ok (q := Q) (by assumption)
    | with_reducible exact Good.win_ok (q := Q) (by assumption)
    | with_reducible exact Good.cores_wf (q := Q) (by assumption)
    | with_reducible exact Good.cores_ok (q := Q) (by assumption)
    | with_reducible exact Good.stores_ok (q := Q) (by assumption)
    | with_reducible exact Good.pending (q := Q) (by assumption)
    | (extract_lets +onlyGivenNames x; refine cut_of (p := Good Q x) ?_ fun hx => ?_; (on_goal 1 => (dsimp -zeta only [x]; clear x)); (on_goal 2 => clear_value x))
    | (extract_lets +onlyGivenNames x; clear_value x)
    | split
    | (simp -zeta only [good_lit_iff]; refine ⟨?_, ?_, ?_, ?_, ?_, ?_, ?_, ?_⟩)

end Sys2Proof.Laws
end

