-- ==== Sys2Proof/Laws/GoodIssue.lean ====
section
/-! SUPPORT. What each definition of Machine/Issue.lean keeps: the queue and the canonical form of every store. -/

namespace Sys2Proof.Laws

open Sys2Proof.Machine Sys2Proof.Safety

theorem stampPhase_good {Q : List Instr} {c : CoreId} {idx : Nat} {predOff : Bool} {s : State} (h_s : Good Q s) :
    Good Q (stampPhase c idx predOff s) := by
  unfold Sys2Proof.Machine.stampPhase
  repeat' first
    | with_reducible assumption
    | with_reducible apply addSat_good (q := Q)
    | with_reducible apply updCore_good
    | with_reducible apply core_ok (q := Q)
    | with_reducible exact coreOk_regs (by assumption)
    | with_reducible exact coreOk_shadow (by assumption) (by assumption)
    | (simp -zeta only [coreOk_lit_iff]; refine And.intro ?_ ?_)
    | intro x hx
    | (extract_lets +onlyGivenNames x; refine cut_of (p := CoreOk x) ?_ fun hx => ?_; (on_goal 1 => (dsimp -zeta only [x]; clear x)); (on_goal 2 => clear_value x))
    | (extract_lets +onlyGivenNames x; clear_value x)
    | split

theorem execPhase_good {Q : List Instr} {c : CoreId} {tag : BitVec 16} {s : State} (h_s : Good Q s) :
    GoodOut Q (execPhase c tag s) := by
  unfold Sys2Proof.Machine.execPhase
  repeat' first
    | with_reducible assumption
    | with_reducible apply runUnit_good
    | with_reducible apply stampPhase_good
    | with_reducible apply goodOut_next
    | with_reducible apply goodOpt_some
    | intro x hx
    | intro x

theorem execLoop_good {Q : List Instr} {c : CoreId} {n : BitVec 16} {len : BitVec 12} {s : State} (h_s : Good Q s) :
    GoodOut Q (execLoop c n len s) := by
  unfold Sys2Proof.Machine.execLoop
  repeat' first
    | with_reducible assumption
    | with_reducible apply runUnit_good
    | with_reducible apply goodOut_next
    | with_reducible apply goodOpt_some
    | with_reducible apply updCore_good
    | with_reducible exact coreOk_regs (by assumption)
    | with_reducible exact coreOk_shadow (by assumption) (by assumption)
    | (simp -zeta only [coreOk_lit_iff]; refine And.intro ?_ ?_)
    | intro x hx
    | intro x

theorem execJmp_good {Q : List Instr} {c : CoreId} {q : BitVec 3} {neg : Bool} {off : BitVec 16} {s : State} (h_s : Good Q s) :
    GoodOut Q (execJmp c q neg off s) := by
  unfold Sys2Proof.Machine.execJmp
  repeat' first
    | with_reducible assumption
    | with_reducible apply runUnit_good
    | with_reducible apply guardWf_good
    | with_reducible apply goodOpt_some
    | with_reducible apply updCore_good
    | with_reducible exact coreOk_regs (by assumption)
    | with_reducible exact coreOk_shadow (by assumption) (by assumption)
    | (simp -zeta only [coreOk_lit_iff]; refine And.intro ?_ ?_)
    | intro x hx
    | intro x
    | split

theorem execWait_good {Q : List Instr} {c : CoreId} {n : BitVec 16} {s : State} (h_s : Good Q s) :
    GoodOut Q (execWait c n s) := by
  unfold Sys2Proof.Machine.execWait
  repeat' first
    | with_reducible assumption
    | with_reducible apply runUnit_good
    | with_reducible apply goodOut_next
    | with_reducible apply goodOpt_some
    | with_reducible apply updCore_good
    | with_reducible exact coreOk_regs (by assumption)
    | with_reducible exact coreOk_shadow (by assumption) (by assumption)
    | (simp -zeta only [coreOk_lit_iff]; refine And.intro ?_ ?_)
    | intro x hx
    | intro x

theorem fetchUncorr_good {Q : List Instr} {c : CoreId} {pc : Nat} {injected : Bool} {s : State} (h_s : Good Q s) :
    Good Q (fetchUncorr c pc injected s) := by
  unfold Sys2Proof.Machine.fetchUncorr
  repeat' first
    | with_reducible assumption
    | with_reducible apply raise_good
    | with_reducible apply stopCore_good

theorem openRegion_good {k : Core} (h_k : CoreOk k) :
    CoreOk (openRegion k) := by
  unfold Sys2Proof.Machine.openRegion
  repeat' first
    | with_reducible exact coreOk_regs (by assumption)
    | cases ‹some _ = some _›
    | (simp -zeta only [coreOk_lit_iff]; refine And.intro ?_ ?_)
    | intro x hx

theorem enqueueSlots_good {pc n : Nat} {ins : List (UnitId × Instr)} {k : Core} (h_k : CoreOk k) :
    CoreOk (enqueueSlots pc n ins k) := by
  unfold Sys2Proof.Machine.enqueueSlots
  repeat' first
    | with_reducible assumption
    | with_reducible apply Core_setQueue_good
    | with_reducible apply coreOk_foldl
    | intro x hx

theorem issueStamps_good {Q : List Instr} {c : CoreId} {ins : List (UnitId × Instr)} {pass : Bool} {s : State} (h_s : Good Q s) :
    Good Q (issueStamps c ins pass s) := by
  unfold Sys2Proof.Machine.issueStamps
  repeat' first
    | with_reducible assumption
    | with_reducible apply stampPhase_good
    | split

theorem issueCore_good {hdr : Header} {pc slip now : Nat} {pass : Bool} {ins : List (UnitId × Instr)} {k : Core} (h_k : CoreOk k) :
    CoreOk (issueCore hdr pc slip now pass ins k) := by
  unfold Sys2Proof.Machine.issueCore
  repeat' first
    | with_reducible assumption
    | with_reducible apply enqueueSlots_good
    | with_reducible exact coreOk_regs (by assumption)
    | with_reducible exact coreOk_shadow (by assumption) (by assumption)
    | (simp -zeta only [coreOk_lit_iff]; refine And.intro ?_ ?_)
    | intro x hx
    | (extract_lets +onlyGivenNames x; refine cut_of (p := CoreOk x) ?_ fun hx => ?_; (on_goal 1 => (dsimp -zeta only [x]; clear x)); (on_goal 2 => clear_value x))
    | split

theorem issue_good {Q : List Instr} {c : CoreId} {b : Bundle} {ins : List (UnitId × Instr)} {s : State} (h_s : Good Q s) :
    Good Q (issue c b ins s) := by
  unfold Sys2Proof.Machine.issue
  repeat' first
    | with_reducible assumption
    | with_reducible apply openRegion_good
    | with_reducible apply issueStamps_good
    | with_reducible apply issueCore_good
    | with_reducible apply updCore_good
    | split

theorem execBundleIssue_good {Q : List Instr} {c : CoreId} {s : State} (h_s : Good Q s) :
    GoodOut Q (execBundleIssue c s) := by
  unfold Sys2Proof.Machine.execBundleIssue
  repeat' first
    | with_reducible assumption
    | with_reducible exact goodOut_fault
    | with_reducible apply sramCorr_good
    | with_reducible apply advanceTo_good
    | with_reducible apply fetchUncorr_good
    | with_reducible apply issue_good
    | with_reducible apply goodOut_next
    | with_reducible apply core_ok (q := Q)
    | (extract_lets +onlyGivenNames x; refine cut_of (p := Good Q x) ?_ fun hx => ?_; (on_goal 1 => (dsimp -zeta only [x]; clear x)); (on_goal 2 => clear_value x))
    | (extract_lets +onlyGivenNames x; refine cut_of (p := CoreOk x) ?_ fun hx => ?_; (on_goal 1 => (dsimp -zeta only [x]; clear x)); (on_goal 2 => clear_value x))
    | (extract_lets +onlyGivenNames x; clear_value x)
    | split

end Sys2Proof.Laws
end

