-- ==== Sys2Proof/Laws/GoodLoader.lean ====
section
/-! SUPPORT. What each definition of Machine/Loader.lean keeps: the queue and the canonical form of every store. -/

namespace Sys2Proof.Laws

open Sys2Proof.Machine Sys2Proof.Safety

theorem execLoadBooks_good {Q : List Instr} {s : State} (h_s : Good Q s) :
    GoodOut Q (execLoadBooks s) := by
  unfold Sys2Proof.Machine.execLoadBooks
  repeat' first
    | with_reducible assumption
    | with_reducible apply scanNext_good
    | with_reducible apply beginLong_good
    | with_reducible apply command_good
    | with_reducible apply goodOut_next
    | intro x hx
    | intro x

theorem placeBook_good {Q : List Instr} {lb : LBook} {s : State} (h_s : Good Q s) :
    Good Q (placeBook lb s) := by
  unfold Sys2Proof.Machine.placeBook
  repeat' first
    | with_reducible assumption
    | with_reducible apply State_store_good
    | with_reducible apply Core_fresh_good
    | with_reducible apply updCore_good
    | with_reducible exact coreOk_regs (by assumption)
    | with_reducible exact coreOk_shadow (by assumption) (by assumption)
    | (simp -zeta only [coreOk_lit_iff]; refine And.intro ?_ ?_)
    | intro x hx

theorem placeSet_good {Q : List Instr} {bs : List LBook} {s : State} (h_s : Good Q s) :
    Good Q (placeSet bs s) := by
  unfold Sys2Proof.Machine.placeSet
  repeat' first
    | with_reducible assumption
    | with_reducible exact SMap.wf_nil _
    | with_reducible apply setReg_good (q := Q)
    | with_reducible apply setFld_good (q := Q)
    | with_reducible apply placeBook_good
    | with_reducible apply good_foldl
    | with_reducible refine Good.mem_ok (q := Q) ?_
    | with_reducible refine Good.regs_ok (q := Q) ?_
    | with_reducible refine Good.ecc_ok (q := Q) ?_
    | with_reducible refine Good.win_ok (q := Q) ?_
    | with_reducible refine Good.cores_wf (q := Q) ?_
    | with_reducible refine Good.cores_ok (q := Q) ?_
    | with_reducible refine Good.pending (q := Q) ?_
    | intro x hx
    | (simp -zeta only [good_lit_iff]; refine ⟨?_, ?_, ?_, ?_, ?_, ?_, ?_, ?_⟩)
    | with_reducible refine StoresOk.links (Good.stores_ok (q := Q) ?_)
    | with_reducible refine StoresOk.used (Good.stores_ok (q := Q) ?_)
    | with_reducible refine StoresOk.red (Good.stores_ok (q := Q) ?_)
    | with_reducible refine StoresOk.wit (Good.stores_ok (q := Q) ?_)
    | with_reducible refine StoresOk.frostX (Good.stores_ok (q := Q) ?_)
    | with_reducible refine StoresOk.subkeys (Good.stores_ok (q := Q) ?_)
    | with_reducible apply storesOk_mk

theorem execLoadBooksDone_good {Q : List Instr} {s : State} (h_s : Good Q s) :
    GoodOut Q (execLoadBooksDone s) := by
  unfold Sys2Proof.Machine.execLoadBooksDone
  repeat' first
    | with_reducible assumption
    | with_reducible apply stackError_good
    | with_reducible apply countCorr_good
    | with_reducible apply completeLong_good
    | with_reducible apply showReject_good
    | with_reducible apply placeSet_good
    | with_reducible apply goodOut_next
    | with_reducible apply good_foldl
    | intro x hx
    | (extract_lets +onlyGivenNames x; refine cut_of (p := Good Q x) ?_ fun hx => ?_; (on_goal 1 => (dsimp -zeta only [x]; clear x)); (on_goal 2 => clear_value x))
    | (extract_lets +onlyGivenNames x; clear_value x)
    | split

end Sys2Proof.Laws
end

