-- ==== Sys2Proof/Laws/GoodScalar.lean ====
section
/-! SUPPORT. What each definition of Machine/Scalar.lean keeps: the queue and the canonical form of every store. -/

namespace Sys2Proof.Laws

open Sys2Proof.Machine Sys2Proof.Safety

theorem scalar_good {Q : List Instr} {c : CoreId} {i : Instr} {s : State} {f : Regs → Regs → Regs} (h_s : Good Q s) (h_f : ∀ r k, FilesOk k → FilesOk (f r k)) :
    Good Q (scalar c i s f) := by
  unfold Sys2Proof.Machine.scalar
  repeat' first
    | with_reducible assumption
    | with_reducible apply runUnit_good
    | with_reducible apply wr_good
    | with_reducible apply goodOpt_some
    | intro x hx
    | intro x
    | extract_lets +onlyGivenNames x
    | apply h_f

theorem execMovi_good {Q : List Instr} {c : CoreId} {gd : BitVec 6} {imm : BitVec 16} {sh : BitVec 2} {kp : Bool} {s : State} (h_s : Good Q s) :
    GoodOut Q (execMovi c gd imm sh kp s) := by
  unfold Sys2Proof.Machine.execMovi
  repeat' first
    | with_reducible assumption
    | with_reducible apply scalar_good
    | with_reducible apply goodOut_next
    | with_reducible apply setG_ok
    | intro x hx

theorem execAddi_good {Q : List Instr} {c : CoreId} {gd ga : BitVec 6} {imm : BitVec 16} {s : State} (h_s : Good Q s) :
    GoodOut Q (execAddi c gd ga imm s) := by
  unfold Sys2Proof.Machine.execAddi
  repeat' first
    | with_reducible assumption
    | with_reducible apply scalar_good
    | with_reducible apply goodOut_next
    | with_reducible apply setG_ok
    | intro x hx

theorem execAdd_good {Q : List Instr} {c : CoreId} {gd ga gb : BitVec 6} {s : State} (h_s : Good Q s) :
    GoodOut Q (execAdd c gd ga gb s) := by
  unfold Sys2Proof.Machine.execAdd
  repeat' first
    | with_reducible assumption
    | with_reducible apply scalar_good
    | with_reducible apply goodOut_next
    | with_reducible apply setG_ok
    | intro x hx

theorem execSub_good {Q : List Instr} {c : CoreId} {gd ga gb : BitVec 6} {s : State} (h_s : Good Q s) :
    GoodOut Q (execSub c gd ga gb s) := by
  unfold Sys2Proof.Machine.execSub
  repeat' first
    | with_reducible assumption
    | with_reducible apply scalar_good
    | with_reducible apply goodOut_next
    | with_reducible apply setG_ok
    | intro x hx

theorem execAnd_good {Q : List Instr} {c : CoreId} {gd ga gb : BitVec 6} {s : State} (h_s : Good Q s) :
    GoodOut Q (execAnd c gd ga gb s) := by
  unfold Sys2Proof.Machine.execAnd
  repeat' first
    | with_reducible assumption
    | with_reducible apply scalar_good
    | with_reducible apply goodOut_next
    | with_reducible apply setG_ok
    | intro x hx

theorem execOr_good {Q : List Instr} {c : CoreId} {gd ga gb : BitVec 6} {s : State} (h_s : Good Q s) :
    GoodOut Q (execOr c gd ga gb s) := by
  unfold Sys2Proof.Machine.execOr
  repeat' first
    | with_reducible assumption
    | with_reducible apply scalar_good
    | with_reducible apply goodOut_next
    | with_reducible apply setG_ok
    | intro x hx

theorem execXor_good {Q : List Instr} {c : CoreId} {gd ga gb : BitVec 6} {s : State} (h_s : Good Q s) :
    GoodOut Q (execXor c gd ga gb s) := by
  unfold Sys2Proof.Machine.execXor
  repeat' first
    | with_reducible assumption
    | with_reducible apply scalar_good
    | with_reducible apply goodOut_next
    | with_reducible apply setG_ok
    | intro x hx

theorem execShl_good {Q : List Instr} {c : CoreId} {gd ga gb : BitVec 6} {s : State} (h_s : Good Q s) :
    GoodOut Q (execShl c gd ga gb s) := by
  unfold Sys2Proof.Machine.execShl
  repeat' first
    | with_reducible assumption
    | with_reducible apply scalar_good
    | with_reducible apply goodOut_next
    | with_reducible apply setG_ok
    | intro x hx

theorem execShr_good {Q : List Instr} {c : CoreId} {gd ga gb : BitVec 6} {s : State} (h_s : Good Q s) :
    GoodOut Q (execShr c gd ga gb s) := by
  unfold Sys2Proof.Machine.execShr
  repeat' first
    | with_reducible assumption
    | with_reducible apply scalar_good
    | with_reducible apply goodOut_next
    | with_reducible apply setG_ok
    | intro x hx

theorem execSar_good {Q : List Instr} {c : CoreId} {gd ga gb : BitVec 6} {s : State} (h_s : Good Q s) :
    GoodOut Q (execSar c gd ga gb s) := by
  unfold Sys2Proof.Machine.execSar
  repeat' first
    | with_reducible assumption
    | with_reducible apply scalar_good
    | with_reducible apply goodOut_next
    | with_reducible apply setG_ok
    | intro x hx

theorem execMul_good {Q : List Instr} {c : CoreId} {gd ga gb : BitVec 6} {s : State} (h_s : Good Q s) :
    GoodOut Q (execMul c gd ga gb s) := by
  unfold Sys2Proof.Machine.execMul
  repeat' first
    | with_reducible assumption
    | with_reducible apply scalar_good
    | with_reducible apply goodOut_next
    | with_reducible apply setG_ok
    | intro x hx

theorem execCmp_good {Q : List Instr} {c : CoreId} {qd : BitVec 3} {ga gb : BitVec 6} {cc : BitVec 3} {s : State} (h_s : Good Q s) :
    GoodOut Q (execCmp c qd ga gb cc s) := by
  unfold Sys2Proof.Machine.execCmp
  repeat' first
    | with_reducible assumption
    | with_reducible apply guardWf_good
    | with_reducible apply scalar_good
    | with_reducible apply setQ_ok
    | intro x hx

theorem execPadd_good {Q : List Instr} {c : CoreId} {pd pa : BitVec 4} {gb : BitVec 6} {s : State} (h_s : Good Q s) :
    GoodOut Q (execPadd c pd pa gb s) := by
  unfold Sys2Proof.Machine.execPadd
  repeat' first
    | with_reducible assumption
    | with_reducible apply scalar_good
    | with_reducible apply goodOut_next
    | with_reducible apply setP_ok
    | intro x hx

theorem execPset_good {Q : List Instr} {c : CoreId} {pd : BitVec 4} {ga : BitVec 6} {s : State} (h_s : Good Q s) :
    GoodOut Q (execPset c pd ga s) := by
  unfold Sys2Proof.Machine.execPset
  repeat' first
    | with_reducible assumption
    | with_reducible apply scalar_good
    | with_reducible apply goodOut_next
    | with_reducible apply setP_ok
    | intro x hx

theorem execPget_good {Q : List Instr} {c : CoreId} {gd : BitVec 6} {pa : BitVec 4} {s : State} (h_s : Good Q s) :
    GoodOut Q (execPget c gd pa s) := by
  unfold Sys2Proof.Machine.execPget
  repeat' first
    | with_reducible assumption
    | with_reducible apply scalar_good
    | with_reducible apply goodOut_next
    | with_reducible apply setG_ok
    | intro x hx

theorem execTld_good {Q : List Instr} {c : CoreId} {t : BitVec 4} {idx : BitVec 10} {s : State} (h_s : Good Q s) :
    GoodOut Q (execTld c t idx s) := by
  unfold Sys2Proof.Machine.execTld
  repeat' first
    | with_reducible assumption
    | with_reducible apply runUnit_good
    | with_reducible apply wr_good
    | with_reducible apply goodOut_next
    | with_reducible apply goodOpt_some
    | with_reducible apply setT_ok
    | intro x hx
    | intro x

theorem execTadj_good {Q : List Instr} {c : CoreId} {t : BitVec 4} {fld : BitVec 3} {ga : BitVec 6} {s : State} (h_s : Good Q s) :
    GoodOut Q (execTadj c t fld ga s) := by
  unfold Sys2Proof.Machine.execTadj
  repeat' first
    | with_reducible assumption
    | with_reducible apply operandRange_good
    | with_reducible apply runUnit_good
    | with_reducible apply wr_good
    | with_reducible apply goodOut_next
    | with_reducible apply goodOpt_some
    | with_reducible apply setT_ok
    | intro x hx
    | intro x
    | split

theorem execSlot_good {Q : List Instr} {c : CoreId} {n : BitVec 6} {s : State} (h_s : Good Q s) :
    GoodOut Q (execSlot c n s) := by
  unfold Sys2Proof.Machine.execSlot
  repeat' first
    | with_reducible assumption
    | with_reducible apply scalar_good
    | with_reducible apply goodOut_next
    | intro x hx
    | intro x
    | with_reducible exact slot_ok (by assumption)

theorem execGets_good {Q : List Instr} {c : CoreId} {gd : BitVec 6} {sr : BitVec 4} {s : State} (h_s : Good Q s) :
    GoodOut Q (execGets c gd sr s) := by
  unfold Sys2Proof.Machine.execGets
  repeat' first
    | with_reducible assumption
    | with_reducible apply runUnit_good
    | with_reducible apply wr_good
    | with_reducible apply guardWf_good
    | with_reducible apply goodOpt_some
    | with_reducible apply setG_ok
    | intro x hx
    | intro x

theorem execPosadd_good {Q : List Instr} {c : CoreId} {imm : BitVec 16} {s : State} (h_s : Good Q s) :
    GoodOut Q (execPosadd c imm s) := by
  unfold Sys2Proof.Machine.execPosadd
  repeat' first
    | with_reducible assumption
    | with_reducible apply runUnit_good
    | with_reducible apply goodOut_next
    | with_reducible apply goodOpt_some
    | with_reducible apply updCore_good
    | with_reducible exact Good.mem_ok (q := Q) (by assumption)
    | with_reducible exact Good.regs_ok (q := Q) (by assumption)
    | with_reducible exact Good.ecc_ok (q := Q) (by assumption)
    | with_reducible exact Good.win_ok (q := Q) (by assumption)
    | with_reducible exact Good.cores_wf (q := Q) (by assumption)
    | with_reducible exact Good.cores_ok (q := Q) (by assumption)
    | with_reducible exact Good.stores_ok (q := Q) (by assumption)
    | with_reducible exact Good.pending (q := Q) (by assumption)
    | with_reducible exact coreOk_regs (by assumption)
    | with_reducible exact coreOk_shadow (by assumption) (by assumption)
    | with_reducible apply shadow_map
    | (simp -zeta only [coreOk_lit_iff]; refine And.intro ?_ ?_)
    | intro x hx
    | intro x
    | (extract_lets +onlyGivenNames x; clear_value x)
    | split
    | (simp -zeta only [good_lit_iff]; refine ⟨?_, ?_, ?_, ?_, ?_, ?_, ?_, ?_⟩)

end Sys2Proof.Laws
end

