-- ==== Sys2Proof/Laws/GoodTelemetry.lean ====
section
/-! SUPPORT. What each definition of Machine/Telemetry.lean keeps: the queue and the canonical form of every store. -/

namespace Sys2Proof.Laws

open Sys2Proof.Machine Sys2Proof.Safety

theorem ringStore_good {Q : List Instr} {off n : Nat} {wr : Fld} {r : List Byte} {s : State} (h_s : Good Q s) :
    Good Q (ringStore off n wr r s) := by
  unfold Sys2Proof.Machine.ringStore
  repeat' first
    | with_reducible assumption
    | with_reducible apply setFld_good (q := Q)
    | with_reducible apply State_store_good
    | with_reducible apply shareLines_good
    | with_reducible apply busUse_good
    | intro x hx

theorem storePhase_good {Q : List Instr} {c : CoreId} {s : State} (h_s : Good Q s) :
    Good Q (storePhase c s) := by
  unfold Sys2Proof.Machine.storePhase
  repeat' first
    | with_reducible assumption
    | with_reducible apply irq_good
    | with_reducible apply ringStore_good
    | with_reducible apply updCore_good
    | with_reducible exact coreOk_regs (by assumption)
    | with_reducible exact coreOk_shadow (by assumption) (by assumption)
    | (simp -zeta only [coreOk_lit_iff]; refine And.intro ?_ ?_)
    | intro x hx
    | (extract_lets +onlyGivenNames x; refine cut_of (p := Good Q x) ?_ fun hx => ?_; (on_goal 1 => (dsimp -zeta only [x]; clear x)); (on_goal 2 => clear_value x))
    | (extract_lets +onlyGivenNames x; clear_value x)
    | split

theorem storeEvent_good {Q : List Instr} {s : State} (h_s : Good Q s) :
    Good Q (storeEvent s) := by
  unfold Sys2Proof.Machine.storeEvent
  repeat' first
    | with_reducible assumption
    | with_reducible apply irq_good
    | with_reducible apply ringStore_good
    | with_reducible exact Good.mem_ok (q := Q) (by assumption)
    | with_reducible exact Good.regs_ok (q := Q) (by assumption)
    | with_reducible exact Good.ecc_ok (q := Q) (by assumption)
    | with_reducible exact Good.win_ok (q := Q) (by assumption)
    | with_reducible exact Good.cores_wf (q := Q) (by assumption)
    | with_reducible exact Good.cores_ok (q := Q) (by assumption)
    | with_reducible exact Good.stores_ok (q := Q) (by assumption)
    | with_reducible exact Good.pending (q := Q) (by assumption)
    | (extract_lets +onlyGivenNames x; clear_value x)
    | split
    | (simp -zeta only [good_lit_iff]; refine ⟨?_, ?_, ?_, ?_, ?_, ?_, ?_, ?_⟩)

theorem storeTrace_good {Q : List Instr} {s : State} (h_s : Good Q s) :
    Good Q (storeTrace s) := by
  unfold Sys2Proof.Machine.storeTrace
  repeat' first
    | with_reducible assumption
    | with_reducible apply ringStore_good
    | with_reducible exact Good.mem_ok (q := Q) (by assumption)
    | with_reducible exact Good.regs_ok (q := Q) (by assumption)
    | with_reducible exact Good.ecc_ok (q := Q) (by assumption)
    | with_reducible exact Good.win_ok (q := Q) (by assumption)
    | with_reducible exact Good.cores_wf (q := Q) (by assumption)
    | with_reducible exact Good.cores_ok (q := Q) (by assumption)
    | with_reducible exact Good.stores_ok (q := Q) (by assumption)
    | with_reducible exact Good.pending (q := Q) (by assumption)
    | (extract_lets +onlyGivenNames x; clear_value x)
    | split
    | (simp -zeta only [good_lit_iff]; refine ⟨?_, ?_, ?_, ?_, ?_, ?_, ?_, ?_⟩)

theorem execTelemetryRecordStore_good {Q : List Instr} {ring : BitVec 2} {c : CoreId} {s : State} (h_s : Good Q s) :
    GoodOut Q (execTelemetryRecordStore ring c s) := by
  unfold Sys2Proof.Machine.execTelemetryRecordStore
  repeat' first
    | with_reducible assumption
    | with_reducible apply storePhase_good
    | with_reducible apply storeEvent_good
    | with_reducible apply storeTrace_good
    | with_reducible apply goodOut_next
    | split

end Sys2Proof.Laws
end

