-- ==== Sys2Proof/Laws/GoodVectorUnit.lean ====
section
/-! SUPPORT. What each definition of Machine/VectorUnit.lean keeps: the queue and the canonical form of every store. -/

namespace Sys2Proof.Laws

open Sys2Proof.Machine Sys2Proof.Safety

theorem vecOp_good {Q : List Instr} {c : CoreId} {i : Instr} {s : State} {vd : BitVec 5} {q : BitVec 3} {f : Regs → Nat → Lane} (h_s : Good Q s) :
    Good Q (vecOp c i s vd q f) := by
  unfold Sys2Proof.Machine.vecOp
  repeat' first
    | with_reducible assumption
    | with_reducible apply runUnit_good
    | with_reducible apply wr_good
    | with_reducible apply goodOpt_some
    | with_reducible apply setV_ok
    | intro x hx
    | intro x

theorem execVadd_good {Q : List Instr} {c : CoreId} {vd va vb : BitVec 5} {q : BitVec 3} {mode : BitVec 2} {s : State} (h_s : Good Q s) :
    GoodOut Q (execVadd c vd va vb q mode s) := by
  unfold Sys2Proof.Machine.execVadd
  repeat' first
    | with_reducible assumption
    | with_reducible apply guardWf_good
    | with_reducible apply vecOp_good

theorem execVsub_good {Q : List Instr} {c : CoreId} {vd va vb : BitVec 5} {q : BitVec 3} {mode : BitVec 2} {s : State} (h_s : Good Q s) :
    GoodOut Q (execVsub c vd va vb q mode s) := by
  unfold Sys2Proof.Machine.execVsub
  repeat' first
    | with_reducible assumption
    | with_reducible apply guardWf_good
    | with_reducible apply vecOp_good

theorem execVmul_good {Q : List Instr} {c : CoreId} {vd va vb : BitVec 5} {q : BitVec 3} {mode : BitVec 2} {s : State} (h_s : Good Q s) :
    GoodOut Q (execVmul c vd va vb q mode s) := by
  unfold Sys2Proof.Machine.execVmul
  repeat' first
    | with_reducible assumption
    | with_reducible apply guardWf_good
    | with_reducible apply vecOp_good

theorem execVfma_good {Q : List Instr} {c : CoreId} {vd va vb vc : BitVec 5} {q : BitVec 3} {mode : BitVec 2} {s : State} (h_s : Good Q s) :
    GoodOut Q (execVfma c vd va vb vc q mode s) := by
  unfold Sys2Proof.Machine.execVfma
  repeat' first
    | with_reducible assumption
    | with_reducible apply guardWf_good
    | with_reducible apply vecOp_good

theorem execVmax_good {Q : List Instr} {c : CoreId} {vd va vb : BitVec 5} {q : BitVec 3} {s : State} (h_s : Good Q s) :
    GoodOut Q (execVmax c vd va vb q s) := by
  unfold Sys2Proof.Machine.execVmax
  repeat' first
    | with_reducible assumption
    | with_reducible apply vecOp_good
    | with_reducible apply goodOut_next

theorem execVmin_good {Q : List Instr} {c : CoreId} {vd va vb : BitVec 5} {q : BitVec 3} {s : State} (h_s : Good Q s) :
    GoodOut Q (execVmin c vd va vb q s) := by
  unfold Sys2Proof.Machine.execVmin
  repeat' first
    | with_reducible assumption
    | with_reducible apply vecOp_good
    | with_reducible apply goodOut_next

theorem execVabs_good {Q : List Instr} {c : CoreId} {vd va : BitVec 5} {q : BitVec 3} {s : State} (h_s : Good Q s) :
    GoodOut Q (execVabs c vd va q s) := by
  unfold Sys2Proof.Machine.execVabs
  repeat' first
    | with_reducible assumption
    | with_reducible apply vecOp_good
    | with_reducible apply goodOut_next

theorem execVneg_good {Q : List Instr} {c : CoreId} {vd va : BitVec 5} {q : BitVec 3} {s : State} (h_s : Good Q s) :
    GoodOut Q (execVneg c vd va q s) := by
  unfold Sys2Proof.Machine.execVneg
  repeat' first
    | with_reducible assumption
    | with_reducible apply vecOp_good
    | with_reducible apply goodOut_next

theorem execVexp_good {Q : List Instr} {c : CoreId} {vd va : BitVec 5} {q : BitVec 3} {mode : BitVec 2} {s : State} (h_s : Good Q s) :
    GoodOut Q (execVexp c vd va q mode s) := by
  unfold Sys2Proof.Machine.execVexp
  repeat' first
    | with_reducible assumption
    | with_reducible apply guardWf_good
    | with_reducible apply vecOp_good

theorem execVlog_good {Q : List Instr} {c : CoreId} {vd va : BitVec 5} {q : BitVec 3} {mode : BitVec 2} {s : State} (h_s : Good Q s) :
    GoodOut Q (execVlog c vd va q mode s) := by
  unfold Sys2Proof.Machine.execVlog
  repeat' first
    | with_reducible assumption
    | with_reducible apply guardWf_good
    | with_reducible apply vecOp_good

theorem execVrcp_good {Q : List Instr} {c : CoreId} {vd va : BitVec 5} {q : BitVec 3} {mode : BitVec 2} {s : State} (h_s : Good Q s) :
    GoodOut Q (execVrcp c vd va q mode s) := by
  unfold Sys2Proof.Machine.execVrcp
  repeat' first
    | with_reducible assumption
    | with_reducible apply guardWf_good
    | with_reducible apply vecOp_good

theorem execVrsq_good {Q : List Instr} {c : CoreId} {vd va : BitVec 5} {q : BitVec 3} {mode : BitVec 2} {s : State} (h_s : Good Q s) :
    GoodOut Q (execVrsq c vd va q mode s) := by
  unfold Sys2Proof.Machine.execVrsq
  repeat' first
    | with_reducible assumption
    | with_reducible apply guardWf_good
    | with_reducible apply vecOp_good

theorem execVcmp_good {Q : List Instr} {c : CoreId} {qd : BitVec 3} {va vb : BitVec 5} {cc : BitVec 3} {q : BitVec 3} {s : State} (h_s : Good Q s) :
    GoodOut Q (execVcmp c qd va vb cc q s) := by
  unfold Sys2Proof.Machine.execVcmp
  repeat' first
    | with_reducible assumption
    | with_reducible apply runUnit_good
    | with_reducible apply wr_good
    | with_reducible apply guardWf_good
    | with_reducible apply goodOpt_some
    | with_reducible apply setQ_ok
    | intro x hx
    | intro x

theorem execVsel_good {Q : List Instr} {c : CoreId} {vd va vb : BitVec 5} {q : BitVec 3} {s : State} (h_s : Good Q s) :
    GoodOut Q (execVsel c vd va vb q s) := by
  unfold Sys2Proof.Machine.execVsel
  repeat' first
    | with_reducible assumption
    | with_reducible apply runUnit_good
    | with_reducible apply wr_good
    | with_reducible apply goodOut_next
    | with_reducible apply goodOpt_some
    | with_reducible apply setV_ok
    | intro x hx
    | intro x

theorem execVsplat_good {Q : List Instr} {c : CoreId} {vd : BitVec 5} {ga : BitVec 6} {s : State} (h_s : Good Q s) :
    GoodOut Q (execVsplat c vd ga s) := by
  unfold Sys2Proof.Machine.execVsplat
  repeat' first
    | with_reducible assumption
    | with_reducible apply runUnit_good
    | with_reducible apply wr_good
    | with_reducible apply goodOut_next
    | with_reducible apply goodOpt_some
    | with_reducible apply setV_ok
    | intro x hx
    | intro x

theorem execVamax_good {Q : List Instr} {c : CoreId} {gd : BitVec 6} {va : BitVec 5} {q : BitVec 3} {s : State} (h_s : Good Q s) :
    GoodOut Q (execVamax c gd va q s) := by
  unfold Sys2Proof.Machine.execVamax
  repeat' first
    | with_reducible assumption
    | with_reducible apply runUnit_good
    | with_reducible apply wr_good
    | with_reducible apply goodOut_next
    | with_reducible apply goodOpt_some
    | with_reducible apply setG_ok
    | intro x hx
    | intro x

theorem vecStatus_good {Q : List Instr} {c : CoreId} {cs : List (Option Conv)} {s : State} (h_s : Good Q s) :
    Good Q (vecStatus c cs s) := by
  unfold Sys2Proof.Machine.vecStatus
  repeat' first
    | with_reducible assumption
    | with_reducible apply setFld_good (q := Q)
    | (extract_lets +onlyGivenNames x; refine cut_of (p := Good Q x) ?_ fun hx => ?_; (on_goal 1 => (dsimp -zeta only [x]; clear x)); (on_goal 2 => clear_value x))
    | split

theorem execVcvt_good {Q : List Instr} {c : CoreId} {vd va : BitVec 5} {fmt : BitVec 4} {mode : BitVec 2} {q : BitVec 3} {s : State} (h_s : Good Q s) :
    GoodOut Q (execVcvt c vd va fmt mode q s) := by
  unfold Sys2Proof.Machine.execVcvt
  repeat' first
    | with_reducible assumption
    | with_reducible apply runUnit_good
    | with_reducible apply wr_good
    | with_reducible apply guardWf_good
    | with_reducible apply vecStatus_good
    | with_reducible apply goodOpt_some
    | with_reducible apply setV_ok
    | intro x hx
    | intro x
    | split

theorem execVld_good {Q : List Instr} {c : CoreId} {vd : BitVec 5} {p : BitVec 4} {off : BitVec 16} {fmt : BitVec 4} {s : State} (h_s : Good Q s) :
    GoodOut Q (execVld c vd p off fmt s) := by
  unfold Sys2Proof.Machine.execVld
  repeat' first
    | with_reducible assumption
    | with_reducible apply runUnit_good
    | with_reducible apply wr_good
    | with_reducible apply Reads_bind_good
    | with_reducible apply readScr_good
    | with_reducible apply guardWf_good
    | with_reducible apply goodOpt_some
    | with_reducible apply setV_ok
    | intro x hx
    | intro x
    | (extract_lets +onlyGivenNames x; clear_value x)
    | split

theorem execVst_good {Q : List Instr} {c : CoreId} {va : BitVec 5} {p : BitVec 4} {off : BitVec 16} {fmt : BitVec 4} {mode : BitVec 2} {q : BitVec 3} {s : State} (h_s : Good Q s) :
    GoodOut Q (execVst c va p off fmt mode q s) := by
  unfold Sys2Proof.Machine.execVst
  repeat' first
    | with_reducible assumption
    | with_reducible apply runUnit_good
    | with_reducible apply Check_bind_good
    | with_reducible apply checkWrites_good
    | with_reducible apply writeScrMasked_good
    | with_reducible apply guardWf_good
    | with_reducible apply vecStatus_good
    | with_reducible apply goodOpt_some
    | intro x hx
    | intro x
    | (extract_lets +onlyGivenNames x; clear_value x)
    | split

theorem execSeed_good {Q : List Instr} {c : CoreId} {vd : BitVec 5} {ga : BitVec 6} {tag : BitVec 16} {pur : BitVec 4} {w : BitVec 2} {sc : Bool} {s : State} (h_s : Good Q s) :
    GoodOut Q (execSeed c vd ga tag pur w sc s) := by
  unfold Sys2Proof.Machine.execSeed
  repeat' first
    | with_reducible assumption
    | with_reducible apply runUnit_good
    | with_reducible apply wr_good
    | with_reducible apply guardWf_good
    | with_reducible apply goodOpt_some
    | with_reducible apply setV_ok
    | intro x hx
    | intro x

end Sys2Proof.Laws
end

