-- ==== Sys2Proof/Laws/State.lean ====
section
/-! SUPPORT. What each update of the state leaves alone, field by field, and what the readers see after it. -/

namespace Sys2Proof.Machine

/-! ### setReg -/

@[simp] theorem State.setReg_pending (s : State) (a : Nat) (v : Word) : (s.setReg a v).pending = s.pending := rfl
@[simp] theorem State.setReg_mem (s : State) (a : Nat) (v : Word) : (s.setReg a v).mem = s.mem := rfl
@[simp] theorem State.setReg_ecc (s : State) (a : Nat) (v : Word) : (s.setReg a v).ecc = s.ecc := rfl
@[simp] theorem State.setReg_cores (s : State) (a : Nat) (v : Word) : (s.setReg a v).cores = s.cores := rfl
@[simp] theorem State.setReg_tim (s : State) (a : Nat) (v : Word) : (s.setReg a v).tim = s.tim := rfl
@[simp] theorem State.setReg_host (s : State) (a : Nat) (v : Word) : (s.setReg a v).host = s.host := rfl
@[simp] theorem State.setReg_tel (s : State) (a : Nat) (v : Word) : (s.setReg a v).tel = s.tel := rfl
@[simp] theorem State.setReg_flt (s : State) (a : Nat) (v : Word) : (s.setReg a v).flt = s.flt := rfl
@[simp] theorem State.setReg_frostX (s : State) (a : Nat) (v : Word) : (s.setReg a v).frostX = s.frostX := rfl
@[simp] theorem State.setReg_posadd (s : State) (a : Nat) (v : Word) : (s.setReg a v).posadd = s.posadd := rfl
@[simp] theorem State.setReg_wlt (s : State) (a : Nat) (v : Word) : (s.setReg a v).wlt = s.wlt := rfl
@[simp] theorem State.setReg_seed (s : State) (a : Nat) (v : Word) : (s.setReg a v).seed = s.seed := rfl
@[simp] theorem State.setReg_seedSet (s : State) (a : Nat) (v : Word) : (s.setReg a v).seedSet = s.seedSet := rfl
@[simp] theorem State.setReg_subkeys (s : State) (a : Nat) (v : Word) : (s.setReg a v).subkeys = s.subkeys := rfl
@[simp] theorem State.setReg_inj (s : State) (a : Nat) (v : Word) : (s.setReg a v).inj = s.inj := rfl
@[simp] theorem State.setReg_out (s : State) (a : Nat) (v : Word) : (s.setReg a v).out = s.out := rfl
@[simp] theorem State.setReg_fab (s : State) (a : Nat) (v : Word) : (s.setReg a v).fab = s.fab := rfl
@[simp] theorem State.setReg_links (s : State) (a : Nat) (v : Word) : (s.setReg a v).links = s.links := rfl
@[simp] theorem State.setReg_red (s : State) (a : Nat) (v : Word) : (s.setReg a v).red = s.red := rfl
@[simp] theorem State.setReg_wit (s : State) (a : Nat) (v : Word) : (s.setReg a v).wit = s.wit := rfl
@[simp] theorem State.setReg_pendT (s : State) (a : Nat) (v : Word) : (s.setReg a v).pendT = s.pendT := rfl
@[simp] theorem State.setReg_pendQ (s : State) (a : Nat) (v : Word) : (s.setReg a v).pendQ = s.pendQ := rfl
@[simp] theorem State.setReg_cmdEff (s : State) (a : Nat) (v : Word) : (s.setReg a v).cmdEff = s.cmdEff := rfl
@[simp] theorem State.setReg_bus (s : State) (a : Nat) (v : Word) : (s.setReg a v).bus = s.bus := rfl
@[simp] theorem State.setReg_pwr (s : State) (a : Nat) (v : Word) : (s.setReg a v).pwr = s.pwr := rfl
@[simp] theorem State.setReg_rhs (s : State) (a : Nat) (v : Word) : (s.setReg a v).rhs = s.rhs := rfl
@[simp] theorem State.setReg_frost (s : State) (a : Nat) (v : Word) : (s.setReg a v).frost = s.frost := rfl
@[simp] theorem State.setReg_door (s : State) (a : Nat) (v : Word) : (s.setReg a v).door = s.door := rfl
@[simp] theorem State.setReg_tap (s : State) (a : Nat) (v : Word) : (s.setReg a v).tap = s.tap := rfl
@[simp] theorem State.setReg_eng (s : State) (a : Nat) (v : Word) : (s.setReg a v).eng = s.eng := rfl
@[simp] theorem State.setReg_twin (s : State) (a : Nat) (v : Word) : (s.setReg a v).twin = s.twin := rfl
@[simp] theorem State.setReg_scrub (s : State) (a : Nat) (v : Word) : (s.setReg a v).scrub = s.scrub := rfl
@[simp] theorem State.setReg_hist (s : State) (a : Nat) (v : Word) : (s.setReg a v).hist = s.hist := rfl
@[simp] theorem State.setReg_wiltAlarms (s : State) (a : Nat) (v : Word) : (s.setReg a v).wiltAlarms = s.wiltAlarms := rfl
@[simp] theorem State.setReg_wiltLongs (s : State) (a : Nat) (v : Word) : (s.setReg a v).wiltLongs = s.wiltLongs := rfl
@[simp] theorem State.setReg_dp (s : State) (a : Nat) (v : Word) : (s.setReg a v).dp = s.dp := rfl
@[simp] theorem State.setReg_win (s : State) (a : Nat) (v : Word) : (s.setReg a v).win = s.win := rfl
@[simp] theorem State.setReg_freeCtr (s : State) (a : Nat) (v : Word) : (s.setReg a v).freeCtr = s.freeCtr := rfl
@[simp] theorem State.setReg_byte (s : State) (a : Nat) (v : Word) (r : Nat) : (s.setReg a v).byte r = s.byte r := rfl
@[simp] theorem State.setReg_eccAt (s : State) (a : Nat) (v : Word) (r : Nat) : (s.setReg a v).eccAt r = s.eccAt r := rfl
@[simp] theorem State.setReg_core (s : State) (a : Nat) (v : Word) (m : CoreId) : (s.setReg a v).core m = s.core m := rfl

/-! ### setFld -/

@[simp] theorem State.setFld_pending (s : State) (f : Fld) (x : Nat) : (s.setFld f x).pending = s.pending := rfl
@[simp] theorem State.setFld_mem (s : State) (f : Fld) (x : Nat) : (s.setFld f x).mem = s.mem := rfl
@[simp] theorem State.setFld_ecc (s : State) (f : Fld) (x : Nat) : (s.setFld f x).ecc = s.ecc := rfl
@[simp] theorem State.setFld_cores (s : State) (f : Fld) (x : Nat) : (s.setFld f x).cores = s.cores := rfl
@[simp] theorem State.setFld_tim (s : State) (f : Fld) (x : Nat) : (s.setFld f x).tim = s.tim := rfl
@[simp] theorem State.setFld_host (s : State) (f : Fld) (x : Nat) : (s.setFld f x).host = s.host := rfl
@[simp] theorem State.setFld_tel (s : State) (f : Fld) (x : Nat) : (s.setFld f x).tel = s.tel := rfl
@[simp] theorem State.setFld_flt (s : State) (f : Fld) (x : Nat) : (s.setFld f x).flt = s.flt := rfl
@[simp] theorem State.setFld_frostX (s : State) (f : Fld) (x : Nat) : (s.setFld f x).frostX = s.frostX := rfl
@[simp] theorem State.setFld_posadd (s : State) (f : Fld) (x : Nat) : (s.setFld f x).posadd = s.posadd := rfl
@[simp] theorem State.setFld_wlt (s : State) (f : Fld) (x : Nat) : (s.setFld f x).wlt = s.wlt := rfl
@[simp] theorem State.setFld_seed (s : State) (f : Fld) (x : Nat) : (s.setFld f x).seed = s.seed := rfl
@[simp] theorem State.setFld_seedSet (s : State) (f : Fld) (x : Nat) : (s.setFld f x).seedSet = s.seedSet := rfl
@[simp] theorem State.setFld_subkeys (s : State) (f : Fld) (x : Nat) : (s.setFld f x).subkeys = s.subkeys := rfl
@[simp] theorem State.setFld_inj (s : State) (f : Fld) (x : Nat) : (s.setFld f x).inj = s.inj := rfl
@[simp] theorem State.setFld_out (s : State) (f : Fld) (x : Nat) : (s.setFld f x).out = s.out := rfl
@[simp] theorem State.setFld_fab (s : State) (f : Fld) (x : Nat) : (s.setFld f x).fab = s.fab := rfl
@[simp] theorem State.setFld_links (s : State) (f : Fld) (x : Nat) : (s.setFld f x).links = s.links := rfl
@[simp] theorem State.setFld_red (s : State) (f : Fld) (x : Nat) : (s.setFld f x).red = s.red := rfl
@[simp] theorem State.setFld_wit (s : State) (f : Fld) (x : Nat) : (s.setFld f x).wit = s.wit := rfl
@[simp] theorem State.setFld_pendT (s : State) (f : Fld) (x : Nat) : (s.setFld f x).pendT = s.pendT := rfl
@[simp] theorem State.setFld_pendQ (s : State) (f : Fld) (x : Nat) : (s.setFld f x).pendQ = s.pendQ := rfl
@[simp] theorem State.setFld_cmdEff (s : State) (f : Fld) (x : Nat) : (s.setFld f x).cmdEff = s.cmdEff := rfl
@[simp] theorem State.setFld_bus (s : State) (f : Fld) (x : Nat) : (s.setFld f x).bus = s.bus := rfl
@[simp] theorem State.setFld_pwr (s : State) (f : Fld) (x : Nat) : (s.setFld f x).pwr = s.pwr := rfl
@[simp] theorem State.setFld_rhs (s : State) (f : Fld) (x : Nat) : (s.setFld f x).rhs = s.rhs := rfl
@[simp] theorem State.setFld_frost (s : State) (f : Fld) (x : Nat) : (s.setFld f x).frost = s.frost := rfl
@[simp] theorem State.setFld_door (s : State) (f : Fld) (x : Nat) : (s.setFld f x).door = s.door := rfl
@[simp] theorem State.setFld_tap (s : State) (f : Fld) (x : Nat) : (s.setFld f x).tap = s.tap := rfl
@[simp] theorem State.setFld_eng (s : State) (f : Fld) (x : Nat) : (s.setFld f x).eng = s.eng := rfl
@[simp] theorem State.setFld_twin (s : State) (f : Fld) (x : Nat) : (s.setFld f x).twin = s.twin := rfl
@[simp] theorem State.setFld_scrub (s : State) (f : Fld) (x : Nat) : (s.setFld f x).scrub = s.scrub := rfl
@[simp] theorem State.setFld_hist (s : State) (f : Fld) (x : Nat) : (s.setFld f x).hist = s.hist := rfl
@[simp] theorem State.setFld_wiltAlarms (s : State) (f : Fld) (x : Nat) : (s.setFld f x).wiltAlarms = s.wiltAlarms := rfl
@[simp] theorem State.setFld_wiltLongs (s : State) (f : Fld) (x : Nat) : (s.setFld f x).wiltLongs = s.wiltLongs := rfl
@[simp] theorem State.setFld_dp (s : State) (f : Fld) (x : Nat) : (s.setFld f x).dp = s.dp := rfl
@[simp] theorem State.setFld_win (s : State) (f : Fld) (x : Nat) : (s.setFld f x).win = s.win := rfl
@[simp] theorem State.setFld_freeCtr (s : State) (f : Fld) (x : Nat) : (s.setFld f x).freeCtr = s.freeCtr := rfl
@[simp] theorem State.setFld_byte (s : State) (f : Fld) (x : Nat) (r : Nat) : (s.setFld f x).byte r = s.byte r := rfl
@[simp] theorem State.setFld_eccAt (s : State) (f : Fld) (x : Nat) (r : Nat) : (s.setFld f x).eccAt r = s.eccAt r := rfl
@[simp] theorem State.setFld_core (s : State) (f : Fld) (x : Nat) (m : CoreId) : (s.setFld f x).core m = s.core m := rfl

/-! ### addSat -/

@[simp] theorem State.addSat_pending (s : State) (f : Fld) (n : Nat) : (s.addSat f n).pending = s.pending := rfl
@[simp] theorem State.addSat_mem (s : State) (f : Fld) (n : Nat) : (s.addSat f n).mem = s.mem := rfl
@[simp] theorem State.addSat_ecc (s : State) (f : Fld) (n : Nat) : (s.addSat f n).ecc = s.ecc := rfl
@[simp] theorem State.addSat_cores (s : State) (f : Fld) (n : Nat) : (s.addSat f n).cores = s.cores := rfl
@[simp] theorem State.addSat_tim (s : State) (f : Fld) (n : Nat) : (s.addSat f n).tim = s.tim := rfl
@[simp] theorem State.addSat_host (s : State) (f : Fld) (n : Nat) : (s.addSat f n).host = s.host := rfl
@[simp] theorem State.addSat_tel (s : State) (f : Fld) (n : Nat) : (s.addSat f n).tel = s.tel := rfl
@[simp] theorem State.addSat_flt (s : State) (f : Fld) (n : Nat) : (s.addSat f n).flt = s.flt := rfl
@[simp] theorem State.addSat_frostX (s : State) (f : Fld) (n : Nat) : (s.addSat f n).frostX = s.frostX := rfl
@[simp] theorem State.addSat_posadd (s : State) (f : Fld) (n : Nat) : (s.addSat f n).posadd = s.posadd := rfl
@[simp] theorem State.addSat_wlt (s : State) (f : Fld) (n : Nat) : (s.addSat f n).wlt = s.wlt := rfl
@[simp] theorem State.addSat_seed (s : State) (f : Fld) (n : Nat) : (s.addSat f n).seed = s.seed := rfl
@[simp] theorem State.addSat_seedSet (s : State) (f : Fld) (n : Nat) : (s.addSat f n).seedSet = s.seedSet := rfl
@[simp] theorem State.addSat_subkeys (s : State) (f : Fld) (n : Nat) : (s.addSat f n).subkeys = s.subkeys := rfl
@[simp] theorem State.addSat_inj (s : State) (f : Fld) (n : Nat) : (s.addSat f n).inj = s.inj := rfl
@[simp] theorem State.addSat_out (s : State) (f : Fld) (n : Nat) : (s.addSat f n).out = s.out := rfl
@[simp] theorem State.addSat_fab (s : State) (f : Fld) (n : Nat) : (s.addSat f n).fab = s.fab := rfl
@[simp] theorem State.addSat_links (s : State) (f : Fld) (n : Nat) : (s.addSat f n).links = s.links := rfl
@[simp] theorem State.addSat_red (s : State) (f : Fld) (n : Nat) : (s.addSat f n).red = s.red := rfl
@[simp] theorem State.addSat_wit (s : State) (f : Fld) (n : Nat) : (s.addSat f n).wit = s.wit := rfl
@[simp] theorem State.addSat_pendT (s : State) (f : Fld) (n : Nat) : (s.addSat f n).pendT = s.pendT := rfl
@[simp] theorem State.addSat_pendQ (s : State) (f : Fld) (n : Nat) : (s.addSat f n).pendQ = s.pendQ := rfl
@[simp] theorem State.addSat_cmdEff (s : State) (f : Fld) (n : Nat) : (s.addSat f n).cmdEff = s.cmdEff := rfl
@[simp] theorem State.addSat_bus (s : State) (f : Fld) (n : Nat) : (s.addSat f n).bus = s.bus := rfl
@[simp] theorem State.addSat_pwr (s : State) (f : Fld) (n : Nat) : (s.addSat f n).pwr = s.pwr := rfl
@[simp] theorem State.addSat_rhs (s : State) (f : Fld) (n : Nat) : (s.addSat f n).rhs = s.rhs := rfl
@[simp] theorem State.addSat_frost (s : State) (f : Fld) (n : Nat) : (s.addSat f n).frost = s.frost := rfl
@[simp] theorem State.addSat_door (s : State) (f : Fld) (n : Nat) : (s.addSat f n).door = s.door := rfl
@[simp] theorem State.addSat_tap (s : State) (f : Fld) (n : Nat) : (s.addSat f n).tap = s.tap := rfl
@[simp] theorem State.addSat_eng (s : State) (f : Fld) (n : Nat) : (s.addSat f n).eng = s.eng := rfl
@[simp] theorem State.addSat_twin (s : State) (f : Fld) (n : Nat) : (s.addSat f n).twin = s.twin := rfl
@[simp] theorem State.addSat_scrub (s : State) (f : Fld) (n : Nat) : (s.addSat f n).scrub = s.scrub := rfl
@[simp] theorem State.addSat_hist (s : State) (f : Fld) (n : Nat) : (s.addSat f n).hist = s.hist := rfl
@[simp] theorem State.addSat_wiltAlarms (s : State) (f : Fld) (n : Nat) : (s.addSat f n).wiltAlarms = s.wiltAlarms := rfl
@[simp] theorem State.addSat_wiltLongs (s : State) (f : Fld) (n : Nat) : (s.addSat f n).wiltLongs = s.wiltLongs := rfl
@[simp] theorem State.addSat_dp (s : State) (f : Fld) (n : Nat) : (s.addSat f n).dp = s.dp := rfl
@[simp] theorem State.addSat_win (s : State) (f : Fld) (n : Nat) : (s.addSat f n).win = s.win := rfl
@[simp] theorem State.addSat_freeCtr (s : State) (f : Fld) (n : Nat) : (s.addSat f n).freeCtr = s.freeCtr := rfl
@[simp] theorem State.addSat_byte (s : State) (f : Fld) (n : Nat) (r : Nat) : (s.addSat f n).byte r = s.byte r := rfl
@[simp] theorem State.addSat_eccAt (s : State) (f : Fld) (n : Nat) (r : Nat) : (s.addSat f n).eccAt r = s.eccAt r := rfl
@[simp] theorem State.addSat_core (s : State) (f : Fld) (n : Nat) (m : CoreId) : (s.addSat f n).core m = s.core m := rfl

/-! ### setByte -/

@[simp] theorem State.setByte_pending (s : State) (a : Nat) (b : Byte) : (s.setByte a b).pending = s.pending := rfl
@[simp] theorem State.setByte_regs (s : State) (a : Nat) (b : Byte) : (s.setByte a b).regs = s.regs := rfl
@[simp] theorem State.setByte_ecc (s : State) (a : Nat) (b : Byte) : (s.setByte a b).ecc = s.ecc := rfl
@[simp] theorem State.setByte_cores (s : State) (a : Nat) (b : Byte) : (s.setByte a b).cores = s.cores := rfl
@[simp] theorem State.setByte_tim (s : State) (a : Nat) (b : Byte) : (s.setByte a b).tim = s.tim := rfl
@[simp] theorem State.setByte_host (s : State) (a : Nat) (b : Byte) : (s.setByte a b).host = s.host := rfl
@[simp] theorem State.setByte_tel (s : State) (a : Nat) (b : Byte) : (s.setByte a b).tel = s.tel := rfl
@[simp] theorem State.setByte_flt (s : State) (a : Nat) (b : Byte) : (s.setByte a b).flt = s.flt := rfl
@[simp] theorem State.setByte_frostX (s : State) (a : Nat) (b : Byte) : (s.setByte a b).frostX = s.frostX := rfl
@[simp] theorem State.setByte_posadd (s : State) (a : Nat) (b : Byte) : (s.setByte a b).posadd = s.posadd := rfl
@[simp] theorem State.setByte_wlt (s : State) (a : Nat) (b : Byte) : (s.setByte a b).wlt = s.wlt := rfl
@[simp] theorem State.setByte_seed (s : State) (a : Nat) (b : Byte) : (s.setByte a b).seed = s.seed := rfl
@[simp] theorem State.setByte_seedSet (s : State) (a : Nat) (b : Byte) : (s.setByte a b).seedSet = s.seedSet := rfl
@[simp] theorem State.setByte_subkeys (s : State) (a : Nat) (b : Byte) : (s.setByte a b).subkeys = s.subkeys := rfl
@[simp] theorem State.setByte_inj (s : State) (a : Nat) (b : Byte) : (s.setByte a b).inj = s.inj := rfl
@[simp] theorem State.setByte_out (s : State) (a : Nat) (b : Byte) : (s.setByte a b).out = s.out := rfl
@[simp] theorem State.setByte_fab (s : State) (a : Nat) (b : Byte) : (s.setByte a b).fab = s.fab := rfl
@[simp] theorem State.setByte_links (s : State) (a : Nat) (b : Byte) : (s.setByte a b).links = s.links := rfl
@[simp] theorem State.setByte_red (s : State) (a : Nat) (b : Byte) : (s.setByte a b).red = s.red := rfl
@[simp] theorem State.setByte_wit (s : State) (a : Nat) (b : Byte) : (s.setByte a b).wit = s.wit := rfl
@[simp] theorem State.setByte_pendT (s : State) (a : Nat) (b : Byte) : (s.setByte a b).pendT = s.pendT := rfl
@[simp] theorem State.setByte_pendQ (s : State) (a : Nat) (b : Byte) : (s.setByte a b).pendQ = s.pendQ := rfl
@[simp] theorem State.setByte_cmdEff (s : State) (a : Nat) (b : Byte) : (s.setByte a b).cmdEff = s.cmdEff := rfl
@[simp] theorem State.setByte_bus (s : State) (a : Nat) (b : Byte) : (s.setByte a b).bus = s.bus := rfl
@[simp] theorem State.setByte_pwr (s : State) (a : Nat) (b : Byte) : (s.setByte a b).pwr = s.pwr := rfl
@[simp] theorem State.setByte_rhs (s : State) (a : Nat) (b : Byte) : (s.setByte a b).rhs = s.rhs := rfl
@[simp] theorem State.setByte_frost (s : State) (a : Nat) (b : Byte) : (s.setByte a b).frost = s.frost := rfl
@[simp] theorem State.setByte_door (s : State) (a : Nat) (b : Byte) : (s.setByte a b).door = s.door := rfl
@[simp] theorem State.setByte_tap (s : State) (a : Nat) (b : Byte) : (s.setByte a b).tap = s.tap := rfl
@[simp] theorem State.setByte_eng (s : State) (a : Nat) (b : Byte) : (s.setByte a b).eng = s.eng := rfl
@[simp] theorem State.setByte_twin (s : State) (a : Nat) (b : Byte) : (s.setByte a b).twin = s.twin := rfl
@[simp] theorem State.setByte_scrub (s : State) (a : Nat) (b : Byte) : (s.setByte a b).scrub = s.scrub := rfl
@[simp] theorem State.setByte_hist (s : State) (a : Nat) (b : Byte) : (s.setByte a b).hist = s.hist := rfl
@[simp] theorem State.setByte_wiltAlarms (s : State) (a : Nat) (b : Byte) : (s.setByte a b).wiltAlarms = s.wiltAlarms := rfl
@[simp] theorem State.setByte_wiltLongs (s : State) (a : Nat) (b : Byte) : (s.setByte a b).wiltLongs = s.wiltLongs := rfl
@[simp] theorem State.setByte_dp (s : State) (a : Nat) (b : Byte) : (s.setByte a b).dp = s.dp := rfl
@[simp] theorem State.setByte_win (s : State) (a : Nat) (b : Byte) : (s.setByte a b).win = s.win := rfl
@[simp] theorem State.setByte_freeCtr (s : State) (a : Nat) (b : Byte) : (s.setByte a b).freeCtr = s.freeCtr := rfl
@[simp] theorem State.setByte_reg (s : State) (a : Nat) (b : Byte) (r : Nat) : (s.setByte a b).reg r = s.reg r := rfl
@[simp] theorem State.setByte_fld (s : State) (a : Nat) (b : Byte) (g : Fld) : (s.setByte a b).fld g = s.fld g := rfl
@[simp] theorem State.setByte_bit (s : State) (a : Nat) (b : Byte) (g : Fld) : (s.setByte a b).bit g = s.bit g := rfl
@[simp] theorem State.setByte_eccAt (s : State) (a : Nat) (b : Byte) (r : Nat) : (s.setByte a b).eccAt r = s.eccAt r := rfl
@[simp] theorem State.setByte_core (s : State) (a : Nat) (b : Byte) (m : CoreId) : (s.setByte a b).core m = s.core m := rfl

/-! ### setEcc -/

@[simp] theorem State.setEcc_pending (s : State) (a : Nat) (e : Ecc) : (s.setEcc a e).pending = s.pending := rfl
@[simp] theorem State.setEcc_regs (s : State) (a : Nat) (e : Ecc) : (s.setEcc a e).regs = s.regs := rfl
@[simp] theorem State.setEcc_mem (s : State) (a : Nat) (e : Ecc) : (s.setEcc a e).mem = s.mem := rfl
@[simp] theorem State.setEcc_cores (s : State) (a : Nat) (e : Ecc) : (s.setEcc a e).cores = s.cores := rfl
@[simp] theorem State.setEcc_tim (s : State) (a : Nat) (e : Ecc) : (s.setEcc a e).tim = s.tim := rfl
@[simp] theorem State.setEcc_host (s : State) (a : Nat) (e : Ecc) : (s.setEcc a e).host = s.host := rfl
@[simp] theorem State.setEcc_tel (s : State) (a : Nat) (e : Ecc) : (s.setEcc a e).tel = s.tel := rfl
@[simp] theorem State.setEcc_flt (s : State) (a : Nat) (e : Ecc) : (s.setEcc a e).flt = s.flt := rfl
@[simp] theorem State.setEcc_frostX (s : State) (a : Nat) (e : Ecc) : (s.setEcc a e).frostX = s.frostX := rfl
@[simp] theorem State.setEcc_posadd (s : State) (a : Nat) (e : Ecc) : (s.setEcc a e).posadd = s.posadd := rfl
@[simp] theorem State.setEcc_wlt (s : State) (a : Nat) (e : Ecc) : (s.setEcc a e).wlt = s.wlt := rfl
@[simp] theorem State.setEcc_seed (s : State) (a : Nat) (e : Ecc) : (s.setEcc a e).seed = s.seed := rfl
@[simp] theorem State.setEcc_seedSet (s : State) (a : Nat) (e : Ecc) : (s.setEcc a e).seedSet = s.seedSet := rfl
@[simp] theorem State.setEcc_subkeys (s : State) (a : Nat) (e : Ecc) : (s.setEcc a e).subkeys = s.subkeys := rfl
@[simp] theorem State.setEcc_inj (s : State) (a : Nat) (e : Ecc) : (s.setEcc a e).inj = s.inj := rfl
@[simp] theorem State.setEcc_out (s : State) (a : Nat) (e : Ecc) : (s.setEcc a e).out = s.out := rfl
@[simp] theorem State.setEcc_fab (s : State) (a : Nat) (e : Ecc) : (s.setEcc a e).fab = s.fab := rfl
@[simp] theorem State.setEcc_links (s : State) (a : Nat) (e : Ecc) : (s.setEcc a e).links = s.links := rfl
@[simp] theorem State.setEcc_red (s : State) (a : Nat) (e : Ecc) : (s.setEcc a e).red = s.red := rfl
@[simp] theorem State.setEcc_wit (s : State) (a : Nat) (e : Ecc) : (s.setEcc a e).wit = s.wit := rfl
@[simp] theorem State.setEcc_pendT (s : State) (a : Nat) (e : Ecc) : (s.setEcc a e).pendT = s.pendT := rfl
@[simp] theorem State.setEcc_pendQ (s : State) (a : Nat) (e : Ecc) : (s.setEcc a e).pendQ = s.pendQ := rfl
@[simp] theorem State.setEcc_cmdEff (s : State) (a : Nat) (e : Ecc) : (s.setEcc a e).cmdEff = s.cmdEff := rfl
@[simp] theorem State.setEcc_bus (s : State) (a : Nat) (e : Ecc) : (s.setEcc a e).bus = s.bus := rfl
@[simp] theorem State.setEcc_pwr (s : State) (a : Nat) (e : Ecc) : (s.setEcc a e).pwr = s.pwr := rfl
@[simp] theorem State.setEcc_rhs (s : State) (a : Nat) (e : Ecc) : (s.setEcc a e).rhs = s.rhs := rfl
@[simp] theorem State.setEcc_frost (s : State) (a : Nat) (e : Ecc) : (s.setEcc a e).frost = s.frost := rfl
@[simp] theorem State.setEcc_door (s : State) (a : Nat) (e : Ecc) : (s.setEcc a e).door = s.door := rfl
@[simp] theorem State.setEcc_tap (s : State) (a : Nat) (e : Ecc) : (s.setEcc a e).tap = s.tap := rfl
@[simp] theorem State.setEcc_eng (s : State) (a : Nat) (e : Ecc) : (s.setEcc a e).eng = s.eng := rfl
@[simp] theorem State.setEcc_twin (s : State) (a : Nat) (e : Ecc) : (s.setEcc a e).twin = s.twin := rfl
@[simp] theorem State.setEcc_scrub (s : State) (a : Nat) (e : Ecc) : (s.setEcc a e).scrub = s.scrub := rfl
@[simp] theorem State.setEcc_hist (s : State) (a : Nat) (e : Ecc) : (s.setEcc a e).hist = s.hist := rfl
@[simp] theorem State.setEcc_wiltAlarms (s : State) (a : Nat) (e : Ecc) : (s.setEcc a e).wiltAlarms = s.wiltAlarms := rfl
@[simp] theorem State.setEcc_wiltLongs (s : State) (a : Nat) (e : Ecc) : (s.setEcc a e).wiltLongs = s.wiltLongs := rfl
@[simp] theorem State.setEcc_dp (s : State) (a : Nat) (e : Ecc) : (s.setEcc a e).dp = s.dp := rfl
@[simp] theorem State.setEcc_win (s : State) (a : Nat) (e : Ecc) : (s.setEcc a e).win = s.win := rfl
@[simp] theorem State.setEcc_freeCtr (s : State) (a : Nat) (e : Ecc) : (s.setEcc a e).freeCtr = s.freeCtr := rfl
@[simp] theorem State.setEcc_reg (s : State) (a : Nat) (e : Ecc) (r : Nat) : (s.setEcc a e).reg r = s.reg r := rfl
@[simp] theorem State.setEcc_fld (s : State) (a : Nat) (e : Ecc) (g : Fld) : (s.setEcc a e).fld g = s.fld g := rfl
@[simp] theorem State.setEcc_bit (s : State) (a : Nat) (e : Ecc) (g : Fld) : (s.setEcc a e).bit g = s.bit g := rfl
@[simp] theorem State.setEcc_byte (s : State) (a : Nat) (e : Ecc) (r : Nat) : (s.setEcc a e).byte r = s.byte r := rfl
@[simp] theorem State.setEcc_core (s : State) (a : Nat) (e : Ecc) (m : CoreId) : (s.setEcc a e).core m = s.core m := rfl

/-! ### write -/

@[simp] theorem State.write_pending (s : State) (a : Nat) (bs : List Byte) : (s.write a bs).pending = s.pending := rfl
@[simp] theorem State.write_regs (s : State) (a : Nat) (bs : List Byte) : (s.write a bs).regs = s.regs := rfl
@[simp] theorem State.write_cores (s : State) (a : Nat) (bs : List Byte) : (s.write a bs).cores = s.cores := rfl
@[simp] theorem State.write_tim (s : State) (a : Nat) (bs : List Byte) : (s.write a bs).tim = s.tim := rfl
@[simp] theorem State.write_host (s : State) (a : Nat) (bs : List Byte) : (s.write a bs).host = s.host := rfl
@[simp] theorem State.write_tel (s : State) (a : Nat) (bs : List Byte) : (s.write a bs).tel = s.tel := rfl
@[simp] theorem State.write_flt (s : State) (a : Nat) (bs : List Byte) : (s.write a bs).flt = s.flt := rfl
@[simp] theorem State.write_frostX (s : State) (a : Nat) (bs : List Byte) : (s.write a bs).frostX = s.frostX := rfl
@[simp] theorem State.write_posadd (s : State) (a : Nat) (bs : List Byte) : (s.write a bs).posadd = s.posadd := rfl
@[simp] theorem State.write_wlt (s : State) (a : Nat) (bs : List Byte) : (s.write a bs).wlt = s.wlt := rfl
@[simp] theorem State.write_seed (s : State) (a : Nat) (bs : List Byte) : (s.write a bs).seed = s.seed := rfl
@[simp] theorem State.write_seedSet (s : State) (a : Nat) (bs : List Byte) : (s.write a bs).seedSet = s.seedSet := rfl
@[simp] theorem State.write_subkeys (s : State) (a : Nat) (bs : List Byte) : (s.write a bs).subkeys = s.subkeys := rfl
@[simp] theorem State.write_inj (s : State) (a : Nat) (bs : List Byte) : (s.write a bs).inj = s.inj := rfl
@[simp] theorem State.write_out (s : State) (a : Nat) (bs : List Byte) : (s.write a bs).out = s.out := rfl
@[simp] theorem State.write_fab (s : State) (a : Nat) (bs : List Byte) : (s.write a bs).fab = s.fab := rfl
@[simp] theorem State.write_links (s : State) (a : Nat) (bs : List Byte) : (s.write a bs).links = s.links := rfl
@[simp] theorem State.write_red (s : State) (a : Nat) (bs : List Byte) : (s.write a bs).red = s.red := rfl
@[simp] theorem State.write_wit (s : State) (a : Nat) (bs : List Byte) : (s.write a bs).wit = s.wit := rfl
@[simp] theorem State.write_pendT (s : State) (a : Nat) (bs : List Byte) : (s.write a bs).pendT = s.pendT := rfl
@[simp] theorem State.write_pendQ (s : State) (a : Nat) (bs : List Byte) : (s.write a bs).pendQ = s.pendQ := rfl
@[simp] theorem State.write_cmdEff (s : State) (a : Nat) (bs : List Byte) : (s.write a bs).cmdEff = s.cmdEff := rfl
@[simp] theorem State.write_bus (s : State) (a : Nat) (bs : List Byte) : (s.write a bs).bus = s.bus := rfl
@[simp] theorem State.write_pwr (s : State) (a : Nat) (bs : List Byte) : (s.write a bs).pwr = s.pwr := rfl
@[simp] theorem State.write_rhs (s : State) (a : Nat) (bs : List Byte) : (s.write a bs).rhs = s.rhs := rfl
@[simp] theorem State.write_frost (s : State) (a : Nat) (bs : List Byte) : (s.write a bs).frost = s.frost := rfl
@[simp] theorem State.write_door (s : State) (a : Nat) (bs : List Byte) : (s.write a bs).door = s.door := rfl
@[simp] theorem State.write_tap (s : State) (a : Nat) (bs : List Byte) : (s.write a bs).tap = s.tap := rfl
@[simp] theorem State.write_eng (s : State) (a : Nat) (bs : List Byte) : (s.write a bs).eng = s.eng := rfl
@[simp] theorem State.write_twin (s : State) (a : Nat) (bs : List Byte) : (s.write a bs).twin = s.twin := rfl
@[simp] theorem State.write_scrub (s : State) (a : Nat) (bs : List Byte) : (s.write a bs).scrub = s.scrub := rfl
@[simp] theorem State.write_hist (s : State) (a : Nat) (bs : List Byte) : (s.write a bs).hist = s.hist := rfl
@[simp] theorem State.write_wiltAlarms (s : State) (a : Nat) (bs : List Byte) : (s.write a bs).wiltAlarms = s.wiltAlarms := rfl
@[simp] theorem State.write_wiltLongs (s : State) (a : Nat) (bs : List Byte) : (s.write a bs).wiltLongs = s.wiltLongs := rfl
@[simp] theorem State.write_dp (s : State) (a : Nat) (bs : List Byte) : (s.write a bs).dp = s.dp := rfl
@[simp] theorem State.write_win (s : State) (a : Nat) (bs : List Byte) : (s.write a bs).win = s.win := rfl
@[simp] theorem State.write_freeCtr (s : State) (a : Nat) (bs : List Byte) : (s.write a bs).freeCtr = s.freeCtr := rfl
@[simp] theorem State.write_reg (s : State) (a : Nat) (bs : List Byte) (r : Nat) : (s.write a bs).reg r = s.reg r := rfl
@[simp] theorem State.write_fld (s : State) (a : Nat) (bs : List Byte) (g : Fld) : (s.write a bs).fld g = s.fld g := rfl
@[simp] theorem State.write_bit (s : State) (a : Nat) (bs : List Byte) (g : Fld) : (s.write a bs).bit g = s.bit g := rfl
@[simp] theorem State.write_core (s : State) (a : Nat) (bs : List Byte) (m : CoreId) : (s.write a bs).core m = s.core m := rfl

/-! ### writeMasked -/

@[simp] theorem State.writeMasked_pending (s : State) (a : Nat) (bs : List (Option Byte)) : (s.writeMasked a bs).pending = s.pending := rfl
@[simp] theorem State.writeMasked_regs (s : State) (a : Nat) (bs : List (Option Byte)) : (s.writeMasked a bs).regs = s.regs := rfl
@[simp] theorem State.writeMasked_cores (s : State) (a : Nat) (bs : List (Option Byte)) : (s.writeMasked a bs).cores = s.cores := rfl
@[simp] theorem State.writeMasked_tim (s : State) (a : Nat) (bs : List (Option Byte)) : (s.writeMasked a bs).tim = s.tim := rfl
@[simp] theorem State.writeMasked_host (s : State) (a : Nat) (bs : List (Option Byte)) : (s.writeMasked a bs).host = s.host := rfl
@[simp] theorem State.writeMasked_tel (s : State) (a : Nat) (bs : List (Option Byte)) : (s.writeMasked a bs).tel = s.tel := rfl
@[simp] theorem State.writeMasked_flt (s : State) (a : Nat) (bs : List (Option Byte)) : (s.writeMasked a bs).flt = s.flt := rfl
@[simp] theorem State.writeMasked_frostX (s : State) (a : Nat) (bs : List (Option Byte)) : (s.writeMasked a bs).frostX = s.frostX := rfl
@[simp] theorem State.writeMasked_posadd (s : State) (a : Nat) (bs : List (Option Byte)) : (s.writeMasked a bs).posadd = s.posadd := rfl
@[simp] theorem State.writeMasked_wlt (s : State) (a : Nat) (bs : List (Option Byte)) : (s.writeMasked a bs).wlt = s.wlt := rfl
@[simp] theorem State.writeMasked_seed (s : State) (a : Nat) (bs : List (Option Byte)) : (s.writeMasked a bs).seed = s.seed := rfl
@[simp] theorem State.writeMasked_seedSet (s : State) (a : Nat) (bs : List (Option Byte)) : (s.writeMasked a bs).seedSet = s.seedSet := rfl
@[simp] theorem State.writeMasked_subkeys (s : State) (a : Nat) (bs : List (Option Byte)) : (s.writeMasked a bs).subkeys = s.subkeys := rfl
@[simp] theorem State.writeMasked_inj (s : State) (a : Nat) (bs : List (Option Byte)) : (s.writeMasked a bs).inj = s.inj := rfl
@[simp] theorem State.writeMasked_out (s : State) (a : Nat) (bs : List (Option Byte)) : (s.writeMasked a bs).out = s.out := rfl
@[simp] theorem State.writeMasked_fab (s : State) (a : Nat) (bs : List (Option Byte)) : (s.writeMasked a bs).fab = s.fab := rfl
@[simp] theorem State.writeMasked_links (s : State) (a : Nat) (bs : List (Option Byte)) : (s.writeMasked a bs).links = s.links := rfl
@[simp] theorem State.writeMasked_red (s : State) (a : Nat) (bs : List (Option Byte)) : (s.writeMasked a bs).red = s.red := rfl
@[simp] theorem State.writeMasked_wit (s : State) (a : Nat) (bs : List (Option Byte)) : (s.writeMasked a bs).wit = s.wit := rfl
@[simp] theorem State.writeMasked_pendT (s : State) (a : Nat) (bs : List (Option Byte)) : (s.writeMasked a bs).pendT = s.pendT := rfl
@[simp] theorem State.writeMasked_pendQ (s : State) (a : Nat) (bs : List (Option Byte)) : (s.writeMasked a bs).pendQ = s.pendQ := rfl
@[simp] theorem State.writeMasked_cmdEff (s : State) (a : Nat) (bs : List (Option Byte)) : (s.writeMasked a bs).cmdEff = s.cmdEff := rfl
@[simp] theorem State.writeMasked_bus (s : State) (a : Nat) (bs : List (Option Byte)) : (s.writeMasked a bs).bus = s.bus := rfl
@[simp] theorem State.writeMasked_pwr (s : State) (a : Nat) (bs : List (Option Byte)) : (s.writeMasked a bs).pwr = s.pwr := rfl
@[simp] theorem State.writeMasked_rhs (s : State) (a : Nat) (bs : List (Option Byte)) : (s.writeMasked a bs).rhs = s.rhs := rfl
@[simp] theorem State.writeMasked_frost (s : State) (a : Nat) (bs : List (Option Byte)) : (s.writeMasked a bs).frost = s.frost := rfl
@[simp] theorem State.writeMasked_door (s : State) (a : Nat) (bs : List (Option Byte)) : (s.writeMasked a bs).door = s.door := rfl
@[simp] theorem State.writeMasked_tap (s : State) (a : Nat) (bs : List (Option Byte)) : (s.writeMasked a bs).tap = s.tap := rfl
@[simp] theorem State.writeMasked_eng (s : State) (a : Nat) (bs : List (Option Byte)) : (s.writeMasked a bs).eng = s.eng := rfl
@[simp] theorem State.writeMasked_twin (s : State) (a : Nat) (bs : List (Option Byte)) : (s.writeMasked a bs).twin = s.twin := rfl
@[simp] theorem State.writeMasked_scrub (s : State) (a : Nat) (bs : List (Option Byte)) : (s.writeMasked a bs).scrub = s.scrub := rfl
@[simp] theorem State.writeMasked_hist (s : State) (a : Nat) (bs : List (Option Byte)) : (s.writeMasked a bs).hist = s.hist := rfl
@[simp] theorem State.writeMasked_wiltAlarms (s : State) (a : Nat) (bs : List (Option Byte)) : (s.writeMasked a bs).wiltAlarms = s.wiltAlarms := rfl
@[simp] theorem State.writeMasked_wiltLongs (s : State) (a : Nat) (bs : List (Option Byte)) : (s.writeMasked a bs).wiltLongs = s.wiltLongs := rfl
@[simp] theorem State.writeMasked_dp (s : State) (a : Nat) (bs : List (Option Byte)) : (s.writeMasked a bs).dp = s.dp := rfl
@[simp] theorem State.writeMasked_win (s : State) (a : Nat) (bs : List (Option Byte)) : (s.writeMasked a bs).win = s.win := rfl
@[simp] theorem State.writeMasked_freeCtr (s : State) (a : Nat) (bs : List (Option Byte)) : (s.writeMasked a bs).freeCtr = s.freeCtr := rfl
@[simp] theorem State.writeMasked_reg (s : State) (a : Nat) (bs : List (Option Byte)) (r : Nat) : (s.writeMasked a bs).reg r = s.reg r := rfl
@[simp] theorem State.writeMasked_fld (s : State) (a : Nat) (bs : List (Option Byte)) (g : Fld) : (s.writeMasked a bs).fld g = s.fld g := rfl
@[simp] theorem State.writeMasked_bit (s : State) (a : Nat) (bs : List (Option Byte)) (g : Fld) : (s.writeMasked a bs).bit g = s.bit g := rfl
@[simp] theorem State.writeMasked_core (s : State) (a : Nat) (bs : List (Option Byte)) (m : CoreId) : (s.writeMasked a bs).core m = s.core m := rfl

/-! ### setCore -/

@[simp] theorem State.setCore_pending (s : State) (n : CoreId) (k : Core) : (s.setCore n k).pending = s.pending := rfl
@[simp] theorem State.setCore_regs (s : State) (n : CoreId) (k : Core) : (s.setCore n k).regs = s.regs := rfl
@[simp] theorem State.setCore_mem (s : State) (n : CoreId) (k : Core) : (s.setCore n k).mem = s.mem := rfl
@[simp] theorem State.setCore_ecc (s : State) (n : CoreId) (k : Core) : (s.setCore n k).ecc = s.ecc := rfl
@[simp] theorem State.setCore_tim (s : State) (n : CoreId) (k : Core) : (s.setCore n k).tim = s.tim := rfl
@[simp] theorem State.setCore_host (s : State) (n : CoreId) (k : Core) : (s.setCore n k).host = s.host := rfl
@[simp] theorem State.setCore_tel (s : State) (n : CoreId) (k : Core) : (s.setCore n k).tel = s.tel := rfl
@[simp] theorem State.setCore_flt (s : State) (n : CoreId) (k : Core) : (s.setCore n k).flt = s.flt := rfl
@[simp] theorem State.setCore_frostX (s : State) (n : CoreId) (k : Core) : (s.setCore n k).frostX = s.frostX := rfl
@[simp] theorem State.setCore_posadd (s : State) (n : CoreId) (k : Core) : (s.setCore n k).posadd = s.posadd := rfl
@[simp] theorem State.setCore_wlt (s : State) (n : CoreId) (k : Core) : (s.setCore n k).wlt = s.wlt := rfl
@[simp] theorem State.setCore_seed (s : State) (n : CoreId) (k : Core) : (s.setCore n k).seed = s.seed := rfl
@[simp] theorem State.setCore_seedSet (s : State) (n : CoreId) (k : Core) : (s.setCore n k).seedSet = s.seedSet := rfl
@[simp] theorem State.setCore_subkeys (s : State) (n : CoreId) (k : Core) : (s.setCore n k).subkeys = s.subkeys := rfl
@[simp] theorem State.setCore_inj (s : State) (n : CoreId) (k : Core) : (s.setCore n k).inj = s.inj := rfl
@[simp] theorem State.setCore_out (s : State) (n : CoreId) (k : Core) : (s.setCore n k).out = s.out := rfl
@[simp] theorem State.setCore_fab (s : State) (n : CoreId) (k : Core) : (s.setCore n k).fab = s.fab := rfl
@[simp] theorem State.setCore_links (s : State) (n : CoreId) (k : Core) : (s.setCore n k).links = s.links := rfl
@[simp] theorem State.setCore_red (s : State) (n : CoreId) (k : Core) : (s.setCore n k).red = s.red := rfl
@[simp] theorem State.setCore_wit (s : State) (n : CoreId) (k : Core) : (s.setCore n k).wit = s.wit := rfl
@[simp] theorem State.setCore_pendT (s : State) (n : CoreId) (k : Core) : (s.setCore n k).pendT = s.pendT := rfl
@[simp] theorem State.setCore_pendQ (s : State) (n : CoreId) (k : Core) : (s.setCore n k).pendQ = s.pendQ := rfl
@[simp] theorem State.setCore_cmdEff (s : State) (n : CoreId) (k : Core) : (s.setCore n k).cmdEff = s.cmdEff := rfl
@[simp] theorem State.setCore_bus (s : State) (n : CoreId) (k : Core) : (s.setCore n k).bus = s.bus := rfl
@[simp] theorem State.setCore_pwr (s : State) (n : CoreId) (k : Core) : (s.setCore n k).pwr = s.pwr := rfl
@[simp] theorem State.setCore_rhs (s : State) (n : CoreId) (k : Core) : (s.setCore n k).rhs = s.rhs := rfl
@[simp] theorem State.setCore_frost (s : State) (n : CoreId) (k : Core) : (s.setCore n k).frost = s.frost := rfl
@[simp] theorem State.setCore_door (s : State) (n : CoreId) (k : Core) : (s.setCore n k).door = s.door := rfl
@[simp] theorem State.setCore_tap (s : State) (n : CoreId) (k : Core) : (s.setCore n k).tap = s.tap := rfl
@[simp] theorem State.setCore_eng (s : State) (n : CoreId) (k : Core) : (s.setCore n k).eng = s.eng := rfl
@[simp] theorem State.setCore_twin (s : State) (n : CoreId) (k : Core) : (s.setCore n k).twin = s.twin := rfl
@[simp] theorem State.setCore_scrub (s : State) (n : CoreId) (k : Core) : (s.setCore n k).scrub = s.scrub := rfl
@[simp] theorem State.setCore_hist (s : State) (n : CoreId) (k : Core) : (s.setCore n k).hist = s.hist := rfl
@[simp] theorem State.setCore_wiltAlarms (s : State) (n : CoreId) (k : Core) : (s.setCore n k).wiltAlarms = s.wiltAlarms := rfl
@[simp] theorem State.setCore_wiltLongs (s : State) (n : CoreId) (k : Core) : (s.setCore n k).wiltLongs = s.wiltLongs := rfl
@[simp] theorem State.setCore_dp (s : State) (n : CoreId) (k : Core) : (s.setCore n k).dp = s.dp := rfl
@[simp] theorem State.setCore_win (s : State) (n : CoreId) (k : Core) : (s.setCore n k).win = s.win := rfl
@[simp] theorem State.setCore_freeCtr (s : State) (n : CoreId) (k : Core) : (s.setCore n k).freeCtr = s.freeCtr := rfl
@[simp] theorem State.setCore_reg (s : State) (n : CoreId) (k : Core) (r : Nat) : (s.setCore n k).reg r = s.reg r := rfl
@[simp] theorem State.setCore_fld (s : State) (n : CoreId) (k : Core) (g : Fld) : (s.setCore n k).fld g = s.fld g := rfl
@[simp] theorem State.setCore_bit (s : State) (n : CoreId) (k : Core) (g : Fld) : (s.setCore n k).bit g = s.bit g := rfl
@[simp] theorem State.setCore_byte (s : State) (n : CoreId) (k : Core) (r : Nat) : (s.setCore n k).byte r = s.byte r := rfl
@[simp] theorem State.setCore_eccAt (s : State) (n : CoreId) (k : Core) (r : Nat) : (s.setCore n k).eccAt r = s.eccAt r := rfl

/-! ### updCore -/

@[simp] theorem State.updCore_pending (s : State) (n : CoreId) (f : Core → Core) : (s.updCore n f).pending = s.pending := rfl
@[simp] theorem State.updCore_regs (s : State) (n : CoreId) (f : Core → Core) : (s.updCore n f).regs = s.regs := rfl
@[simp] theorem State.updCore_mem (s : State) (n : CoreId) (f : Core → Core) : (s.updCore n f).mem = s.mem := rfl
@[simp] theorem State.updCore_ecc (s : State) (n : CoreId) (f : Core → Core) : (s.updCore n f).ecc = s.ecc := rfl
@[simp] theorem State.updCore_tim (s : State) (n : CoreId) (f : Core → Core) : (s.updCore n f).tim = s.tim := rfl
@[simp] theorem State.updCore_host (s : State) (n : CoreId) (f : Core → Core) : (s.updCore n f).host = s.host := rfl
@[simp] theorem State.updCore_tel (s : State) (n : CoreId) (f : Core → Core) : (s.updCore n f).tel = s.tel := rfl
@[simp] theorem State.updCore_flt (s : State) (n : CoreId) (f : Core → Core) : (s.updCore n f).flt = s.flt := rfl
@[simp] theorem State.updCore_frostX (s : State) (n : CoreId) (f : Core → Core) : (s.updCore n f).frostX = s.frostX := rfl
@[simp] theorem State.updCore_posadd (s : State) (n : CoreId) (f : Core → Core) : (s.updCore n f).posadd = s.posadd := rfl
@[simp] theorem State.updCore_wlt (s : State) (n : CoreId) (f : Core → Core) : (s.updCore n f).wlt = s.wlt := rfl
@[simp] theorem State.updCore_seed (s : State) (n : CoreId) (f : Core → Core) : (s.updCore n f).seed = s.seed := rfl
@[simp] theorem State.updCore_seedSet (s : State) (n : CoreId) (f : Core → Core) : (s.updCore n f).seedSet = s.seedSet := rfl
@[simp] theorem State.updCore_subkeys (s : State) (n : CoreId) (f : Core → Core) : (s.updCore n f).subkeys = s.subkeys := rfl
@[simp] theorem State.updCore_inj (s : State) (n : CoreId) (f : Core → Core) : (s.updCore n f).inj = s.inj := rfl
@[simp] theorem State.updCore_out (s : State) (n : CoreId) (f : Core → Core) : (s.updCore n f).out = s.out := rfl
@[simp] theorem State.updCore_fab (s : State) (n : CoreId) (f : Core → Core) : (s.updCore n f).fab = s.fab := rfl
@[simp] theorem State.updCore_links (s : State) (n : CoreId) (f : Core → Core) : (s.updCore n f).links = s.links := rfl
@[simp] theorem State.updCore_red (s : State) (n : CoreId) (f : Core → Core) : (s.updCore n f).red = s.red := rfl
@[simp] theorem State.updCore_wit (s : State) (n : CoreId) (f : Core → Core) : (s.updCore n f).wit = s.wit := rfl
@[simp] theorem State.updCore_pendT (s : State) (n : CoreId) (f : Core → Core) : (s.updCore n f).pendT = s.pendT := rfl
@[simp] theorem State.updCore_pendQ (s : State) (n : CoreId) (f : Core → Core) : (s.updCore n f).pendQ = s.pendQ := rfl
@[simp] theorem State.updCore_cmdEff (s : State) (n : CoreId) (f : Core → Core) : (s.updCore n f).cmdEff = s.cmdEff := rfl
@[simp] theorem State.updCore_bus (s : State) (n : CoreId) (f : Core → Core) : (s.updCore n f).bus = s.bus := rfl
@[simp] theorem State.updCore_pwr (s : State) (n : CoreId) (f : Core → Core) : (s.updCore n f).pwr = s.pwr := rfl
@[simp] theorem State.updCore_rhs (s : State) (n : CoreId) (f : Core → Core) : (s.updCore n f).rhs = s.rhs := rfl
@[simp] theorem State.updCore_frost (s : State) (n : CoreId) (f : Core → Core) : (s.updCore n f).frost = s.frost := rfl
@[simp] theorem State.updCore_door (s : State) (n : CoreId) (f : Core → Core) : (s.updCore n f).door = s.door := rfl
@[simp] theorem State.updCore_tap (s : State) (n : CoreId) (f : Core → Core) : (s.updCore n f).tap = s.tap := rfl
@[simp] theorem State.updCore_eng (s : State) (n : CoreId) (f : Core → Core) : (s.updCore n f).eng = s.eng := rfl
@[simp] theorem State.updCore_twin (s : State) (n : CoreId) (f : Core → Core) : (s.updCore n f).twin = s.twin := rfl
@[simp] theorem State.updCore_scrub (s : State) (n : CoreId) (f : Core → Core) : (s.updCore n f).scrub = s.scrub := rfl
@[simp] theorem State.updCore_hist (s : State) (n : CoreId) (f : Core → Core) : (s.updCore n f).hist = s.hist := rfl
@[simp] theorem State.updCore_wiltAlarms (s : State) (n : CoreId) (f : Core → Core) : (s.updCore n f).wiltAlarms = s.wiltAlarms := rfl
@[simp] theorem State.updCore_wiltLongs (s : State) (n : CoreId) (f : Core → Core) : (s.updCore n f).wiltLongs = s.wiltLongs := rfl
@[simp] theorem State.updCore_dp (s : State) (n : CoreId) (f : Core → Core) : (s.updCore n f).dp = s.dp := rfl
@[simp] theorem State.updCore_win (s : State) (n : CoreId) (f : Core → Core) : (s.updCore n f).win = s.win := rfl
@[simp] theorem State.updCore_freeCtr (s : State) (n : CoreId) (f : Core → Core) : (s.updCore n f).freeCtr = s.freeCtr := rfl
@[simp] theorem State.updCore_reg (s : State) (n : CoreId) (f : Core → Core) (r : Nat) : (s.updCore n f).reg r = s.reg r := rfl
@[simp] theorem State.updCore_fld (s : State) (n : CoreId) (f : Core → Core) (g : Fld) : (s.updCore n f).fld g = s.fld g := rfl
@[simp] theorem State.updCore_bit (s : State) (n : CoreId) (f : Core → Core) (g : Fld) : (s.updCore n f).bit g = s.bit g := rfl
@[simp] theorem State.updCore_byte (s : State) (n : CoreId) (f : Core → Core) (r : Nat) : (s.updCore n f).byte r = s.byte r := rfl
@[simp] theorem State.updCore_eccAt (s : State) (n : CoreId) (f : Core → Core) (r : Nat) : (s.updCore n f).eccAt r = s.eccAt r := rfl

end Sys2Proof.Machine
end

