-- ==== Sys2Proof/Laws/Ops.lean ====
section
/-! SUPPORT. What the named operations do: a read after a write of a register, a field, a byte, a core and a register file,
and what a unit's start does. -/

namespace Sys2Proof.Machine

open Sys2Proof.Safety

variable {s : State}

/-! ### Fields of a 64-bit value -/

theorem bitsMask_getLsbD (lo w i : Nat) : (bitsMask lo w).getLsbD i = decide (i < 64 ∧ lo ≤ i ∧ i < lo + w) := by
  simp only [bitsMask, BitVec.getLsbD_shiftLeft, BitVec.getLsbD_setWidth, BitVec.getLsbD_allOnes]
  rw [Bool.eq_iff_iff]
  simp
  omega

theorem bitsPut_getLsbD (v : Word) (lo w x i : Nat) : (bitsPut v lo w x).getLsbD i =
    if i < 64 ∧ lo ≤ i ∧ i < lo + w then x.testBit (i - lo) else v.getLsbD i := by
  simp only [bitsPut, BitVec.getLsbD_or, BitVec.getLsbD_and, BitVec.getLsbD_not, bitsMask_getLsbD, BitVec.getLsbD_shiftLeft,
    BitVec.getLsbD_ofNat]
  by_cases h1 : i < 64
  · by_cases h2 : lo ≤ i ∧ i < lo + w
    · have h3 : ¬ i < lo := by omega
      have h4 : i - lo < 64 := by omega
      simp [h1, h2, h3, h4]
    · simp [h1, h2]
  · have : v.getLsbD i = false := BitVec.getLsbD_of_ge v i (by omega)
    simp [h1, this]

/-- A field reads as the value put into it, cut to its width. -/
theorem bitsGet_bitsPut_same (v : Word) {lo w : Nat} (x : Nat) (h : lo + w ≤ 64) : bitsGet (bitsPut v lo w x) lo w = x % 2 ^ w := by
  apply Nat.eq_of_testBit_eq
  intro i
  simp only [bitsGet, BitVec.testBit_toNat, BitVec.getLsbD_extractLsb', bitsPut_getLsbD, Nat.testBit_mod_two_pow]
  by_cases hi : i < w
  · have : lo + i < 64 ∧ lo ≤ lo + i ∧ lo + i < lo + w := by omega
    simp [hi, this]
  · simp [hi]

/-- A field apart from the one written reads as before. -/
theorem bitsGet_bitsPut_other (v : Word) {lo w lo' w' : Nat} (x : Nat) (h : lo' + w' ≤ lo ∨ lo + w ≤ lo') :
    bitsGet (bitsPut v lo w x) lo' w' = bitsGet v lo' w' := by
  apply Nat.eq_of_testBit_eq
  intro i
  simp only [bitsGet, BitVec.testBit_toNat, BitVec.getLsbD_extractLsb', bitsPut_getLsbD]
  by_cases hi : i < w'
  · have : ¬ (lo' + i < 64 ∧ lo ≤ lo' + i ∧ lo' + i < lo + w) := by omega
    simp [hi, this]
  · simp [hi]

/-! ### Registers -/

theorem State.reg_setReg_same (h : RegsOk s) (a : Nat) (v : Word) : (s.setReg a v).reg a = v :=
  SMap.get_set_same (d := fun a => regReset a) a v h

theorem State.reg_setReg_other (h : RegsOk s) {a b : Nat} (v : Word) (hb : b ≠ a) : (s.setReg a v).reg b = s.reg b :=
  SMap.get_set_other (d := fun a => regReset a) v h hb _

theorem State.fld_setFld_same (h : RegsOk s) {f : Fld} (x : Nat) (hw : f.lo + f.w ≤ 64) : (s.setFld f x).fld f = x % 2 ^ f.w := by
  unfold State.fld State.setFld
  rw [State.reg_setReg_same h, bitsGet_bitsPut_same _ _ hw]

theorem State.fld_setFld_reg (h : RegsOk s) {f g : Fld} (x : Nat) (hr : g.reg ≠ f.reg) : (s.setFld f x).fld g = s.fld g := by
  unfold State.fld State.setFld
  rw [State.reg_setReg_other h _ hr]

theorem State.fld_setFld_apart (h : RegsOk s) {f g : Fld} (x : Nat) (hr : g.lo + g.w ≤ f.lo ∨ f.lo + f.w ≤ g.lo) :
    (s.setFld f x).fld g = s.fld g := by
  by_cases hg : g.reg = f.reg
  · unfold State.fld State.setFld
    rw [hg, State.reg_setReg_same h, bitsGet_bitsPut_other _ _ hr]
  · exact State.fld_setFld_reg h x hg

theorem State.reg_setFld_other (h : RegsOk s) {f : Fld} {a : Nat} (x : Nat) (ha : a ≠ f.reg) : (s.setFld f x).reg a = s.reg a :=
  State.reg_setReg_other h _ ha

/-- A second write of a register replaces the first. -/
theorem State.setReg_setReg (h : RegsOk s) (a : Nat) (v w : Word) : (s.setReg a v).setReg a w = s.setReg a w := by
  unfold State.setReg
  simp only [SMap.set_set (d := fun a => regReset a) a v w h]

/-! ### Memory -/

theorem memWrite_get {m : SMap Byte} (h : SMap.wf (fun _ => (0 : Byte)) m = true) : ∀ (bs : List Byte) (a k : Nat),
    SMap.get 0#8 (memWrite m a bs) k = if a ≤ k ∧ k < a + bs.length then bs.getD (k - a) 0#8 else SMap.get 0#8 m k := by
  intro bs
  induction bs generalizing m with
  | nil => intro a k; simp [memWrite]
  | cons b bs ih =>
    intro a k
    have h1 : SMap.wf (fun _ => (0 : Byte)) (SMap.set 0#8 m a b) = true := SMap.wf_set (d := fun _ => (0 : Byte)) a b h
    rw [memWrite, ih h1]
    by_cases hk : k = a
    · subst hk
      have h2 := SMap.get_set_same (d := fun _ => (0 : Byte)) k b h
      simp only [show ¬ (k + 1 ≤ k ∧ k < k + 1 + bs.length) by omega, if_false,
        show k ≤ k ∧ k < k + (b :: bs).length from ⟨le_refl k, by simp⟩, and_self, if_true, Nat.sub_self, List.getD_cons_zero]
      exact h2
    · have h2 := SMap.get_set_other (d := fun _ => (0 : Byte)) b h hk (0#8)
      by_cases hr : a + 1 ≤ k ∧ k < a + 1 + bs.length
      · have h3 : a ≤ k ∧ k < a + (b :: bs).length := by simp; omega
        have h4 : k - a = (k - (a + 1)) + 1 := by omega
        simp only [hr, h3, and_self, if_true]
        rw [h4, List.getD_cons_succ]
      · have h3 : ¬ (a ≤ k ∧ k < a + (b :: bs).length) := by simp; omega
        simp only [hr, h3, if_false]
        exact h2

/-- Every byte of a write reads as it was written, and every other byte as before. -/
theorem State.byte_write (h : MemOk s) (a : Nat) (bs : List Byte) (k : Nat) :
    (s.write a bs).byte k = if a ≤ k ∧ k < a + bs.length then bs.getD (k - a) 0#8 else s.byte k :=
  memWrite_get h bs a k

theorem State.byte_setByte_same (h : MemOk s) (a : Nat) (b : Byte) : (s.setByte a b).byte a = b :=
  SMap.get_set_same (d := fun _ => (0 : Byte)) a b h

theorem State.byte_setByte_other (h : MemOk s) {a k : Nat} (b : Byte) (hk : k ≠ a) : (s.setByte a b).byte k = s.byte k :=
  SMap.get_set_other (d := fun _ => (0 : Byte)) b h hk _

theorem memWriteMasked_get {m : SMap Byte} (h : SMap.wf (fun _ => (0 : Byte)) m = true) : ∀ (bs : List (Option Byte)) (a k : Nat),
    SMap.get 0#8 (memWriteMasked m a bs) k =
      if a ≤ k ∧ k < a + bs.length then (bs.getD (k - a) none).getD (SMap.get 0#8 m k) else SMap.get 0#8 m k := by
  intro bs
  induction bs generalizing m with
  | nil => intro a k; simp [memWriteMasked]
  | cons b bs ih =>
    intro a k
    obtain ⟨m', hm', hw, hs, ho⟩ : ∃ m' : SMap Byte, memWriteMasked m a (b :: bs) = memWriteMasked m' (a + 1) bs ∧
        SMap.wf (fun _ => (0 : Byte)) m' = true ∧ SMap.get 0#8 m' a = b.getD (SMap.get 0#8 m a) ∧
        ∀ k, k ≠ a → SMap.get 0#8 m' k = SMap.get 0#8 m k := by
      cases b with
      | none => exact ⟨m, rfl, h, rfl, fun _ _ => rfl⟩
      | some v =>
        exact ⟨SMap.set 0#8 m a v, rfl, SMap.wf_set (d := fun _ => (0 : Byte)) a v h,
          SMap.get_set_same (d := fun _ => (0 : Byte)) a v h,
          fun k hk => SMap.get_set_other (d := fun _ => (0 : Byte)) v h hk (0#8)⟩
    rw [hm', ih hw]
    by_cases hk : k = a
    · subst hk
      simp only [show ¬ (k + 1 ≤ k ∧ k < k + 1 + bs.length) by omega, if_false,
        show k ≤ k ∧ k < k + (b :: bs).length from ⟨le_refl k, by simp⟩, and_self, if_true, Nat.sub_self, List.getD_cons_zero]
      exact hs
    · have h2 : SMap.get 0#8 m' k = SMap.get 0#8 m k := ho k hk
      rw [h2]
      by_cases hr : a + 1 ≤ k ∧ k < a + 1 + bs.length
      · have h3 : a ≤ k ∧ k < a + (b :: bs).length := by simp; omega
        have h4 : k - a = (k - (a + 1)) + 1 := by omega
        simp only [hr, h3, and_self, if_true]
        rw [h4, List.getD_cons_succ]
      · have h3 : ¬ (a ≤ k ∧ k < a + (b :: bs).length) := by simp; omega
        simp only [hr, h3, if_false]

/-- A masked write changes the selected bytes only. -/
theorem State.byte_writeMasked (h : MemOk s) (a : Nat) (bs : List (Option Byte)) (k : Nat) :
    (s.writeMasked a bs).byte k =
      if a ≤ k ∧ k < a + bs.length then (bs.getD (k - a) none).getD (s.byte k) else s.byte k :=
  memWriteMasked_get h bs a k

/-! ### Cores -/

theorem State.core_setCore_same (h : CoresOk s) (n : CoreId) (k : Core) : (s.setCore n k).core n = k :=
  SMap.get_set_same (d := fun _ => ({} : Core)) n.val k h.1

theorem State.core_setCore_other (h : CoresOk s) {n m : CoreId} (k : Core) (hm : m ≠ n) : (s.setCore n k).core m = s.core m :=
  SMap.get_set_other (d := fun _ => ({} : Core)) k h.1 (fun e => hm (Fin.ext e)) _

theorem State.setCore_setCore (h : CoresOk s) (n : CoreId) (k l : Core) : (s.setCore n k).setCore n l = s.setCore n l := by
  unfold State.setCore
  simp only [SMap.set_set (d := fun _ => ({} : Core)) n.val k l h.1]

theorem State.core_updCore_same (h : CoresOk s) (n : CoreId) (f : Core → Core) : (s.updCore n f).core n = f (s.core n) :=
  State.core_setCore_same h n _

theorem State.core_updCore_other (h : CoresOk s) {n m : CoreId} (f : Core → Core) (hm : m ≠ n) : (s.updCore n f).core m = s.core m :=
  State.core_setCore_other h _ hm

/-- Putting back the core that is there changes nothing. -/
theorem State.setCore_core (h : CoresOk s) (n : CoreId) : s.setCore n (s.core n) = s := by
  unfold State.setCore State.core
  rw [SMap.set_get (d := fun _ => ({} : Core)) n.val h.1]

/-- Two changes of one core are one change. -/
theorem State.updCore_updCore (h : CoresOk s) (n : CoreId) (f g : Core → Core) :
    (s.updCore n f).updCore n g = s.updCore n fun k => g (f k) := by
  have := State.core_updCore_same h n f
  unfold State.updCore at *
  rw [this, State.setCore_setCore h]

/-! ### Register files (R122) -/

theorem Regs.gr_zero (r : Regs) : r.gr 0 = 0 := by simp [Regs.gr]
theorem Regs.qr_zero (r : Regs) : r.qr 0 = BitVec.allOnes 64 := by simp [Regs.qr]
theorem Regs.setG_zero (r : Regs) (v : Word) : r.setG 0 v = r := by simp [Regs.setG]
theorem Regs.setQ_zero (r : Regs) (v : Word) : r.setQ 0 v = r := by simp [Regs.setQ]

theorem Regs.gr_setG_same {r : Regs} (h : FilesOk r) {i : BitVec 6} (hi : i ≠ 0) (v : Word) : (r.setG i v).gr i = v := by
  simp only [Regs.gr, Regs.setG, hi, if_false]
  exact SMap.get_set_same (d := fun _ => (0 : Word)) i.toNat v h.1

theorem Regs.gr_setG_other {r : Regs} (h : FilesOk r) {i j : BitVec 6} (hj : j ≠ i) (v : Word) : (r.setG i v).gr j = r.gr j := by
  by_cases hi : i = 0
  · subst hi; rw [Regs.setG_zero]
  · by_cases h0 : j = 0
    · subst h0; rw [Regs.gr_zero, Regs.gr_zero]
    · simp only [Regs.gr, Regs.setG, hi, h0, if_false]
      exact SMap.get_set_other (d := fun _ => (0 : Word)) v h.1 (fun e => hj (BitVec.eq_of_toNat_eq e)) _

theorem Regs.pr_setP_same {r : Regs} (h : FilesOk r) (i : BitVec 4) (v : Addr) : (r.setP i v).pr i = v :=
  SMap.get_set_same (d := fun _ => (0 : Addr)) i.toNat v h.2.1
theorem Regs.pr_setP_other {r : Regs} (h : FilesOk r) {i j : BitVec 4} (hj : j ≠ i) (v : Addr) : (r.setP i v).pr j = r.pr j :=
  SMap.get_set_other (d := fun _ => (0 : Addr)) v h.2.1 (fun e => hj (BitVec.eq_of_toNat_eq e)) _
theorem Regs.vr_setV_same {r : Regs} (h : FilesOk r) (i : BitVec 5) (v : Lanes) : (r.setV i v).vr i = v :=
  SMap.get_set_same (d := fun _ => zeroLanes) i.toNat v h.2.2.1
theorem Regs.vr_setV_other {r : Regs} (h : FilesOk r) {i j : BitVec 5} (hj : j ≠ i) (v : Lanes) : (r.setV i v).vr j = r.vr j :=
  SMap.get_set_other (d := fun _ => zeroLanes) v h.2.2.1 (fun e => hj (BitVec.eq_of_toNat_eq e)) _
theorem Regs.qr_setQ_same {r : Regs} (h : FilesOk r) {i : BitVec 3} (hi : i ≠ 0) (v : Word) : (r.setQ i v).qr i = v := by
  simp only [Regs.qr, Regs.setQ, hi, if_false]
  exact SMap.get_set_same (d := fun _ => (0 : Word)) i.toNat v h.2.2.2.1
theorem Regs.tr_setT_same {r : Regs} (h : FilesOk r) (i : BitVec 4) (d : Desc) : (r.setT i d).tr i = some d :=
  SMap.get_set_same (d := fun _ => (none : Option Desc)) i.toNat (some d) h.2.2.2.2
theorem Regs.tr_setT_other {r : Regs} (h : FilesOk r) {i j : BitVec 4} (hj : j ≠ i) (d : Desc) : (r.setT i d).tr j = r.tr j :=
  SMap.get_set_other (d := fun _ => (none : Option Desc)) (some d) h.2.2.2.2 (fun e => hj (BitVec.eq_of_toNat_eq e)) _

/-! ### Starting an instruction in a unit -/

/-- Where the cores do not run, a row of an instruction changes nothing. -/
theorem runUnit_dead {c : CoreId} {u : UnitId} {i : Instr} {f : Ctx → State → Option State} (h : s.live = false) :
    runUnit c u i s f = s := by simp [runUnit, h]

/-- On an empty queue the instruction runs with the core's registers as they stand. -/
theorem runUnit_direct {c : CoreId} {u : UnitId} {i : Instr} {f : Ctx → State → Option State} (h : s.live = true)
    (hq : (s.core c).queue u = []) : runUnit c u i s f =
      delivered c i s (f ((s.core c).ctx c u s.cycle) (s.updCore c fun k => { k with issued := k.issued + 1 })) := by
  simp [runUnit, h, hq]

/-- The front entry of the queue runs with the registers that its bundle read. -/
theorem runUnit_front {c : CoreId} {u : UnitId} {i : Instr} {f : Ctx → State → Option State} {e : QEntry} {q : List QEntry}
    (h : s.live = true) (hq : (s.core c).queue u = e :: q) (he : e.instr = i) : runUnit c u i s f =
      delivered c i s (f (e.ctx c u) (s.updCore c fun k => k.setQueue u q)) := by simp [runUnit, h, hq, he]

/-- Behind another instruction of its queue a row changes nothing. -/
theorem runUnit_behind {c : CoreId} {u : UnitId} {i : Instr} {f : Ctx → State → Option State} {e : QEntry} {q : List QEntry}
    (hq : (s.core c).queue u = e :: q) (he : e.instr ≠ i) : runUnit c u i s f = s := by simp [runUnit, hq, he]

/-- A row of an instruction leaves the state as it is, or is what its effect gives in one of the two ways to start it. -/
theorem runUnit_cases (c : CoreId) (u : UnitId) (i : Instr) (s : State) (f : Ctx → State → Option State) :
    runUnit c u i s f = s ∨
      (s.live = true ∧ (s.core c).queue u = [] ∧
        ∃ t, f ((s.core c).ctx c u s.cycle) (s.updCore c fun k => { k with issued := k.issued + 1 }) = some t ∧
          runUnit c u i s f = t.updCore c fun k => k.deliver i t.cycle) ∨
      ∃ e q, s.live = true ∧ (s.core c).queue u = e :: q ∧ e.instr = i ∧
        ∃ t, f (e.ctx c u) (s.updCore c fun k => k.setQueue u q) = some t ∧
          runUnit c u i s f = t.updCore c fun k => k.deliver i t.cycle := by
  cases hl : s.live with
  | false => exact .inl (runUnit_dead hl)
  | true =>
    cases hq : (s.core c).queue u with
    | nil =>
      rw [runUnit_direct hl hq]
      cases hf : f ((s.core c).ctx c u s.cycle) (s.updCore c fun k => { k with issued := k.issued + 1 }) with
      | none => exact .inl rfl
      | some t => exact .inr (.inl ⟨rfl, rfl, t, rfl, rfl⟩)
    | cons e q =>
      by_cases he : e.instr = i
      · rw [runUnit_front hl hq he]
        cases hf : f (e.ctx c u) (s.updCore c fun k => k.setQueue u q) with
        | none => exact .inl rfl
        | some t => exact .inr (.inr ⟨e, q, rfl, rfl, he, t, hf, rfl⟩)
      · exact .inl (runUnit_behind hq he)

/-- An instruction that writes no register leaves the times of results as they are. -/
theorem delivered_none {c : CoreId} {i : Instr} {t : State} (hc : CoresOk t) (h : instrWrites i = []) :
    delivered c i s (some t) = t := by
  have hk : (t.core c).deliver i t.cycle = t.core c := by simp [Core.deliver, h]
  simp only [delivered, State.updCore, hk]
  exact State.setCore_core hc c

end Sys2Proof.Machine
end

