-- ==== Sys2Proof/Laws/PerInstr.lean ====
section
/-! SUPPORT. Statements that are made constructor by constructor: none are needed here. -/

namespace Sys2Proof.Laws

end Sys2Proof.Laws
end

