-- ==== Sys2Proof/Laws/Starts.lean ====
section
/-! SUPPORT. The start of an instruction: what a row of it gives, and that its state is canonical. -/

namespace Sys2Proof.Laws

open Sys2Proof.Machine Sys2Proof.Safety

variable {c : CoreId} {u : UnitId} {i : Instr} {s s0 : State} {x : Ctx}

theorem Canonical.good {s : State} (h : Canonical s) : Good s.pending s := ⟨rfl, h⟩

/-- Noting when results are available changes nothing else of a core. -/
theorem Core.deliver_eq (k : Core) (i : Instr) (n : Nat) : k.deliver i n = { k with ready := (k.deliver i n).ready } := by
  unfold Core.deliver
  split <;> rfl

@[simp] theorem Core.deliver_regs (k : Core) (i : Instr) (n : Nat) : (k.deliver i n).regs = k.regs := by rw [Core.deliver_eq]
@[simp] theorem Core.deliver_region (k : Core) (i : Instr) (n : Nat) : (k.deliver i n).region = k.region := by rw [Core.deliver_eq]
@[simp] theorem Core.deliver_queue (k : Core) (i : Instr) (n : Nat) (w : UnitId) : (k.deliver i n).queue w = k.queue w := by
  rw [Core.deliver_eq]; cases w <;> rfl

theorem Core.deliver_ready {k l : Core} {i : Instr} {n : Nat} (h : k.ready = l.ready) : (k.deliver i n).ready = (l.deliver i n).ready := by
  unfold Core.deliver
  split <;> simp [h]

theorem starts_core (h : Starts c u i s x s0) : x.c = c ∧ x.u = u := by
  obtain ⟨_, ⟨_, rfl, _⟩ | ⟨e, q, _, _, rfl, _⟩⟩ := h
  · exact ⟨rfl, rfl⟩
  · exact ⟨rfl, rfl⟩

/-- What a row gives where it starts its instruction. -/
theorem starts_run (h : Starts c u i s x s0) (f : Ctx → State → Option State) : runUnit c u i s f = delivered c i s (f x s0) := by
  obtain ⟨hl, ⟨hq, rfl, rfl⟩ | ⟨e, q, hq, he, rfl, rfl⟩⟩ := h
  · exact runUnit_direct hl hq
  · exact runUnit_front hl hq he

/-- The starting state is one change of the core, which leaves its registers, its region and its store alone. -/
theorem starts_upd (h : Starts c u i s x s0) : ∃ f : Core → Core, s0 = s.updCore c f ∧ (∀ k, (f k).regs = k.regs) ∧
    (∀ k, (f k).region = k.region) ∧ ∀ k, FilesOnly k (f k) := by
  obtain ⟨_, ⟨_, _, rfl⟩ | ⟨e, q, _, _, _, rfl⟩⟩ := h
  · exact ⟨_, rfl, fun _ => rfl, fun _ => rfl, fun _ => rfl⟩
  · refine ⟨_, rfl, fun k => ?_, fun k => ?_, fun k => ?_⟩ <;> cases u <;> rfl

theorem starts_good {q : List Instr} (h : Starts c u i s x s0) (hg : Good q s) : Good q s0 := by
  obtain ⟨_, ⟨_, _, rfl⟩ | ⟨e, q, _, _, _, rfl⟩⟩ := h
  · exact updCore_good (fun k hk => hk) hg
  · exact updCore_good (fun k hk => Core_setQueue_good hk) hg

theorem setCore_only (n : CoreId) (k : Core) (h : CoresOk s) : OnlyCore n s (s.setCore n k) :=
  ⟨by rw [State.core_setCore_same h], fun m hm => State.core_setCore_other h k hm, fun _ => rfl, fun _ => rfl⟩

theorem updCore_only (n : CoreId) (f : Core → Core) (h : CoresOk s) : OnlyCore n s (s.updCore n f) := setCore_only n _ h

/-- A change of the core made after the start is one change of the core. -/
theorem starts_updCore (h : Starts c u i s x s0) (hc : CoresOk s) (g : Core → Core) :
    ∃ f : Core → Core, s0.updCore c g = (s.updCore c fun k => g (f k)) ∧ (∀ k, (f k).regs = k.regs) ∧
      (∀ k, (f k).region = k.region) ∧ (∀ k, FilesOnly k (f k)) ∧ f (s.core c) = s0.core c := by
  obtain ⟨f, rfl, h1, h2, h3⟩ := starts_upd h
  exact ⟨f, State.updCore_updCore hc c f g, h1, h2, h3, (State.core_updCore_same hc c f).symm⟩

/-- The queues at the start: the front entry, if there is one, has left the unit's queue. -/
theorem starts_queue (h : Starts c u i s x s0) (hc : CoresOk s) (w : UnitId) :
    (s0.core c).queue w = if w = u then ((s.core c).queue w).drop 1 else (s.core c).queue w := by
  obtain ⟨_, ⟨hq, _, rfl⟩ | ⟨e, q, hq, _, _, rfl⟩⟩ := h
  · rw [State.core_updCore_same hc]
    by_cases hw : w = u
    · subst hw
      have : Core.queue { s.core c with issued := (s.core c).issued + 1 } w = (s.core c).queue w := by cases w <;> rfl
      simp [this, hq]
    · simp only [hw, ↓reduceIte]; cases w <;> rfl
  · rw [State.core_updCore_same hc]
    by_cases hw : w = u
    · subst hw; simp only [↓reduceIte, hq]; cases w <;> rfl
    · simp only [hw, ↓reduceIte]; cases w <;> cases u <;> first | rfl | exact absurd rfl hw

theorem starts_regs (h : Starts c u i s x s0) (hc : CoresOk s) : (s0.core c).regs = (s.core c).regs := by
  obtain ⟨f, rfl, h1, _, _⟩ := starts_upd h
  rw [State.core_updCore_same hc, h1]

theorem starts_region (h : Starts c u i s x s0) (hc : CoresOk s) : (s0.core c).region = (s.core c).region := by
  obtain ⟨f, rfl, _, h2, _⟩ := starts_upd h
  rw [State.core_updCore_same hc, h2]

theorem starts_ready (h : Starts c u i s x s0) (hc : CoresOk s) : (s0.core c).ready = (s.core c).ready := by
  obtain ⟨_, ⟨_, _, rfl⟩ | ⟨e, q, _, _, _, rfl⟩⟩ := h
  · rw [State.core_updCore_same hc]
  · rw [State.core_updCore_same hc]; cases u <;> rfl

/-- Everything outside the core is as it was at the start. -/
theorem starts_only (h : Starts c u i s x s0) (hc : CoresOk s) : OnlyCore c s s0 := by
  obtain ⟨f, rfl, _, _, _⟩ := starts_upd h
  exact updCore_only _ _ hc

/-- What an instruction whose effect is a change of registers does: it delivers them. -/
theorem delivers_wr (h : Starts c u i s x s0) (hc : CoresOk s) (g : Regs → Regs) :
    Delivers c u i x g s (delivered c i s (some (wr x g s0))) := by
  obtain ⟨hx, hu⟩ := starts_core h
  obtain ⟨f, e, h1, h2, h3, hf⟩ := starts_updCore h hc (fun k => k.writeRegs x g)
  have hw : wr x g s0 = s.updCore c fun k => (f k).writeRegs x g := by unfold wr; rw [hx]; exact e
  have hd : delivered c i s (some (wr x g s0)) = s.updCore c fun k => ((f k).writeRegs x g).deliver i s.cycle := by
    simp only [delivered, hw]
    exact State.updCore_updCore hc c _ _
  have hcore : (delivered c i s (some (wr x g s0))).core c = ((f (s.core c)).writeRegs x g).deliver i s.cycle := by
    rw [hd, State.core_updCore_same hc]
  refine ⟨?_, ?_, ?_, ?_, ?_, ?_⟩
  · rw [hcore, Core.deliver_regs]; simp [Core.writeRegs, h1]
  · rw [hcore, Core.deliver_region]; simp [Core.writeRegs, h2]
  · intro w
    have : ((s0.core c).writeRegs x g).queue w = (s0.core c).queue w := by cases w <;> rfl
    rw [hcore, Core.deliver_queue, hf, this, starts_queue h hc w]
  · have hr : ((f (s.core c)).writeRegs x g).ready = (s.core c).ready := by
      rw [hf]; exact starts_ready h hc
    rw [hcore]; exact Core.deliver_ready hr
  · rw [hcore]
    have := h3 (s.core c)
    rw [Core.deliver_eq]
    unfold FilesOnly at this ⊢; unfold Core.writeRegs; rw [this]
  · rw [hd]; exact updCore_only _ _ hc

end Sys2Proof.Laws
end

