-- ==== Sys2Proof/Tests/Slice0.lean ====
section
/-! SUPPORT. Tests of one step each, and, for every statement, a state and operands that meet its hypotheses together. -/

namespace Sys2Proof.Tests

set_option Elab.async false

open Sys2Proof.Machine Sys2Proof.Safety

/-! ### Canonical states, as a test that the kernel evaluates -/

/-- The five register files are in canonical form. -/
def filesOkB (r : Regs) : Bool :=
  SMap.wf (fun _ => (0 : Word)) r.g && SMap.wf (fun _ => (0 : Addr)) r.p && SMap.wf (fun _ => zeroLanes) r.v &&
    SMap.wf (fun _ => (0 : Word)) r.q && SMap.wf (fun _ => (none : Option Desc)) r.t

/-- The files of a core and of its shadow are in canonical form. -/
def coreOkB (k : Core) : Bool := filesOkB k.regs && (match k.region with | some r => filesOkB r.shadow | none => true)

/-- Every store of a state is in canonical form. -/
def canonicalB (s : State) : Bool :=
  SMap.wf (fun _ => (0 : Byte)) s.mem && SMap.wf (fun a => regReset a) s.regs && SMap.wf (fun _ => Ecc.ok) s.ecc &&
    SMap.wf (fun _ => (0 : Byte)) s.win && SMap.wf (fun _ => ({} : Core)) s.cores && (s.cores.all fun e => coreOkB e.2) &&
    SMap.wf (fun _ => ({} : LinkSt)) s.links && SMap.wf (fun _ => (0 : Nat)) s.fab.used && SMap.wf (fun _ => ({} : RedCtx)) s.red &&
    SMap.wf (fun _ => ({} : WitRun)) s.wit && SMap.wf (fun _ => (0 : Nat)) s.frostX && SMap.wf (fun _ => ({} : WiltCnt)) s.wlt &&
    SMap.wf (fun _ => (0 : Word)) s.subkeys

theorem filesOk_of {r : Regs} (h : filesOkB r = true) : FilesOk r := by
  simp only [filesOkB, Bool.and_eq_true] at h
  exact ⟨h.1.1.1.1, h.1.1.1.2, h.1.1.2, h.1.2, h.2⟩

theorem coreOk_of {k : Core} (h : coreOkB k = true) : CoreOk k := by
  simp only [coreOkB, Bool.and_eq_true] at h
  refine ⟨filesOk_of h.1, fun r hr => ?_⟩
  have := h.2; rw [hr] at this; exact filesOk_of this

theorem canonical_of {s : State} (h : canonicalB s = true) : Canonical s := by
  simp only [canonicalB, Bool.and_eq_true, List.all_eq_true] at h
  exact ⟨h.1.1.1.1.1.1.1.1.1.1.1.1, h.1.1.1.1.1.1.1.1.1.1.1.2, h.1.1.1.1.1.1.1.1.1.1.2, h.1.1.1.1.1.1.1.1.1.2,
    ⟨h.1.1.1.1.1.1.1.1.2, fun e he => coreOk_of (h.1.1.1.1.1.1.1.2 e he)⟩,
    ⟨h.1.1.1.1.1.1.2, h.1.1.1.1.1.2, h.1.1.1.1.2, h.1.1.1.2, h.1.1.2, h.1.2, h.2⟩⟩

/-! ### States -/

/-- A device that has started up and stands in PS2. -/
def up : State := { State.reset.setFld Fld.SMG_BOOT_STAGE 4 with pwr := { State.reset.pwr with released := true } }

/-- The started device with something in core 0. -/
def withCore (k : Core) : State := up.setCore 0 k

/-- What an instruction of core 0 that no bundle has issued works with. -/
def ctx0 (s : State) (u : UnitId) : Ctx := (s.core 0).ctx 0 u s.cycle

/-- The state such an instruction starts from. -/
def begun (s : State) : State := s.updCore 0 fun k => { k with issued := k.issued + 1 }

/-- A canonical state in which instruction `i` starts in unit `u` of core 0. -/
def Here (s : State) (u : UnitId) (i : Instr) : Prop := Canonical s ∧ Starts 0 u i s (ctx0 s u) (begun s)

theorem here {s : State} {u : UnitId} {i : Instr} (h : (canonicalB s && s.live && decide ((s.core 0).queue u = [])) = true) : Here s u i := by
  simp only [Bool.and_eq_true, decide_eq_true_eq] at h
  exact ⟨canonical_of h.1.1, h.1.2, .inl ⟨h.2, rfl, rfl⟩⟩

/-- A sample region of core 0. -/
def aRegion : Region := ⟨0, {}, [], [], false, [], [], []⟩

/-- A sample queue entry. -/
def entryOf (i : Instr) : QEntry := ⟨i, {}, 0, none, 0, 0⟩

/-! ### Illegal field values are refused (R172) -/

theorem test_ill_formed_refused :
    ([.drain 0 0 1 0 0 5 0 true false, .drain 0 0 1 0 0 2 3 true false, .drain 0 0 1 1 0 2 0 false false, .vld 0 0 0 0 5, .vst 0 0 0 0 5 0 0,
      .vst 0 0 0 0 0 3 0, .vadd 0 0 0 0 0 3, .vsub 0 0 0 0 0 3, .vmul 0 0 0 0 0 3, .vfma 0 0 0 0 0 0 3, .vexp 0 0 0 0 3, .vlog 0 0 0 0 3,
      .vrcp 0 0 0 0 3, .vrsq 0 0 0 0 3, .vcmp 0 1 0 0 6 0, .vcmp 0 0 0 0 0 0, .vcvt 0 0 0 5 0 0, .vcvt 0 0 0 0 3 0, .seed 0 0 0 0 0xC 0 false,
      .stash 0 0 3 false 0 0, .stash 0 0 0 false 1 0, .unstash 0 0 3 false 0, .jmp 0 0 false 0, .gets 0 0 9, .cmp 0 1 0 0 6, .cmp 0 0 0 0 0] :
      List Instr).all (fun i => !i.wellFormed && (match exec i up with | .fault .illegalEncoding => true | _ => false)) = true := by decide +kernel

theorem test_well_formed_accepted :
    ([.drain 0 0 1 2 3 0xD 2 true false, .drain 0 0 1 0 0 4 0 false true, .vld 0 0 0 0 4, .vst 0 0 0 0 4 2 7, .vadd 0 0 0 0 0 2, .vcmp 0 1 0 0 5 0,
      .vcvt 0 0 0 4 2 0, .seed 0 0 0 0 0xB 3 true, .stash 0 0 1 false 63 0, .stash 0 0 2 true 0 0, .unstash 0 0 2 false 0, .jmp 0 0 false 1,
      .gets 0 0 8, .cmp 0 1 0 0 5] : List Instr).all (·.wellFormed) = true := by decide

/-! ### Words of the encoding tables of chapter 6 -/

/-- The four words of Example 2 of chapter 6. -/
def example2 : BitVec 256 := 0x00000001C4000000#64 ++ 0#64 ++ 0x0000000000109950#64 ++ 0xC100000484010020#64

theorem test_bundle_of_example_2 : bundleSlots (decodeBundle 0 example2) =
    some [(.m, .mma 0 0 1 2 true), (.t, .drain 0 3 4 5 6 2 0 true false), (.c, .phase 0 7)] := by decide +kernel

theorem test_slot_words :
    decodeV 0 0x31043 = .ins (.vadd 0 1 2 3 0 0) ∧ decodeC 0 0x5123404B = .ins (.movi 0 1 0x1234 1 true) ∧
    decodeD 0 0xC842 = .ins (.dmovi 0 1 2 3) ∧ decodeD 0 0x30A843 = .ins (.stash 0 1 1 true 2 3) ∧
    decodeF 0 0x80141 = .ins (.send 0 5 2) ∧ decodeM 0 0x48401 = .ins (.mma 0 0 1 2 true) ∧
    decodeT 0 0x109950C1 = .ins (.drain 0 3 4 5 6 2 0 true false) := by decide +kernel

theorem test_slot_words_refused : decodeT 0 6 = .bad ∧ decodeC 0 0x100000004B = .bad ∧ decodeM 0 0x100000000 = .bad := by decide +kernel

/-! ### One step each -/

/-- The registers of core 0 after one instruction on a started device. -/
def after (r : Regs) (i : Instr) : Regs :=
  match exec i (withCore { regs := r }) with
  | .next t => (t.core 0).regs
  | _ => {}

theorem test_add_wraps : (after ((({} : Regs).setG 1 (-1)).setG 2 1) (.add 0 3 1 2)).gr 3 = 0 := by decide +kernel
theorem test_sub_borrows : (after (({} : Regs).setG 2 1) (.sub 0 2 1 2)).gr 2 = -1 := by decide +kernel
theorem test_sar_keeps_the_sign : (after ((({} : Regs).setG 1 (-8)).setG 2 65) (.sar 0 3 1 2)).gr 3 = -4 := by decide +kernel
theorem test_movi_keeps_the_rest : (after (({} : Regs).setG 1 (-1)) (.movi 0 1 0 1 true)).gr 1 = 0xFFFFFFFF0000FFFF := by decide +kernel
theorem test_cmp_less_signed : (after (({} : Regs).setG 1 (-1)) (.cmp 0 1 1 2 2)).qr 1 = BitVec.allOnes 64 := by decide +kernel
theorem test_padd_wraps_at_48 : (after ((({} : Regs).setP 1 0xFFFFFFFFFFFF).setG 1 1) (.padd 0 2 1 1)).pr 2 = 0 := by decide +kernel
theorem test_vsplat : lane ((after (({} : Regs).setG 1 0x3F800000) (.vsplat 0 4 1)).vr 4) 63 = 0x3F800000 := by decide +kernel
theorem test_vadd_of_one_and_one : toLane 0 ((laneVal 0x3F800000).add (laneVal 0x3F800000)) = 0x40000000 := by decide +kernel
theorem test_vexp_of_zero : toLane 0 (laneVal 0).exp = 0x3F800000 := by decide +kernel
theorem test_vrsq_of_four : toLane 0 (laneVal 0x40800000).rsq = 0x3F000000 := by decide +kernel

/-- The known answer of Philox4x32-10 for key and counter zero. -/
theorem test_philox_known_answer : philoxWord 0 0 0 = 0x6627E8D5 ∧ philoxWord 0 0 3 = 0x9B00DBD8 := by decide +kernel

/-- The first example of FIPS 180-4: SHA-256 of "abc". -/
theorem test_sha256_of_abc : (sha256 [0x61, 0x62, 0x63]).take 4 = [0xBA, 0x78, 0x16, 0xBF] := by decide +kernel

theorem test_reset_queue_is_empty : State.reset.pending = [] := by decide

/-! ### The queue, scalar instructions and control flow -/

theorem witness_EmptyQueuePassesOneCycle : up.pending = [] ∧ State.reset.awake = true ∧ up.awake = true ∧
    (up.tim.slewLeft = 0 ∧ up.tim.now ≤ up.tim.edgeIn 1 ∧ up.tim.pulse = none) ∧
    ({ up with pwr := { up.pwr with supplied := false } } : State).awake = false ∧
    (∀ q ∈ [((65 : Int), (65 : Int)), (-65, -66), (1, 5), (65, 1)], ({ up with tim := { up.tim with slewRate := q.1, slewLeft := q.2 } } : State).awake = true ∧
      q.1.natAbs ≤ 65 ∧ 0 < q.1 * q.2 ∧ ({ up.tim with slewRate := q.1, slewLeft := q.2 } : Tim).now ≤ ({ up.tim with slewRate := q.1, slewLeft := q.2 } : Tim).edgeIn 1) ∧
    ({ up.tim with now := 327680, slewRate := -65, slewLeft := -65 } : Tim).edgeIn 1 < 327680 := by decide +kernel

theorem witness_OnlyIllegalEncodingsStop : (Instr.vcmp 0 1 1 1 6 0).wellFormed = false ∧ entryRow (.send 0 0 0) = some (0, 0, 1) ∧
    up.live = true ∧ (up.core 0).xferOf 0 1 = none := by decide +kernel

theorem witness_CommandsKeepTheQueue : Canonical up ∧ ∃ t, exec .discardQ up = .next t := ⟨canonical_of (by decide +kernel), _, rfl⟩

theorem witness_StepsKeepCanonicalForm : Canonical { up with pending := [.discardQ] } ∧ ∃ t, step { up with pending := [.discardQ] } = .next t :=
  ⟨canonical_of (by decide +kernel), _, rfl⟩

theorem witness_ScalarRowsWriteOneG :
    Here up .c (.movi 0 63 0xFFFF 3 true) ∧ (scalarRow (.movi 0 63 0xFFFF 3 true)).isSome ∧ Here up .c (.sar 0 63 1 2) ∧
    (scalarRow (.sar 0 63 1 2)).isSome ∧
    (∃ s x s0, Canonical s ∧ Starts 0 .c (.add 0 1 2 3) s x s0 ∧ (s.core 0).queue .c = [entryOf (.add 0 1 2 3)]) :=
  ⟨here (by decide +kernel), rfl, here (by decide +kernel), rfl, withCore { uC := [entryOf (.add 0 1 2 3)] }, _, _,
    canonical_of (by decide +kernel), ⟨by decide +kernel, .inr ⟨_, _, rfl, rfl, rfl, rfl⟩⟩, rfl⟩

theorem witness_WritesOfG0AndQ0AreIgnored : Here up .c (.add 0 0 2 3) ∧ (scalarRow (.add 0 0 2 3)).isSome := ⟨here (by decide +kernel), rfl⟩

/-- Core 0 with an accumulator descriptor in t1, in the last row that its shape allows, slot 63 selected and a region open. -/
def withDesc : State :=
  withCore { regs := (({} : Regs).setT 1 { (Desc.decode 0) with role := 1, row0 := 0xFFFFF0 }).setG 1 1, region := some aRegion }

theorem witness_AddressAndSpecialRowsWrite :
    Here up .c (.cmp 0 7 63 62 5) ∧ Here up .c (.padd 0 15 14 63) ∧ Here up .c (.pset 0 15 63) ∧ Here up .c (.tld 0 15 0) ∧
    Here up .c (.slot 0 63) ∧ Here up .c (.gets 0 63 8) ∧
    (Here withDesc .c (.tadj 0 1 3 1) ∧ (((withDesc.core 0).regs.tr 1).bind fun d => d.adjust 3 ((withDesc.core 0).regs.gr 1)).isSome) ∧
    (Here withDesc .c (.tadj 0 1 2 1) ∧ (((withDesc.core 0).regs.tr 1).bind fun d => d.adjust 2 ((withDesc.core 0).regs.gr 1)) = none) ∧
    (Here up .c (.tadj 0 1 7 1) ∧ (up.core 0).regs.tr 1 = none) ∧
    (∀ n : BitVec 3, n.toNat ≤ 5 → (({ Desc.decode 0 with role := if n = 2 ∨ n = 3 then 1 else 0 } : Desc).adjust n 0).isSome) ∧
    (Here up .c (.posadd 0 0xFFFF) ∧ up.fld (Fld.SCN_SLOT_ID_BOUND 0) ≠ 1) ∧
    (Here (up.setFld (Fld.SCN_SLOT_ID_BOUND 0) 1) .c (.posadd 0 1) ∧
      inWings (ctx0 (up.setFld (Fld.SCN_SLOT_ID_BOUND 0) 1) .c) (begun (up.setFld (Fld.SCN_SLOT_ID_BOUND 0) 1)) = false) ∧
    (Here (withDesc.setFld (Fld.SCN_SLOT_ID_BOUND 0) 1) .c (.posadd 0 1) ∧
      inWings (ctx0 withDesc .c) (begun (withDesc.setFld (Fld.SCN_SLOT_ID_BOUND 0) 1)) = true) := by
  refine ⟨here ?_, here ?_, here ?_, here ?_, here ?_, here ?_, ⟨here ?_, ?_⟩, ⟨here ?_, ?_⟩, ⟨here ?_, ?_⟩, ?_, ⟨here ?_, ?_⟩, ⟨here ?_, ?_⟩,
    ⟨here ?_, ?_⟩⟩ <;> decide +kernel

theorem witness_ControlFlowAndPhaseRows :
    Here up .c (.loop 0 0xFFFF 0xFF) ∧ Here up .c (.jmp 0 7 true 1) ∧ Here up .c (.wait 0 0) ∧
    (Here (withCore { phases := List.replicate 255 [] }) .c (.phase 0 0xFFFF) ∧
      ((withCore { phases := List.replicate 255 [] }).core 0).phases.length < 256) ∧
    (Here (withCore { phases := List.replicate 256 [] }) .c (.phase 0 0) ∧
      256 ≤ ((withCore { phases := List.replicate 256 [] }).core 0).phases.length) := by
  refine ⟨here ?_, here ?_, here ?_, ⟨here ?_, ?_⟩, ⟨here ?_, ?_⟩⟩ <;> decide +kernel

/-- Core 0 before its first bundle, that of Example 2, here with or without SPEC, in a book area of 4,096 bytes. -/
def atBundle (spec : Bool) : State :=
  let k : Core := { atCueWait := false, book := some ⟨0, [], true, 4096, 0, 0, [], [], [], [], [], 0⟩ }
  { (withCore k).write (bundleAddr 0 k 0) (leBytes 32 (example2.toNat + 16 * b2n spec)) with tim := { up.tim with now := 2 ^ 40 } }

/-- The start of a scene of core 0, whose first bundle issues at once. -/
theorem witness_BundleIssues (spec : Bool) :
    Canonical (atBundle spec) ∧ canIssue (atBundle spec) ((atBundle spec).core 0) = true ∧
    (atBundle spec).uncorr (bundleAddr 0 ((atBundle spec).core 0) 0) 32 = false ∧
    (atBundle spec).corrCount (bundleAddr 0 ((atBundle spec).core 0) 0) 32 = 0 ∧
    ∃ b ins, b = decodeBundle 0 (BitVec.ofNat 256 ((atBundle spec).le (bundleAddr 0 ((atBundle spec).core 0) 0) 32)) ∧ bundleSlots b = some ins ∧
      ins.length = 3 ∧ b.hdr.spec = spec ∧ doubleWrite ins = false ∧ ((atBundle spec).core 0).region = none ∧
      ((atBundle spec).core 0).pendingRegs.contains (.q b.hdr.pq.toNat) = false ∧ issueWaits ((atBundle spec).core 0) ins = false ∧
      issueAt ((atBundle spec).core 0) b ins = 0 := by
  cases spec
  · exact ⟨canonical_of (by decide +kernel), by decide +kernel, by decide +kernel, by decide +kernel, _,
      [(.m, .mma 0 0 1 2 true), (.t, .drain 0 3 4 5 6 2 0 true false), (.c, .phase 0 7)], rfl, by decide +kernel⟩
  · exact ⟨canonical_of (by decide +kernel), by decide +kernel, by decide +kernel, by decide +kernel, _,
      [(.m, .mma 0 0 1 2 true), (.t, .drain 0 3 4 5 6 2 0 true false), (.c, .phase 0 7)], rfl, by decide +kernel⟩

/-! ### The vector unit and the Trellis -/

theorem witness_VectorRowsWriteLanesUnderQ :
    Here up .v (.vadd 0 31 30 29 7 2) ∧ (laneRow (.vadd 0 31 30 29 7 2)).isSome ∧ (Instr.vadd 0 31 30 29 7 2).wellFormed = true ∧
    Here up .v (.vmin 0 0 0 0 0) ∧ (laneRow (.vmin 0 0 0 0 0)).isSome ∧
    (∃ (r : Regs) (v : BitVec 5), v ∈ laneSources (.vadd 0 31 30 29 7 2) ∧ (laneVal (lane (r.vr v) 63)).isNan = true) := by
  refine ⟨here ?_, ?_, ?_, here ?_, ?_, ({} : Regs).setV 29 (List.replicate 64 0x7FC00001), 29, ?_⟩ <;> decide +kernel

theorem witness_VectorRowsOfOneResult :
    Here up .v (.vcmp 0 7 1 2 5 7) ∧ Here up .v (.vsel 0 31 1 2 1) ∧ Here up .v (.vsplat 0 31 63) ∧ Here up .v (.vamax 0 63 1 0) ∧
    Here up .v (.seed 0 31 63 0xFFFF 11 3 true) ∧ (Here up .v (.vcvt 0 31 1 4 2 0) ∧ (fmtElem 4).isSome) ∧
    (Here (withCore { regs := ({} : Regs).setV 1 (List.replicate 64 0x7F7FFFFF) }) .v (.vcvt 0 2 1 2 0 0) ∧ ∃ el, fmtElem 2 = some el ∧
      (({} : Regs).qr 0).getLsbD 0 = true ∧ (convert el 0 (laneVal 0x7F7FFFFF)).ovf = true) := by
  refine ⟨here ?_, here ?_, here ?_, here ?_, here ?_, ⟨here ?_, ?_⟩, ⟨here ?_, .e4m3, ?_⟩⟩ <;> decide +kernel

/-- p1 of core 0 at its last 256 bytes below the book area. -/
def withPtr (region : Option Region) : State := withCore { regs := ({} : Regs).setP 1 (BitVec.ofNat 48 (scrBase 0 + scrSize - 256)), region := region }

theorem witness_VectorLoadsAndStores :
    (Here (withPtr none) .v (.vld 0 31 1 0 0) ∧ Clean (withPtr none) ∧
      Readable (ctx0 (withPtr none) .v) (begun (withPtr none)) (vecAddr (((withPtr none).core 0).regs.pr 1) 0) 256) ∧
    (Here (withPtr none) .v (.vst 0 31 1 0 0 2 7) ∧ inWings (ctx0 (withPtr none) .v) (begun (withPtr none)) = false ∧
      Writable (ctx0 (withPtr none) .v) (begun (withPtr none)) (vecAddr (((withPtr none).core 0).regs.pr 1) 0) 256) ∧
    (Here (withPtr (some aRegion)) .v (.vst 0 31 1 0 0 2 7) ∧ inWings (ctx0 (withPtr (some aRegion)) .v) (begun (withPtr (some aRegion))) = true ∧
      inWingsArea (begun (withPtr (some aRegion))) 0 (vecAddr (((withPtr (some aRegion)).core 0).regs.pr 1) 0) 256 = false) := by
  refine ⟨⟨here ?_, ⟨rfl, rfl⟩, ?_, ?_, ?_⟩, ⟨here ?_, ?_, ?_⟩, ⟨here ?_, ?_, ?_⟩⟩ <;> first | decide +kernel | (unfold Writable; decide +kernel)

/-- Accumulator descriptor of 16 x 16 elements. -/
def accD : Desc := { Desc.decode 0 with role := 1 }
/-- Operand of 16 lines of 32 elements of 8 bits at the start of core 0's scratchpad. -/
def opD : Desc := { Desc.decode 0 with fmt := 2, klen := 31, addr := BitVec.ofNat 48 (scrBase 0), stride := 32 }
/-- The same operand across lines. -/
def opTD : Desc := { opD with bdim := true }
/-- A 16 x 16 tile at granule 0, not drained. -/
def aTile : Tile := newTile accD 0 none
/-- The descriptors in t0 to t3, with a tile or none. -/
def withTile (tiles : List Tile) : State :=
  withCore { regs := ((({} : Regs).setT 0 accD).setT 1 opD).setT 2 opTD, tiles := tiles }

/-- The multiply of `withTile` with both operands along lines, or B across. -/
def opOf (ta tb : Bool) (d2 : Desc) : MmaOp := ⟨accD, opD, d2, ta, tb, 0, 0xFFFFFFFF, none⟩

theorem witness_MultipliesSendOrStop :
    (Here (withTile []) .m (.mma 0 0 1 1 true) ∧ Clean (withTile []) ∧ mmaLegal (opOf false false opD) = true ∧
      tileLegal ((withTile []).core 0) accD true = true ∧ ((withTile []).core 0).regs.tr 0 = some accD ∧ ((withTile []).core 0).regs.tr 1 = some opD ∧
      earlierOnTile (ctx0 (withTile []) .m) 0 (begun (withTile [])) = false ∧ tileOwned (ctx0 (withTile []) .m) accD true (begun (withTile [])) = true ∧
      ∀ r ∈ opD.operandRanges false ++ opD.operandRanges false, Readable (ctx0 (withTile []) .m) (begun (withTile [])) r.1 r.2) ∧
    (Here (withTile [aTile]) .m (.mmat 0 0 1 2 false true) ∧ Clean (withTile [aTile]) ∧ mmaLegal (opOf false true opTD) = true ∧
      tileLegal ((withTile [aTile]).core 0) accD false = true ∧ ((withTile [aTile]).core 0).regs.tr 2 = some opTD ∧
      earlierOnTile (ctx0 (withTile [aTile]) .m) 0 (begun (withTile [aTile])) = false ∧
      tileOwned (ctx0 (withTile [aTile]) .m) accD false (begun (withTile [aTile])) = true ∧
      ∀ r ∈ opD.operandRanges false ++ opTD.operandRanges true, Readable (ctx0 (withTile [aTile]) .m) (begun (withTile [aTile])) r.1 r.2) ∧
    (Here (withTile [aTile]) .m (.mma 0 0 1 1 true) ∧ tileLegal ((withTile [aTile]).core 0) accD true = false ∧
      ((withTile [aTile]).core 0).regs.tr 0 = some accD ∧ earlierOnTile (ctx0 (withTile [aTile]) .m) 0 (begun (withTile [aTile])) = false) ∧
    (∃ s, s = (withTile [aTile]).updCore 0 (fun k => { k with region := some aRegion }) ∧ Here s .m (.mma 0 0 1 1 false) ∧
      tileLegal (s.core 0) accD false = true ∧ tileOwned (ctx0 s .m) accD false (begun s) = false) ∧
    (Here up .m (.mma 0 0 1 2 false) ∧ (up.core 0).regs.tr 0 = none) := by
  refine ⟨⟨here ?_, ⟨rfl, rfl⟩, ?_, ?_, ?_, ?_, ?_, ?_, ?_⟩, ⟨here ?_, ⟨rfl, rfl⟩, ?_, ?_, ?_, ?_, ?_, ?_⟩, ⟨here ?_, ?_, ?_, ?_⟩,
    ⟨_, rfl, here ?_, ?_, ?_⟩, ⟨here ?_, ?_⟩⟩ <;>
    first | decide +kernel | (unfold Readable; decide +kernel)

theorem witness_ExactReductionsSendTheirLanes :
    (Here (withTile []) .t (.vxsum 0 0 1 0 true 15 15 0) ∧ fenceHeld ((withTile []).core 0) = false ∧ accD.isAcc = true ∧ accD.acc = false ∧
      15 < accD.nRows ∧ 15 < accD.nCols ∧ tileLegal ((withTile []).core 0) accD true = true ∧ ((withTile []).core 0).regs.tr 0 = some accD ∧
      earlierOnTile (ctx0 (withTile []) .t) 0 (begun (withTile [])) = false ∧ (withTile []).inj = [] ∧ accD.nRows ≤ 16 ∧ accD.nCols ≤ 16) ∧
    (Here (withTile [aTile]) .t (.vxacc 0 0 1 0 false 0 false 0) ∧ tileLegal ((withTile [aTile]).core 0) accD false = true ∧
      earlierOnTile (ctx0 (withTile [aTile]) .t) 0 (begun (withTile [aTile])) = false ∧ accD.nCols ≤ 64 * b2n true) := by
  refine ⟨⟨here ?_, ?_⟩, ⟨here ?_, ?_⟩⟩ <;> decide +kernel

/-- A partial of one term, 1.0 in element (15, 15) of the tile at granule 0. -/
def aPartial : PPartial := ⟨0, 15, 15, 0, 1, false, false, false, false, some 0, [⟨1, 0, 1⟩], true, 0, 0, none, 0⟩

/-- The same tile in the C160 format. -/
def cTile : Tile := newTile { accD with acc := true } 0 none

theorem witness_PartialsAreAddedExactly :
    (∀ tiles ∈ [[], [aTile], [cTile]], canonicalB (withCore { tiles := tiles, inflight := [aPartial] }) = true ∧
      (withCore { tiles := tiles, inflight := [aPartial] }).live = true) ∧
    ((withCore { inflight := [aPartial] }).core 0).tile aPartial.granule = none ∧
    (∀ l ∈ [aTile, cTile], ((withCore { tiles := [l], inflight := [aPartial] }).core 0).tile aPartial.granule = some l ∧
      aPartial.row < l.rows ∧ aPartial.col < l.cols ∧ l.granule + granulesOf l.c160 l.rows l.cols ≤ 512 ∧ l.rows * l.cols % perGranule l.c160 = 0) ∧
    aTile.c160 = false ∧ cTile.c160 = true := by decide +kernel

/-- Destination of 16 x 16 elements of FP8 E4M3 at the start of core 0's scratchpad. -/
def dstD : Desc := { Desc.decode 0 with role := 2, fmt := 2, addr := BitVec.ofNat 48 (scrBase 0), stride := 16 }
/-- Core 0 with a tile, its descriptor in t0 and a destination in t1. -/
def drainable (t : Tile) : State :=
  withCore { regs := ((({} : Regs).setT 0 { accD with addr := BitVec.ofNat 48 (scrBase 0) }).setT 1 dstD), tiles := [t] }

/-- The accumulator descriptor of `drainable`. -/
def drainD : Desc := { accD with addr := BitVec.ofNat 48 (scrBase 0) }

/-- A DRAIN of the tile. -/
def aDrain (keep : Bool) : Instr := .drain 0 0 1 0 0 2 2 false keep

/-- The tile and the descriptors that `aDrain` works with. -/
def drained3 (s : State) (r : Regs) : Option (Tile × Desc × Desc) := (drainArgs (s.core 0) r 0 1 0 0 2 false).map fun q => (q.1, q.2.1, q.2.2.1)

theorem witness_DrainSpillAndFillMoveATile :
    (∀ t ∈ [{ aTile with inflight := 1 }, aTile, { aTile with promoted := true }, { aTile with settled := 1000 }], ∀ keep : Bool,
      Here (drainable t) .t (aDrain keep) ∧
      (aDrain keep).wellFormed = true ∧ fenceHeld ((drainable t).core 0) = false ∧ behindOther (ctx0 (drainable t) .t) 0 (begun (drainable t)) = false ∧
      drained3 (drainable t) ((drainable t).core 0).regs = some (t, drainD, dstD) ∧
      ((drainable t).core 0).fenceShut t 0 = decide (t.inflight = 1)) ∧
    (Here up .t (aDrain false) ∧ fenceHeld (up.core 0) = false ∧ behindOther (ctx0 up .t) 0 (begun up) = false ∧
      drained3 up (up.core 0).regs = none) ∧
    (Clean (drainable aTile) ∧ inWings (ctx0 (drainable aTile) .t) (begun (drainable aTile)) = false ∧
      ∀ r ∈ dstD.dstRanges, Writable (ctx0 (drainable aTile) .t) (begun (drainable aTile)) r.1 r.2) ∧
    (∀ t ∈ [{ aTile with inflight := 1 }, aTile, { aTile with promoted := true }], Here (drainable t) .t (.spill 0 0) ∧
      tileFor ((drainable t).core 0) drainD = some t ∧ ((drainable t).core 0).regs.tr 0 = some drainD) ∧
    Writable (ctx0 (drainable aTile) .t) (begun (drainable aTile)) (scrBase 0) (96 * (16 * 16)) ∧
    (Here up .t (.spill 0 0) ∧ (up.core 0).regs.tr 0 = none) := by
  refine ⟨?_, ⟨here ?_, ?_⟩, ⟨⟨rfl, rfl⟩, ?_, ?_⟩, ?_, ?_, ⟨here ?_, ?_⟩⟩
  · intro t ht keep
    refine ⟨here ?_, ?_⟩ <;> revert keep t <;> decide +kernel
  · decide +kernel
  · decide +kernel
  · decide +kernel
  · unfold Writable; decide +kernel
  · intro t ht
    refine ⟨here ?_, ?_⟩ <;> revert t <;> decide +kernel
  · unfold Writable; decide +kernel
  all_goals decide +kernel

theorem witness_FillsPutATileBack :
    (∀ spilled ∈ [[], [(scrBase 0, true)]], ∃ s, s = (drainable { aTile with drained := true }).updCore 0 (fun k => { k with spilled := spilled }) ∧
      Here s .t (.fill 0 0) ∧ Clean s ∧ fenceHeld (s.core 0) = false ∧ behindOther (ctx0 s .t) 0 (begun s) = false ∧
      (s.core 0).regs.tr 0 = some drainD ∧ drainD.isAcc = true ∧ tileLegal (s.core 0) drainD true = true ∧ (s.core 0).spilled = spilled ∧
      Readable (ctx0 s .t) (begun s) (scrBase 0) (96 * (16 * 16))) ∧
    (∃ d, d = { drainD with acc := true } ∧ Here (withCore { regs := ({} : Regs).setT 0 d }) .t (.fill 0 0) ∧
      Clean (withCore { regs := ({} : Regs).setT 0 d }) ∧ tileLegal ((withCore { regs := ({} : Regs).setT 0 d }).core 0) d true = true ∧
      Readable (ctx0 (withCore { regs := ({} : Regs).setT 0 d }) .t) (begun (withCore { regs := ({} : Regs).setT 0 d }))
        (scrBase 0 + 64 * (16 * 16)) (32 * (16 * 16))) ∧
    (Here (drainable aTile) .t (.fill 0 0) ∧ Clean (drainable aTile) ∧ (drainD.isAcc && tileLegal ((drainable aTile).core 0) drainD true) = false) := by
  refine ⟨?_, ⟨_, rfl, here ?_, ⟨rfl, rfl⟩, ?_, ?_⟩, ⟨here ?_, ⟨rfl, rfl⟩, ?_⟩⟩
  · intro l hl
    refine ⟨_, rfl, here ?_, ⟨rfl, rfl⟩, ?_⟩ <;> revert l <;> (try unfold Readable) <;> decide +kernel
  all_goals first | decide +kernel | (unfold Readable; decide +kernel)

/-- A comparison that guards 64 bytes of core 0's scratchpad. -/
def aCmp (fail : Option (Nat × Nat × Nat × Nat)) (region : Option Nat) : Cmp := ⟨[(scrBase 0, 64)], fail, false, false, 0, 0, region, 0, 0, 0⟩

/-- Core 0 with an instruction of the T unit at the fence of the tile. -/
def fenced (i : Instr) (t : Tile) (replay : Option (Nat × Nat)) : State :=
  (drainable t).updCore 0 fun k => { k with tWait := [⟨{ entryOf i with regs := k.regs }, replay⟩] }

/-- The context of that instruction. -/
def fencedCtx (i : Instr) (t : Tile) : Ctx := { entryOf i with regs := ((drainable t).core 0).regs }.ctx 0 .t

/-- The state after it has left the fence. -/
def left (i : Instr) (t : Tile) (replay : Option (Nat × Nat)) : State :=
  leaveFence 0 ⟨{ entryOf i with regs := ((drainable t).core 0).regs }, replay⟩
    (match replay with | some (_, e) => advanceTo ((fenced i t replay).cycleAt e) (fenced i t replay) | none => fenced i t replay)

theorem witness_FenceAndResidueRowsAct :
    (Canonical up ∧ up.live = true ∧ (up.core 0).tWait.find? (fenceOpen (up.core 0)) = none) ∧
    (∀ q ∈ [(aTile, (none : Option (Nat × Nat))), ({ aTile with settled := 7 }, none), ({ aTile with promoted := true }, some (5, 9))],
      ∀ i ∈ [aDrain true, aDrain false, .spill 0 0], canonicalB (fenced i q.1 q.2) = true ∧ (fenced i q.1 q.2).live = true ∧
        ((fenced i q.1 q.2).core 0).tWait.find? (fenceOpen ((fenced i q.1 q.2).core 0)) =
          some ⟨{ entryOf i with regs := ((drainable q.1).core 0).regs }, q.2⟩ ∧
        i.wellFormed = true ∧ behindOther (fencedCtx i q.1) 0 (left i q.1 q.2) = false ∧
        drained3 (fenced i q.1 q.2) (fencedCtx i q.1).regs = some (q.1, drainD, dstD) ∧
        tileFor ((fenced i q.1 q.2).core 0) drainD = some q.1 ∧
        (fenced i q.1 q.2).ecc = [] ∧ (fenced i q.1 q.2).inj = [] ∧ replayReads q.1 = [] ∧
        (∀ r ∈ (scrBase 0, 96 * (16 * 16)) :: dstD.dstRanges, inWings (fencedCtx i q.1) (left i q.1 q.2) = false ∧
          ownScratchKind (left i q.1 q.2) 0 r.1 r.2 = none)) ∧
    portStart (fencedCtx (aDrain true) { aTile with settled := 7 }) ((fenced (aDrain true) { aTile with settled := 7 } none).core 0) < 7 ∧
    (∀ fail ∈ [none, some (0, 0, 1, 2)], ∀ region ∈ [none, some 0], ∀ open_ ∈ [none, some aRegion],
      canonicalB (withCore { cmps := [aCmp fail region], region := open_ }) = true ∧ (withCore { cmps := [aCmp fail region], region := open_ }).live = true ∧
      ((withCore { cmps := [aCmp fail region], region := open_ }).core 0).cmps.find? (fun m => !m.done) = some (aCmp fail region)) := by
  refine ⟨⟨canonical_of ?_, ?_⟩, ?_⟩ <;> decide +kernel

/-! ### The data mover, the Cold Frame and the port -/

/-- p1 at the start of core 0's scratchpad, p2 at a place in stack 0, and 2^26 + k in g1. -/
def movable (k : Int) : State :=
  withCore { regs := ((({} : Regs).setP 1 (BitVec.ofNat 48 (scrBase 0))).setP 2 64).setG 1 (BitVec.ofInt 64 k) }

/-- A transfer of core 0's data mover of two lines to stack 0. -/
def aMove (region : Option Nat) (moved : Nat) : DmXfer := ⟨scrBase 0, 128, 128, moved, false, region, 0, 0, 0, 0⟩

/-- Core 0 whose data mover runs that transfer. -/
def moving (region : Option Nat) (moved : Nat) : State := withCore { dm := [aMove region moved] }

theorem witness_DataMoverCopiesLines :
    (∀ k ∈ [(1 : Int), 0, 2 ^ 26 + 64], Here (movable k) .d (.dmov 0 1 2 1) ∧
      let n := (BitVec.ofInt 64 k).toNat % 2 ^ 32; ((movable k).core 0).regs.gr 1 = BitVec.ofInt 64 k ∧ (n % 64 ≠ 0 ∨ n < 64 ∨ 2 ^ 26 < n)) ∧
    (∀ i ∈ [Instr.dmov 0 1 2 1, .dmovi 0 2 1 0], Here (movable 64) .d i) ∧
    (moverKind (movable 64) (scrBase 0) 64 = none ∧ moverKind (movable 64) 64 64 = none ∧ bothStacks (movable 64) (scrBase 0) 64 = false ∧
      bothStacks (movable 64) 64 128 = true ∧ inWings (ctx0 (movable 64) .d) (begun (movable 64)) = false ∧
      mustWait (ctx0 (movable 64) .d) [(64, 64)] (begun (movable 64)) = false ∧
      mustWait (ctx0 (movable 64) .d) [(scrBase 0, 64)] (begun (movable 64)) = false) ∧
    (∃ s, s = (movable 64).updCore 0 (fun k => { k with dm := [⟨128, scrBase 0, 64, 0, false, none, 0, 0, 257, 0⟩], issued := 1 }) ∧
      Here s .d (.dmov 0 1 2 1) ∧ mustWait (ctx0 s .d) [(scrBase 0, 64)] (begun s) = true) ∧
    (∃ s, s = (movable 64).updCore 0 (fun k => { k with region := some aRegion }) ∧ Here s .d (.dmov 0 1 2 1) ∧ inWings (ctx0 s .d) (begun s) = true ∧
      specDest s 64 64 = false) ∧
    (∀ q ∈ [((none : Option Nat), 0), (none, 64), (some 0, 0)], canonicalB (moving q.1 q.2) = true ∧ (moving q.1 q.2).ecc = [] ∧
      (moving q.1 q.2).inj = [] ∧ (moving q.1 q.2).live = true ∧
      ((moving q.1 q.2).core 0).dm[0]? = some (aMove q.1 q.2) ∧ lineReady (moving q.1 q.2) 0 0 (aMove q.1 q.2) = true ∧
      earlierLine (moving q.1 q.2) 0 ((aMove q.1 q.2).time (moving q.1 q.2) 0).at_ = false ∧
      sourcePending (moving q.1 q.2) (scrBase 0 + q.2) 64 = false) ∧
    (lineReady (moving none 128) 0 0 (aMove none 128) = false) ∧
    (∃ s, s = (moving none 0).updCore 0 (fun k => { k with pend := [(scrBase 0 / 64, some (.src 1 2 3))] }) ∧ canonicalB s = true ∧
      sourcePending s (scrBase 0) 64 = true ∧ lineReady s 0 0 (aMove none 0) = true ∧ earlierLine s 0 ((aMove none 0).time s 0).at_ = false) := by
  refine ⟨?_, ?_, ?_, ⟨_, rfl, here ?_, ?_⟩, ⟨_, rfl, here ?_, ?_⟩, ?_, ?_, ⟨_, rfl, ?_⟩⟩
  · intro k hk
    refine ⟨here ?_, ?_⟩ <;> revert k <;> decide +kernel
  · intro i hi
    refine here ?_
    revert i; decide +kernel
  all_goals decide +kernel

/-- Core 0 with one plan entry of the Cold Frame. -/
def withPlan (e : CfEntry) : State := withCore { cf := [(5, e)] }
/-- A FILLING entry with one full page of 64-byte groups. -/
def fullPage : CfEntry := ⟨.filling, 2, false, 32, 0, [.frame 7]⟩

/-- A frame of which 8 pages are free, the others full pages of entry 5, with a spill that runs or none. -/
def fullFrame (running : Bool) : Core :=
  { cf := [(5, { fullPage with n := 4088 * 32, pages := (if running then CfLoc.spilling 0 0 else .frame 0) :: (List.range 4087).map fun i => .frame (i + 1) })] }

/-- A device whose core 0 has a region of one page, or none, in stack 0. -/
def spillable (k : Core) (pages : Nat) : State := (withCore k).setFld (Fld.CFR_OVF_SIZE_PAGES 0) pages

theorem witness_ColdFrameHoldsGroups :
    (∀ e ∈ [({ st := .evicted } : CfEntry), { st := .filling, n := 255, pages := [.frame 0] }, fullPage, { fullPage with st := .reading }],
      Here (withPlan e) .d (.stash 0 31 2 false 0 5) ∧ (Instr.stash 0 31 2 false 0 5).wellFormed = true ∧ Clean (withPlan e) ∧
      PlansOk ((withPlan e).core 0) ∧
      ((withPlan e).core 0).cfEntry 5 = e ∧ inWings (ctx0 (withPlan e) .d) (begun (withPlan e)) = false ∧ 8 < ((withPlan e).core 0).freeFrame ∧
      ((withPlan e).core 0).pickFrame.isSome) ∧
    (Here up .d (.stash 0 31 1 true 63 0xFFF) ∧ ((up.core 0).cfEntry 0xFFF).st = .empty ∧ (Instr.stash 0 31 1 true 63 0xFFF).wellFormed = true) ∧
    (∀ r ∈ [none, some aRegion], ∀ running : Bool, ∃ s, s = (withCore { fullFrame running with region := r }).setFld (Fld.CFR_OVF_SIZE_PAGES 0) 1 ∧
      Here s .d (.stash 0 31 2 false 0 6) ∧ PlansOk (s.core 0) ∧ Clean s ∧ (s.core 0).freeFrame ≤ 8 ∧
      (s.core 0).spillsRunning = (if running then 1 else 0) ∧ inWings (ctx0 s .d) (begun s) = r.isSome ∧
      (startSpill 0 (s.updCore 0 fun k => k.setCf 6 (opened {} 2 false))).isSome = (!running && r.isNone)) ∧
    (startSpill 0 ((spillable (fullFrame false) 0).updCore 0 fun k => k.setCf 6 (opened {} 2 false))).isNone = true ∧
    (∀ e ∈ [({ st := .evicted } : CfEntry), fullPage, { fullPage with st := .reading, rd := 31 }], Here (withPlan e) .d (.unstash 0 0 2 false 5) ∧
      PlansOk ((withPlan e).core 0) ∧ Clean (withPlan e) ∧
      ((withPlan e).core 0).cfEntry 5 = e ∧ ((withPlan e).core 0).region = none ∧
      (e.st ≠ .evicted → e.rd < e.n ∧ e.pages[e.rd / perPage e.enc e.ff]? = some (.frame 7))) ∧
    (Here (withPlan { fullPage with pages := [.ovf 0] }) .d (.unstash 0 0 2 false 5) ∧
      ((withPlan { fullPage with pages := [.ovf 0] }).core 0).cfEntry 5 = { fullPage with pages := [.ovf 0] }) ∧
    (Here up .d (.unstash 0 0 2 false 5) ∧ ((up.core 0).cfEntry 5).st = .empty ∧ inWings (ctx0 up .d) (begun up) = false) ∧
    (∃ k : Core, k = { cf := [(5, { fullPage with n := 4065 * 32, pages := (List.range 4065).map CfLoc.frame })] } ∧
      Canonical (spillable k 1) ∧ (spillable k 1).live = true ∧ k.freeFrame < 32 ∧ k.spillsRunning < 16 ∧ spillTarget k = some (5, 0, 0) ∧
      pickRegion 0 (spillable k 1) = some 0 ∧ pickRegion 0 (spillable k 0) = none) ∧
    (firstMove ((withPlan { fullPage with pages := [.spilling 7 3] }).core 0) (fun l => match l with | .spilling _ _ => true | _ => false) =
        some (5, 0, .spilling 7 3) ∧ canonicalB (withPlan { fullPage with pages := [.spilling 7 3] }) = true) ∧
    (firstMove ((withPlan { fullPage with pages := [.readback 3 7] }).core 0) (fun l => match l with | .readback _ _ => true | _ => false) =
        some (5, 0, .readback 3 7) ∧ canonicalB (withPlan { fullPage with pages := [.readback 3 7] }) = true) := by
  refine ⟨?_, ⟨here ?_, ?_⟩, ?_, ?_, ?_, ⟨here ?_, ?_⟩, ⟨here ?_, ?_⟩, ⟨_, rfl, canonical_of ?_, ?_⟩, ?_⟩
  · intro e he
    refine ⟨here ?_, ?_, ⟨rfl, rfl⟩, ?_, ?_⟩ <;> revert e <;> (try unfold PlansOk) <;> decide +kernel
  · decide +kernel
  · decide +kernel
  · intro r hr running
    refine ⟨_, rfl, here ?_, ?_, ⟨rfl, rfl⟩, ?_⟩ <;> revert running <;> revert r <;> (try unfold PlansOk) <;> decide +kernel
  · decide +kernel
  · intro e he
    refine ⟨here ?_, ?_, ⟨rfl, rfl⟩, ?_⟩ <;> revert e <;> (try unfold PlansOk) <;> decide +kernel
  all_goals decide +kernel

/-- The started device as node 9 with link 0 up, hop code 0 of bank 0 leading to it, and the last hop code of either bank not valid. -/
def net (s : State) : State :=
  ((((((s.setFld Fld.FAB_NODE_ID 9).setFld Fld.FAB_NODE_VALID 1).setFld (Fld.KL_STATUS_STATE 0) 6).setFld (Fld.KL_STATUS_UP 0) 1).setFld
    (Fld.FAB_HOPMAP_VALID 0) 1).setFld (Fld.FAB_HOPMAP_PORT 0) 0).setFld (Fld.FAB_HOPMAP_DATELINE 1) 1

/-- A transfer table entry of a kind, for 8,192 bytes to node 1 by hop code 0, with an outbound element 0 and an inbound element 1 that is due
600 cycles on. -/
def anEntry (kind : Nat) : XferEntry := ⟨kind, 1, 1, 1, 0, 5, 8192, 0, 0, 0, 2, 3, 4, [0, 0, 1, 0, 1, 0, 1, 0, 1, 0, 5, 0, 100, 0, 0, 0, 0x58, 2, 0, 0]⟩

/-- Core 0 with a book of one entry, a pointer to its scratchpad in p1 and the tile of t0. -/
def withXfer (kind : Nat) (k : Core) : State :=
  net (withCore { k with
    regs := ((({} : Regs).setP 1 (BitVec.ofNat 48 (scrBase 0))).setT 0 accD)
    tiles := [aTile], book := some ⟨0, [], true, 4096, 0, 0, [], [], [], [], [anEntry kind], 0⟩ })

/-- A transfer at the port. -/
def aXfer (i : Instr) : PortXfer := ⟨i, 0, scrBase 0, none, 0, none, 0, {}, true, true, true, [], none, 0, [], false, 0, 0, (0, [])⟩

theorem witness_PortRowsQueueATransfer :
    (∀ i ∈ [(Instr.send 0 0 1, 1), (.recv 0 0 1, 2), (.gather 0 0 1, 3)], Here (withXfer i.2 {}) .f i.1 ∧ (portRow i.1).isSome = true ∧
      ((withXfer i.2 {}).core 0).xferOf 0 i.2 = some (anEntry i.2) ∧ inWings (ctx0 (withXfer i.2 {}) .f) (begun (withXfer i.2 {})) = false ∧
      (((withXfer i.2 {}).core 0).regs.pr 1).toNat = scrBase 0 ∧ ownScratchKind (withXfer i.2 {}) 0 (scrBase 0) 8192 = none ∧
      ownScratchKind (begun (withXfer i.2 {})) 0 (scrBase 0) 8192 = none) ∧
    (∀ i ∈ [(Instr.send 0 0 1, 1), (.recv 0 0 1, 2), (.gather 0 0 1, 3), (.xred 0 0 0, 4)],
      Here (withXfer i.2 { region := some aRegion }) .f i.1 ∧
      inWings (ctx0 (withXfer i.2 { region := some aRegion }) .f) (begun (withXfer i.2 { region := some aRegion })) = true ∧
      inWingsArea (begun (withXfer i.2 { region := some aRegion })) 0 (scrBase 0) 8192 = false) ∧
    (∀ i ∈ [(Instr.send 0 0 2, 1), (.recv 0 0 2, 2)], Here (withXfer i.2 {}) .f i.1 ∧ (((withXfer i.2 {}).core 0).regs.pr 2).toNat = 0 ∧
      ownScratchKind (withXfer i.2 {}) 0 0 8192 ≠ none) ∧
    (∀ l ∈ [aTile, { aTile with inflight := 1 }, { aTile with rows := 1, cols := 1 }],
      ∃ s, s = (withXfer 4 {}).updCore 0 (fun k => { k with tiles := [l] }) ∧ Here s .f (.xred 0 0 0) ∧ (s.core 0).xferOf 0 4 = some (anEntry 4) ∧
        behindOther (ctx0 s .f) 0 (begun s) = false ∧ (s.core 0).regs.tr 0 = some accD ∧
        tileFor (s.core 0) accD = (if l.rows = 1 then none else some l) ∧ xredLegal (anEntry 4) l = decide (l.rows = 16)) ∧
    xredLegal { anEntry 4 with xdata := [255, 0, 2, 0] } aTile = false ∧
    (∀ i ∈ [(Instr.recv 0 0 1, 2), (.gather 0 0 1, 3)], ∀ w ∈ [{ aXfer i.1 with lastSeq := some 1, seqs := [1, 0] }, { aXfer i.1 with lastSeq := some 1, seqs := [1] }, aXfer i.1],
      canonicalB (withXfer i.2 { port := [w] }) = true ∧ ((withXfer i.2 { port := [w] }).core 0).portOf 0 i.2 = some w) ∧
    (∀ n ∈ [0, 1], canonicalB (withXfer 4 { port := [{ aXfer (.xred 0 0 0) with added := n }] }) = true ∧
      ((withXfer 4 { port := [{ aXfer (.xred 0 0 0) with added := n }] }).core 0).portOf 0 4 = some { aXfer (.xred 0 0 0) with added := n } ∧
      (anEntry 4).inStreams * (anEntry 4).inCount = 1) := by
  refine ⟨?_, ?_, ?_, ?_, ?_⟩
  · intro i hi
    refine ⟨here ?_, ?_⟩ <;> revert i <;> decide +kernel
  · intro i hi
    refine ⟨here ?_, ?_⟩ <;> revert i <;> decide +kernel
  · intro i hi
    refine ⟨here ?_, ?_⟩ <;> revert i <;> decide +kernel
  · intro l hl
    refine ⟨_, rfl, here ?_, ?_⟩ <;> revert l <;> decide +kernel
  · decide +kernel

/-- An XRED whose tile is complete waits at the fence. -/
theorem witness_FenceReleaseOfAnXred : ∃ s : State, ∃ f : FenceOp,
    f = ⟨{ entryOf (.xred 0 0 0) with regs := ((withXfer 4 {}).core 0).regs }, none⟩ ∧
    s = (withXfer 4 { port := [{ aXfer (.xred 0 0 0) with acc := some accD, fence := false, sent := false }] }).updCore 0 (fun k => { k with tWait := [f] }) ∧
    Canonical s ∧ s.live = true ∧ (s.core 0).tWait.find? (fenceOpen (s.core 0)) = some f ∧
    (s.core 0).portOf 0 4 = some { aXfer (.xred 0 0 0) with acc := some accD, fence := false, sent := false } ∧
    f.granule.bind (s.core 0).tile = some aTile := by
  refine ⟨_, _, rfl, rfl, canonical_of ?_, ?_⟩ <;> decide +kernel

/-- The transfer of a kind at the port of core 0, 256 cycles after a cue. -/
def atAnchor (w : PortXfer) (kind : Nat) : State :=
  { withXfer kind { port := [w] } with tim := { up.tim with now := 256 * 327680, edge := 256 * 327680, ticks := 256 } }

/-- An XRED at its anchor, with the fence behind it, and payloads that launch late. -/
def xredHere (rest : List (List Byte)) : PortXfer := { aXfer (.xred 0 0 0) with acc := some accD, sent := false, rest := (1, rest) }

theorem witness_TransfersLaunchTheirPackets :
    (∀ q ∈ [({ aXfer (.send 0 0 1) with sent := false }, 1), ({ aXfer (.gather 0 0 1) with sent := false, inOn := false }, 3), (xredHere [], 4)],
      canonicalB (atAnchor q.1 q.2) = true ∧ (atAnchor q.1 q.2).ecc = [] ∧ (atAnchor q.1 q.2).inj = [] ∧
      (atAnchor q.1 q.2).live = true ∧ portWith 0 0 (atAnchor q.1 q.2) = some (q.1, anEntry q.2) ∧
      nextAnchor (anEntry q.2) (atAnchor q.1 q.2).cycle = some 0 ∧ (anEntry q.2).anchor = 0 ∧
      portMeets 0 (if (anEntry q.2).kind = 4 then launchSpans 0 (anEntry q.2) 0 else entrySpans 0 (anEntry q.2))
        (advanceTo ((atAnchor q.1 q.2).cycleAt 0) (atAnchor q.1 q.2)) = false ∧
      firstFree (takenSpans (atAnchor q.1 q.2) ++ (atAnchor q.1 q.2).fab.spans) (launchSpans 0 (anEntry q.2)) 900000 1 = some 1 ∧
      launchTest (atAnchor q.1 q.2) 0 1 24 (some 0) = .ok 0 ∧
      (ownScratchKind (advanceTo ((atAnchor q.1 q.2).cycleAt 0) (atAnchor q.1 q.2)) 0 (scrBase 0) 8192 = none ∧
        mustWait (q.1.ctx 0) [(scrBase 0, 8192)] (advanceTo ((atAnchor q.1 q.2).cycleAt 0) (atAnchor q.1 q.2)) = false ∧
        pendingSource (advanceTo ((atAnchor q.1 q.2).cycleAt 0) (atAnchor q.1 q.2)) 0 (scrBase 0) 8192 = false)) ∧
    ((anEntry 4).inAnchor = 600 ∧ (xredHere []).fence = true ∧ (xredHere []).sent = false) ∧
    (∃ s, s = (atAnchor { aXfer (.send 0 0 1) with sent := false } 1).setFld (Fld.FAB_HOPMAP_VALID 0) 0 ∧ Canonical s ∧
      launchTest s 0 1 24 (some 0) ≠ .ok 0) ∧
    (∃ s p, s = { atAnchor { aXfer (.recv 0 0 1) with inOn := false } 2 with fab := { rx := [⟨0, .data p, 0⟩] } } ∧ Canonical s ∧
      portWith 0 0 s = some ({ aXfer (.recv 0 0 1) with inOn := false }, anEntry 2) ∧ inboundHere s 0 5 = true ∧
      portMeets 0 (entrySpans 0 (anEntry 2)) (advanceTo (s.cycleAt 0) s) = false) ∧
    (portWith 0 0 (atAnchor (xredHere [[1]]) 4) = some (xredHere [[1]], anEntry 4) ∧ (xredHere [[1]]).rest.2 ≠ [] ∧
      firstFree (takenSpans (atAnchor (xredHere [[1]]) 4) ++ (atAnchor (xredHere [[1]]) 4).fab.spans)
        (outSpans 0 0 (wireBytes ((xredHere [[1]]).rest.2.map (·.length)).sum)) 900000 1 = some 1) := by
  refine ⟨?_, ?_, ⟨_, rfl, canonical_of ?_, ?_⟩,
    ⟨_, ⟨3, false, false, false, 0, 1, 1, 1, 9, 1, 3, 4, 0, 5, 0, 0, true, 0, 0, []⟩, rfl, canonical_of ?_, ?_⟩, ?_⟩ <;> decide +kernel

/-! ### Regions -/

theorem witness_RegionsConfirmOrSquash :
    (∀ r ∈ [none, some aRegion], Here (withCore { region := r }) .c (.confirm 0 1) ∧ Here (withCore { region := r }) .c (.squash 0)) ∧
    aRegion.sent = [] ∧
    (∀ r ∈ [aRegion, { aRegion with fault := true }, { aRegion with trigs := [⟨0, 0, 0, false, 0⟩] }],
      Canonical (withCore { region := some r, confirm := some (entryOf (.confirm 0 63), 63) }) ∧
      (withCore { region := some r, confirm := some (entryOf (.confirm 0 63), 63) }).live = true ∧
      regionDone ((withCore { region := some r, confirm := some (entryOf (.confirm 0 63), 63) }).core 0) r = true) ∧
    (regionDone ((withCore { region := some aRegion, confirm := some (entryOf (.confirm 0 1), 1), inflight := [{ aPartial with region := some 0 }] }).core 0)
      aRegion = false) := by
  refine ⟨?_, rfl, ?_, ?_⟩
  · intro r hr
    refine ⟨here ?_, here ?_⟩ <;> revert r <;> decide +kernel
  · intro r hr
    refine ⟨canonical_of ?_, ?_⟩ <;> revert r <;> decide +kernel
  · decide +kernel

/-- Core 0 with an ADMIT of entry 0 that waits, and what it holds of the source region. -/
def admitting (sources : List SrcRegion) : State := withXfer 5 { admitOp := some (entryOf (.admitRegion 0 63 0), 63, 0), sources := sources }

theorem witness_AdmitWaitsForItsSource :
    (Here (withXfer 5 {}) .c (.admitRegion 0 63 0) ∧ ((withXfer 5 {}).core 0).xferOf 0 5 = some (anEntry 5)) ∧
    (∀ n ∈ [none, some (0, [(5, 2)]), some (1, []), some (0, [(5, 3)])], Canonical (admitting [⟨2, 3, 4, n, [(5, 2)]⟩]) ∧
      (admitting [⟨2, 3, 4, n, [(5, 2)]⟩]).live = true ∧ ((admitting [⟨2, 3, 4, n, [(5, 2)]⟩]).core 0).xfer 0 = some (anEntry 5) ∧
      (([⟨2, 3, 4, n, [(5, 2)]⟩] : List SrcRegion).find? fun r =>
        decide (r.dev = (anEntry 5).peer ∧ r.core = (anEntry 5).peerCore ∧ r.region = (anEntry 5).region)).isSome) ∧
    Canonical (admitting []) := by
  refine ⟨⟨here ?_, ?_⟩, ?_, canonical_of ?_⟩
  · decide +kernel
  · decide +kernel
  · intro n hn
    refine ⟨canonical_of ?_, ?_⟩ <;> revert n <;> decide +kernel
  · decide +kernel

/-! ### Time, cues and idle ticks -/

/-- The announcement of the cue that starts a scene. -/
def announce (scene : Nat) : Announce := ⟨some 1000, scene, 900000, false⟩

/-- A cue root in PS0 that runs cues, with the last position of a sequence of two, whose step ends there, and a program of core 0. -/
def cueing (tim : Tim) : State :=
  let s : State := ((((withCore { book := some ⟨0, [], true, 4096, 0, 0, [⟨64, 1, 1, []⟩], [(0xFFFF, false), (0, true)], [], [], [], 0⟩ }).setFld Fld.TIM_ROLE_ROOT 1).setFld
    Fld.SCN_LOAD_STATUS_LOADED 1).setFld (Fld.RHS_CORE_ADMITTED 0) 1).setFld Fld.PWR_STATE_PS 0
  { s with seedSet := true, tim := { tim with cuesRun := true } }

theorem witness_CuesEndAndStartScenes :
    (∀ started ∈ [false, true], ∀ scene ∈ [1, 7], Canonical (cueing { announced := some (announce scene), started := started, sceneOn := true }) ∧
      CueDue (cueing { announced := some (announce scene), started := started, sceneOn := true }) (announce scene) 1000 ∧
      outOfSeq (cueing { announced := some (announce scene), started := started, sceneOn := true }) scene = (started && decide (scene = 7)) ∧
      (cueing { announced := some (announce scene), started := started, sceneOn := true }).cmdEff = []) ∧
    (let s := cueing { announced := some (announce 1), started := true, sceneOn := true };
      overrunCore s = none ∧ (announce 1).halt = false ∧ (announce 1).len = s.fld Fld.SCN_LEN_LEN ∧ s.fld Fld.SCN_STATUS_HALTED = 0 ∧
      s.fld Fld.PWR_STATE_PS ≤ 1 ∧ s.fld Fld.SCN_LOAD_STATUS_LOADED = 1 ∧ s.seedSet = true ∧ timeGood s = true ∧ (s.core 0).book.isSome ∧
      (s.core 0).region = none ∧ s.fld (Fld.RHS_CORE_ADMITTED 0) = 1 ∧ dbgHalted s 0 = false) ∧
    (∀ missed ∈ [1, 2], Canonical ((cueing { lastCue := some 5, missed := missed }).setFld Fld.TIM_ROLE_ROOT 0) ∧
      CueMissing ((cueing { lastCue := some 5, missed := missed }).setFld Fld.TIM_ROLE_ROOT 0) 5) := by
  refine ⟨?_, ?_, ?_⟩
  · intro b hb n hn
    refine ⟨canonical_of ?_, ?_, ?_⟩ <;> revert n <;> revert b <;> (try unfold CueDue NothingHeld) <;> decide +kernel
  · decide +kernel
  · intro n hn
    refine ⟨canonical_of ?_, ?_⟩ <;> revert n <;> (try unfold CueMissing NothingHeld) <;> decide +kernel

theorem witness_IdleTicksApply :
    (Canonical { up.setFld Fld.SCN_RESTORE_STATE 3 with cmdEff := [.align 1 2] } ∧ (up.setFld Fld.SCN_RESTORE_STATE 3).fld Fld.SCN_RESTORE_STATE = 3) ∧
    (∀ e ∈ [[], [CmdEff.bind 63 1 2], [.unbind 63], [.run 1 2], [.align 1 2]], Canonical { up with cmdEff := e } ∧ ({ up with cmdEff := e } : State).controlHalted = false ∧ ({ up with cmdEff := e } : State).ready = true ∧
      ({ up with cmdEff := e } : State).tim.cuesRun = false ∧ NothingHeld { up with cmdEff := e }) ∧
    (Canonical { up.setFld (Fld.SCN_SLOT_ID_BOUND 63) 1 with posadd := [(63, 5)] } ∧
      ({ up.setFld (Fld.SCN_SLOT_ID_BOUND 63) 1 with posadd := [(63, 5)] } : State).fld (Fld.SCN_SLOT_ID_BOUND 63) = 1) ∧
    (∀ ps ∈ [1, 2], Canonical { (cueing {}).setFld Fld.PWR_STATE_PS ps with
        tim := {}, pendQ := [⟨Fld.SCN_LEN_LEN.reg, Fld.SCN_LEN_LEN.lo, Fld.SCN_LEN_LEN.w, 72000⟩] } ∧
      ((cueing {}).setFld Fld.PWR_STATE_PS ps).controlHalted = false ∧ ((cueing {}).setFld Fld.PWR_STATE_PS ps).fld Fld.PWR_STATE_PS = ps ∧ ((cueing {}).setFld Fld.PWR_STATE_PS ps).ready = true) ∧
    (budgetOk (cueing {}) 72000 1 = true ∧
      budgetOk (withCore { book := some ⟨0, [], true, 4096, 0, 0, [⟨0, 1, 71001, []⟩], [], [], [], [], 0⟩ }) 72000 1 = false) ∧
    (∃ i, i < 256 ∧ 255 ≤ i ∧ Canonical { up with pendT := [⟨(Fld.WLT_TAG_TAG i).reg, (Fld.WLT_TAG_TAG i).lo, (Fld.WLT_TAG_TAG i).w, 3⟩] }) := by
  refine ⟨⟨canonical_of ?_, ?_⟩, ?_, ⟨canonical_of ?_, ?_⟩, ?_, ?_, ⟨255, ?_, ?_, canonical_of ?_⟩⟩
  · decide +kernel
  · decide +kernel
  · intro e he
    refine ⟨canonical_of ?_, ?_⟩ <;> revert e <;> (try unfold NothingHeld) <;> decide +kernel
  · decide +kernel
  · decide +kernel
  · intro n hn
    refine ⟨canonical_of ?_, ?_⟩ <;> revert n <;> decide +kernel
  all_goals decide +kernel

/-- A control packet of a kind with a payload, its route ended at node 9. -/
def aCtrl (kind : BitVec 4) (payload : List Byte) : CtrlPkt := ⟨false, false, kind, 1, 1, 1, 9, 1, 4, 0, payload⟩

theorem witness_CueTreeCarriesTimeAndHalt :
    (Canonical (net (up.setFld Fld.TIM_ROLE_ROOT 1)) ∧ (net (up.setFld Fld.TIM_ROLE_ROOT 1)).ready = true ∧
      (net (up.setFld Fld.TIM_ROLE_ROOT 1)).fld Fld.TIM_ROLE_ROOT = 1 ∧ (net (up.setFld Fld.TIM_ROLE_ROOT 1)).fld Fld.TIM_STATUS_ROOT_CONFLICT = 0) ∧
    (Unheld up ∧ timingFlag (aCtrl 1 (timingPayload 1000 0 5000 7 900000 5 0)) 1 = false) ∧
    (∃ tim : Tim, tim.midDue = some 5 ∧ tim.placed = some (announce 1) ∧ (announce 1).nextCue = some 1000 ∧ tim.finalDue = some 9 ∧
      Canonical { net (up.setFld Fld.TIM_ROLE_ROOT 1) with tim := tim }) ∧
    ((aCtrl 2 []).ckind = 2 ∧ linkUsable (net up) 0 = true) ∧
    (∀ role ∈ [0, 1], ∀ mask ∈ [0, 1], Canonical (((net up).setFld Fld.TIM_CUE_CHILD_MASK mask).setFld Fld.TIM_ROLE_ROOT role) ∧
      (((((net up).setFld Fld.TIM_CUE_CHILD_MASK mask).setFld Fld.TIM_ROLE_ROOT role).fld Fld.TIM_CUE_CHILD_MASK).testBit 0 = decide (mask = 1))) ∧
    (((net up).setFld Fld.TIM_CUE_PARENT_PORT 0).fab.haltScene = none ∧
      linkUsable ((net up).setFld Fld.TIM_CUE_PARENT_PORT 0) (((net up).setFld Fld.TIM_CUE_PARENT_PORT 0).fld Fld.TIM_CUE_PARENT_PORT) = true) := by
  refine ⟨⟨canonical_of ?_, ?_⟩, ⟨?_, ?_⟩, ⟨{ midDue := some 5, placed := some (announce 1), finalDue := some 9 }, rfl, rfl, rfl, rfl, canonical_of ?_⟩, ?_, ?_, ?_⟩
  · decide +kernel
  · decide +kernel
  · unfold Unheld; decide +kernel
  · decide +kernel
  · decide +kernel
  · decide +kernel
  · intro r hr m hm
    refine ⟨canonical_of ?_, ?_⟩ <;> revert m <;> revert r <;> decide +kernel
  · decide +kernel

/-- A timing packet of the depth with the flags. -/
def aTiming (depth flags : Nat) : CtrlPkt := aCtrl 1 (timingPayload 1000 0 5000 7 900000 flags depth)

theorem witness_TimingSteersAndCaptures :
    (∀ parent ∈ [0, 1], ∀ role ∈ [0, 1], Canonical { ((net up).setFld Fld.TIM_CUE_PARENT_PORT parent).setFld Fld.TIM_ROLE_ROOT role with tim := { cuesRun := true } } ∧
      linkUsable (((net up).setFld Fld.TIM_CUE_PARENT_PORT parent).setFld Fld.TIM_ROLE_ROOT role) 0 = true ∧
      (((net up).setFld Fld.TIM_CUE_PARENT_PORT parent).setFld Fld.TIM_ROLE_ROOT role).fld Fld.TIM_CUE_PARENT_PORT = parent) ∧
    (ctrlAt (aTiming 24 5) 37 1 = 24 ∧ ctrlAt (aTiming 23 5) 37 1 = 23 ∧ timingFlag (aTiming 23 5) 0 = true ∧ ctrlAt (aTiming 23 5) 16 8 ≠ 2 ^ 64 - 1 ∧
      (aTiming 23 5).ckind = 1 ∧ up.tim.everLocked = false) ∧
    (Canonical up ∧ up.barOpen = true) := by
  refine ⟨?_, ?_, ⟨canonical_of ?_, ?_⟩⟩
  · intro p hp r hr
    refine ⟨canonical_of ?_, ?_⟩ <;> revert r <;> revert p <;> decide +kernel
  all_goals decide +kernel

/-! ### Links and packets -/

/-- Link 0 in a state. -/
def linkAt (state : Nat) : State := (up.setFld (Fld.KL_STATUS_STATE 0) state).setFld Fld.FAB_NODE_ID 9

theorem witness_LinksLeaveRateWithAKnownPeer :
    (∀ valid ∈ [0, 1], Canonical ((linkAt 2).setFld Fld.FAB_NODE_VALID valid) ∧
      ((linkAt 2).setFld Fld.FAB_NODE_VALID valid).fld (Fld.KL_STATUS_STATE 0) = 2 ∧
      ((linkAt 2).setFld Fld.FAB_NODE_VALID valid).fld Fld.FAB_NODE_VALID = valid ∧ ((linkAt 2).setFld Fld.FAB_NODE_VALID valid).fld Fld.FAB_NODE_ID = 9) := by
  intro v hv
  refine ⟨canonical_of ?_, ?_⟩ <;> revert v <;> decide +kernel

/-- The check value of the standard's CRC-32, that of "123456789". -/
theorem test_crc32_check : crc32 [0x31, 0x32, 0x33, 0x34, 0x35, 0x36, 0x37, 0x38, 0x39] = 0xCBF43926 := by decide +kernel

/-- BODY and LCTL of a flit of an empty body and a SEQ. -/
def flitBody (seq : Nat) : List Byte := List.replicate 228 0 ++ leBytes 4 seq

theorem flitBody_length (seq : Nat) : (flitBody seq).length = 232 := by
  have h : (leBytes 4 seq).length = 4 := by simp [leBytes]
  rw [flitBody, List.length_append, List.length_replicate, h]

theorem flit_ok (seq : Nat) : flitOk (crc32 (flitBody seq)) (flitBody seq) = true := by
  rw [flitOk, decide_eq_true_eq]
  exact ⟨flitBody_length seq, rfl⟩

theorem flit_lctl (seq : Nat) : (((flitBody seq).drop 228).take 4) = leBytes 4 seq := by
  have h : (List.replicate 228 (0 : Byte)).length = 228 := List.length_replicate
  have h2 : (leBytes 4 seq).length = 4 := by simp [leBytes]
  rw [flitBody, List.drop_append_of_le_length (by omega), List.drop_eq_nil_of_le (by omega), List.nil_append, List.take_of_length_le (by omega)]

theorem flit_flipped : flitOk (crc32 (flitBody 0) ^^^ 1) (flitBody 0) = false := by
  simp [flitOk]

theorem witness_LinksTrainAndTakeFlits :
    (∀ n ∈ [1, 2, 3, 4, 5], Canonical (linkAt n) ∧ (linkAt n).fld (Fld.KL_STATUS_STATE 0) = n ∧ (linkAt n).fld Fld.PWR_STATE_PS ≤ 2 ∧
      (linkAt n).fld (Fld.KL_STATUS_LONG 0) = 0) ∧
    ((List.replicate 64 ((65536000 : BitVec 40), (0 : BitVec 40))).length = 64 ∧
      ((List.replicate 64 ((131072000 : BitVec 40), (0 : BitVec 40))).map fun p => p.1.toNat - p.2.toNat).sum / 128 = 1000 * 65536) ∧
    (∀ n ∈ [0, 6, 7], ∃ s, s = (net up).setLink 0 { fails := n } ∧ Canonical s ∧ s.fld (Fld.KL_STATUS_UP 0) = 1 ∧ (s.link 0).rxSeq = 0 ∧
      (s.link 0).fails = n) ∧
    ((net up).fld Fld.PWR_STATE_PS ≤ 2 ∧ flitOk (crc32 (flitBody 0)) (flitBody 0) = true ∧ flitOk (crc32 (flitBody 1)) (flitBody 1) = true ∧
      flitOk (crc32 (flitBody 0) ^^^ 1) (flitBody 0) = false ∧
      leNat (((flitBody 0).drop 228).take 4) % 4096 = 0 ∧ (leNat (((flitBody 1).drop 228).take 4)).testBit 24 = false ∧
      leNat (((flitBody 1).drop 228).take 4) % 4096 ≠ 0 ∧ (leNat (((flitBody 0).drop 228).take 4)).testBit 25 = false) := by
  refine ⟨?_, ?_, ?_, ?_, flit_ok 0, flit_ok 1, flit_flipped, ?_⟩
  · intro n hn
    refine ⟨canonical_of ?_, ?_⟩ <;> revert n <;> decide +kernel
  · decide +kernel
  · intro n hn
    refine ⟨_, rfl, canonical_of ?_, ?_⟩ <;> revert n <;> decide +kernel
  · decide +kernel
  · rw [flit_lctl, flit_lctl]; decide +kernel

/-- A data packet that has come to node 9 by one hop, from core 4 of node 3. -/
def aData (vl : BitVec 2) (kind : BitVec 3) (dcore : BitVec 7) (payload : List Byte) : DataPkt :=
  ⟨vl, false, false, false, kind, 1, 1, 1, 9, 1, 3, 4, dcore, 5, 0, 0, true, 0, 0, payload⟩

/-- A packet in a receive buffer of link 0. -/
def holding (s : State) (p : Pkt) : State := { s with fab := { s.fab with rx := [⟨0, p, 0⟩] } }

theorem held_of {s : State} {k : LinkId} {p : Pkt} {i : RxItem}
    (h : (linkUsable s k.val && decide (heldItem s k.val p = some i) && decide (s.fab.tx = [])) = true) : Held s k p i s := by
  simp only [Bool.and_eq_true, decide_eq_true_eq] at h
  refine ⟨h.1.1, ?_, .inl ⟨h.1.2, rfl⟩⟩
  rw [h.2]; exact fun _ hx => nomatch hx

theorem heldHere_of {s : State} {k : LinkId} {p : Pkt} {i : RxItem}
    (h : (linkUsable s k.val && decide (heldItem s k.val p = some i) && decide (s.fab.tx = []) &&
      decide (stale s p = false ∧ p.next = p.hops ∧ p.dtype = 1 ∧ p.dest = s.fld Fld.FAB_NODE_ID)) = true) : HeldHere s k p i s := by
  rw [Bool.and_eq_true] at h
  exact ⟨held_of h.1, of_decide_eq_true h.2⟩

/-- The packet lies in a receive buffer of link 0, and its route ends here. -/
def Lies (s : State) (p : Pkt) : Prop := HeldHere (holding s p) 0 p ⟨0, p, 0⟩ (holding s p)

/-- A packet in transit whose next hop has code 0 or 1, launched in this scene. -/
def transit (code : BitVec 144) : Pkt := .data { aData 0 0 0 [] with next := 0, route := code, dest := 7 }

theorem witness_PacketsGoOnOrAreDropped :
    (∀ p ∈ [transit 0, transit 2, .data { aData 1 0 0 [] with dest := 8 }, .data { aData 3 0 0 [] with lscene := 14 }, .data (aData 3 0 0 []), .ctrl (aCtrl 3 [])],
      Canonical (holding (net up) p) ∧ Held (holding (net up) p) 0 p ⟨0, p, 0⟩ (holding (net up) p) ∧ Routed p) ∧
    (∀ p ∈ [transit 0, .ctrl (aCtrl 3 [])], linkUsable (net up) 0 = true ∧ heldItem (net up) 0 p = none ∧ bufferFor (net up) 0 p = some 0 ∧
      (net up).fab.tx = []) ∧
    (heldItem (net up) 0 (.data (aData 3 0 0 [])) = none ∧ bufferFor (net up) 0 (.data (aData 3 0 0 [])) = none) ∧
    (stale (net up) (.data { aData 3 0 0 [] with lscene := 14 }) = true ∧ stale (net up) (.data (aData 3 0 0 [])) = false ∧
      hopEntry (net up) (arrivalBank (net up) 0 (transit 0)) ((transit 0).code 0) = some (0, codeDl ((transit 0).code 0)) ∧
      hopEntry (net up) (arrivalBank (net up) 0 (transit 2)) ((transit 2).code 0) = none ∧
      hopEntry ((net up).setFld (Fld.FAB_HOPMAP_PORT 0) 1) false 0 = some (1, false) ∧ linkUsable (net up) 1 = false) := by
  refine ⟨?_, ?_⟩
  · intro p hp
    refine ⟨canonical_of ?_, held_of ?_, ?_⟩
    · revert p; decide +kernel
    · revert p; decide +kernel
    · intro q hq; subst hq; revert q; simp [transit, aCtrl]
  · decide +kernel

/-- A packet that waits for the last credit of link 0's sub-lane. -/
def waiting : State :=
  { net up with fab := { (net up).fab with tx := [⟨0, some ⟨0, .data (aData 1 3 0x7E []), 0⟩, .data (aData 1 3 0x7E [])⟩], used := [(4098, 16)] } }

theorem witness_CreditsLetPacketsGo :
    (Canonical (net up) ∧ (net up).fab.tx = [] ∧ (0 : BitVec 4).toNat = (net up).fld Fld.SCN_COUNT_SCENE % 16 ∧
      (15 : BitVec 4).toNat ≠ (net up).fld Fld.SCN_COUNT_SCENE % 16) ∧
    (Canonical waiting ∧ creditKey 0 (.data (aData 1 3 0x7E [])) = 4096 + 8 * 0 + 2 * 1 + b2n false ∧
      0 < creditTotal waiting 0 (.data (aData 1 3 0x7E [])) ∧ linkUsable waiting 0 = true ∧
      SMap.get 0 waiting.fab.used 4098 = creditTotal waiting 0 (.data (aData 1 3 0x7E []))) := by
  refine ⟨⟨canonical_of ?_, ?_⟩, ⟨canonical_of ?_, ?_⟩⟩ <;> decide +kernel

/-- The payload of an XP packet with the element 2^0 at an index. -/
def xpBytes (n : Nat) : List Byte := xpPayload n 1 (XpElem.encode ⟨false, false, false, false, false, 0, 2 ^ 300⟩)

/-- Core 0 with a transfer of a kind at its port whose inbound data moves, its reservation 5, and a wings area. -/
def taking (kind : Nat) (port : List PortXfer) : State :=
  net (withCore { port := port, book := some ⟨0, [], true, 4096, 0, 4096, [], [], [], [], [{ anEntry kind with xdata := if kind = 3 then [0, 0, 5, 0] else (anEntry kind).xdata }], 0⟩ })

theorem witness_PayloadsReachTheirCore :
    (∀ q ∈ [(Instr.recv 0 0 1, (0 : BitVec 3), 2), (.gather 0 0 1, 1, 3)], ∀ port ∈ [[], [aXfer q.1]], ∀ seq ∈ [0, 9000],
      canonicalB (holding (taking q.2.2 port) (.data { aData 3 q.2.1 0 [1, 2] with seq := BitVec.ofNat 14 seq })) = true ∧
      (taking q.2.2 port).ecc = [] ∧ (taking q.2.2 port).inj = [] ∧
      takerOf ((taking q.2.2 port).core 0) q.2.2 (aData 3 q.2.1 0 [1, 2]) = port.head? ∧
      (ownScratchKind (taking q.2.2 port) 0 (scrBase 0 + seq * 4096) 2 = none ↔ seq = 0)) ∧
    (∀ q ∈ [(Instr.recv 0 0 1, (0 : BitVec 3), 2), (.gather 0 0 1, 1, 3)],
      HeldHere (holding (taking q.2.2 [aXfer q.1]) (.data (aData 3 q.2.1 0 [1, 2]))) 0 (.data (aData 3 q.2.1 0 [1, 2])) ⟨0, .data (aData 3 q.2.1 0 [1, 2]), 0⟩
        (holding (taking q.2.2 [aXfer q.1]) (.data (aData 3 q.2.1 0 [1, 2])))) ∧
    (inWingsArea (taking 2 []) 0 (scrBase 0) 2 = true ∧ inWingsArea (taking 2 []) 0 (scrBase 0 + 4096) 2 = false ∧
      HeldHere (holding (taking 2 [aXfer (.recv 0 0 1)]) (.data { aData 3 0 0 [1, 2] with spec := true })) 0 (.data { aData 3 0 0 [1, 2] with spec := true })
        ⟨0, .data { aData 3 0 0 [1, 2] with spec := true }, 0⟩
        (holding (taking 2 [aXfer (.recv 0 0 1)]) (.data { aData 3 0 0 [1, 2] with spec := true }))) ∧
    (∀ n ∈ [0, 1], Canonical (holding (taking 4 [{ aXfer (.xred 0 0 0) with acc := some accD }]) (.data (aData 3 2 0 (xpBytes n)))) ∧
      HeldHere (holding (taking 4 [{ aXfer (.xred 0 0 0) with acc := some accD }]) (.data (aData 3 2 0 (xpBytes n)))) 0 (.data (aData 3 2 0 (xpBytes n)))
        ⟨0, .data (aData 3 2 0 (xpBytes n)), 0⟩ (holding (taking 4 [{ aXfer (.xred 0 0 0) with acc := some accD }]) (.data (aData 3 2 0 (xpBytes n)))) ∧
      takerOf ((taking 4 [{ aXfer (.xred 0 0 0) with acc := some accD }]).core 0) 4 (aData 3 2 0 (xpBytes n)) = some { aXfer (.xred 0 0 0) with acc := some accD } ∧
      readXp (xpBytes n) = (n, [some ⟨false, false, false, false, false, 2 ^ 48 - 1, 2 ^ 300⟩]) ∧ (anEntry 4).inCount = 1 ∧
      streamNext [] (streamKey (aData 3 2 0 (xpBytes n))) ≠ deadStream ∧
      streamNext [(streamKey (aData 3 2 0 (xpBytes n)), deadStream)] (streamKey (aData 3 2 0 (xpBytes n))) = deadStream) ∧
    (∀ scene ∈ [0, 1], ∃ p, p = aCtrl 3 (leBytes 8 scene ++ leBytes 2 6 ++ leBytes 1 4 ++ leBytes 1 1 ++ leBytes 1 0 ++ leBytes 1 8 ++ List.replicate 34 0) ∧
      Canonical (holding (net up) (.ctrl p)) ∧ HeldHere (holding (net up) (.ctrl p)) 0 (.ctrl p) ⟨0, .ctrl p, 0⟩ (holding (net up) (.ctrl p)) ∧
      p.ckind = 3 ∧ ctrlAt p 12 1 = 0 ∧ (ctrlAt p 0 8 = (net up).fld Fld.SCN_COUNT_SCENE ↔ scene = 0) ∧ ctrlAt p 13 1 = 8) := by
  refine ⟨?_, ?_, ⟨?_, ?_, heldHere_of ?_⟩, ?_, ?_⟩
  · decide +kernel
  · intro q hq
    refine heldHere_of ?_
    revert q; decide +kernel
  · decide +kernel
  · decide +kernel
  · decide +kernel
  · intro n hn
    refine ⟨canonical_of ?_, heldHere_of ?_, ?_⟩ <;> revert n <;> decide +kernel
  · intro n hn
    refine ⟨_, rfl, canonical_of ?_, heldHere_of ?_, ?_⟩ <;> revert n <;> decide +kernel

/-! ### The device's servers -/

/-- The payload of a request for 64 bytes at an address. -/
def reqBytes (a n : Nat) : List Byte := leBytes 6 a ++ leBytes 2 0 ++ leBytes 4 n ++ List.replicate 52 0

/-- A device whose requests may reach the first 4,096 bytes of stack 0. -/
def served (n : Nat) (q : RxItem × Bool) : State :=
  let s := (net up).setFld Fld.FAB_REQ_SIZE_SIZE 4096
  { s with fab := { s.fab with reqs := List.replicate n q } }

theorem witness_RequestsAreServedInOrder :
    (∀ q ∈ [(Instr.rdReq 0 (aData 1 3 0x7E (reqBytes 0 64)), aData 1 3 0x7E (reqBytes 0 64)), (.wrReq 0 (aData 1 4 0x7E (reqBytes 0 64)), aData 1 4 0x7E (reqBytes 0 64))],
      ∀ n ∈ [63, 64], Canonical (holding (served n (⟨0, .data (aData 1 3 0x7E []), 0⟩, false)) (.data q.2)) ∧
        Lies (served n (⟨0, .data (aData 1 3 0x7E []), 0⟩, false)) (.data q.2) ∧
        (served n (⟨0, .data (aData 1 3 0x7E []), 0⟩, false)).fab.reqs.length = n) ∧
    (∀ n ∈ [63, 64], Canonical (holding { net up with fab := { (net up).fab with shards := List.replicate n (aData 3 1 0x7D []) } } (.data (aData 3 1 0x7D []))) ∧
      Lies { net up with fab := { (net up).fab with shards := List.replicate n (aData 3 1 0x7D []) } } (.data (aData 3 1 0x7D []))) ∧
    (∀ p ∈ [aData 1 3 0x7E (reqBytes 4032 64), aData 1 4 0x7E (reqBytes 4032 64 ++ List.replicate 64 1)], ∀ quiet ∈ [false, true],
      Canonical (served 1 (⟨0, .data p, 0⟩, quiet)) ∧ Clean (served 1 (⟨0, .data p, 0⟩, quiet)) ∧
      (served 1 (⟨0, .data p, 0⟩, quiet)).fab.reqs = [(⟨0, .data p, 0⟩, quiet)] ∧
      requestOk (served 1 (⟨0, .data p, 0⟩, quiet)) p (reqAddr p) (reqLen p) = true) ∧
    (requestOk (served 1 (⟨0, .data (aData 1 3 0x7E (reqBytes 4032 128)), 0⟩, false)) (aData 1 3 0x7E (reqBytes 4032 128)) 4032 128 = false) ∧
    (∀ valid ∈ [0, 1], ∃ s q, Canonical s ∧ Clean s ∧ s.fab.shards = [q] ∧ leNat (q.payload.take 2) % 1024 = 1023 ∧
      s.fld (Fld.XCL_SHARD_BASE_VALID 1023) = valid ∧ leNat ((q.payload.drop 8).take 4) = s.fld (Fld.XCL_SHARD_LEN_BYTES 1023) ∧
      s.inStacks (s.fld (Fld.XCL_SHARD_BASE_BASE 1023)) 64 = true ∧
      launchTest s (BitVec.ofNat 144 (leNat ((q.payload.drop 12).take 18))) (leNat ((q.payload.drop 4).take 1)) 24 none = .ok 0) := by
  refine ⟨?_, ?_, ?_, ?_, ?_⟩
  · intro q hq n hn
    refine ⟨canonical_of ?_, heldHere_of ?_, ?_⟩ <;> revert n <;> revert q <;> decide +kernel
  · intro n hn
    refine ⟨canonical_of ?_, heldHere_of ?_⟩ <;> revert n <;> decide +kernel
  · intro p hp b hb
    refine ⟨canonical_of ?_, ⟨?_, ?_⟩, ?_⟩ <;> revert b <;> revert p <;> decide +kernel
  · decide +kernel
  · intro n hn
    refine ⟨let s := (((net up).setFld (Fld.XCL_SHARD_BASE_VALID 1023) n).setFld (Fld.XCL_SHARD_LEN_BYTES 1023) 64)
      { s with fab := { s.fab with shards := [aData 3 1 0x7D (leBytes 2 1023 ++ leBytes 2 5 ++ leBytes 1 1 ++ leBytes 3 0 ++ leBytes 4 64 ++ List.replicate 52 0)] } },
      aData 3 1 0x7D (leBytes 2 1023 ++ leBytes 2 5 ++ leBytes 1 1 ++ leBytes 3 0 ++ leBytes 4 64 ++ List.replicate 52 0), canonical_of ?_, ⟨?_, ?_⟩, ?_⟩ <;>
      revert n <;> decide +kernel

/-- Reducer context 0 of link die 0 with two arrivals an element, open for reservation 5, or not. -/
def reducer (valid : Nat) (x : RedCtx) : State :=
  let s := ((net up).setFld (Fld.XCL_RMAP_VALID 5) valid).setFld (Fld.XCL_RCTX_CFG_NIN 0) 2
  { s with red := if x = {} then [] else [(0, x)] }

theorem witness_ReducersCombineAndEmit :
    (∀ valid ∈ [0, 1], Canonical (holding (reducer valid {}) (.data (aData 3 2 0x7F (xpBytes 0)))) ∧
      Lies (reducer valid {}) (.data (aData 3 2 0x7F (xpBytes 0))) ∧
      (reducer valid {}).fld (Fld.XCL_RMAP_VALID 5) = valid ∧ ((reducer valid {}).redCtx 0).stopped = false ∧
      0 ≤ (reducer valid {}).fld (Fld.XCL_RCTX_CFG_ELEMS 0) ∧ streamNext ((reducer valid {}).redCtx 0).streams (streamKey (aData 3 2 0x7F (xpBytes 0))) ≤ 0 ∧
      (SMap.get ({} : RedSlot) ((reducer valid {}).redCtx 0).slots 0).count < (reducer valid {}).fld (Fld.XCL_RCTX_CFG_NIN 0)) ∧
    (∃ s, s = { reducer 1 {} with red := [(0, { stopped := true })] } ∧ Canonical (holding s (.data (aData 3 2 0x7F (xpBytes 0)))) ∧
      Lies s (.data (aData 3 2 0x7F (xpBytes 0))) ∧ (s.redCtx 0).stopped = true) ∧
    redReady (reducer 1 {}) 0 = false ∧
    (∀ r ∈ [0, 1], Canonical (reducer 1 { slots := [(0, { count := 2, residue := r })] }) ∧
      redReady (reducer 1 { slots := [(0, { count := 2, residue := r })] }) 0 = true ∧ (reducer 1 { slots := [(0, { count := 2, residue := r })] }).inj = [] ∧
      (r % 8191 = accFold false 0 ↔ r = 0) ∧
      launchTest (reducer 1 {}) (redRoute (reducer 1 {}) 0) 1 24 none = .ok 0) ∧
    (∃ r : RedSlot, Canonical ((reducer 1 { slots := [(0, r)] }).setFld (Fld.XCL_RCTX_CFG_ELEMS 0) 1) ∧
      redReady ((reducer 1 { slots := [(0, r)] }).setFld (Fld.XCL_RCTX_CFG_ELEMS 0) 1) 0 = true ∧ r.residue % 8191 = accFold false r.a ∧
      0 ≠ ((reducer 1 { slots := [(0, r)] }).setFld (Fld.XCL_RCTX_CFG_ELEMS 0) 1).fld (Fld.XCL_RCTX_CFG_ELEMS 0)) := by
  refine ⟨?_, ⟨_, rfl, canonical_of ?_, heldHere_of ?_, ?_⟩, ?_, ?_, ⟨{ count := 2, residue := accFold false 1, a := 1 }, canonical_of ?_, ?_⟩⟩
  · intro n hn
    refine ⟨canonical_of ?_, heldHere_of ?_, ?_⟩ <;> revert n <;> decide +kernel
  · decide +kernel
  · decide +kernel
  · decide +kernel
  · decide +kernel
  · intro n hn
    refine ⟨canonical_of ?_, ?_⟩ <;> revert n <;> decide +kernel
  all_goals decide +kernel

theorem witness_WitnessEntriesRunAndDigest :
    (∀ fmt ∈ [0, 5], ∃ s : State, Canonical s ∧ Clean s ∧ s.healthHalted = false ∧ s.tim.sceneOn = true ∧ s.fld (Fld.XCL_WIT_CTRL_VALID 31) = 1 ∧
      s.fld (Fld.XCL_WIT_CTRL_TRIG 31) = s.fld Fld.SCN_SEQ_POS ∧ (s.witRun 31).scene ≠ some (s.fld Fld.SCN_COUNT_SCENE) ∧
      witLegal s 31 = decide (fmt = 0)) ∧
    (∀ v ∈ [30, 31], ∃ s : State, Canonical s ∧ Clean s ∧ s.healthHalted = false ∧ s.fld (Fld.XCL_WIT_STATE_RUNNING 31) = 1 ∧
      ((List.range 31).any fun n => decide (s.fld (Fld.XCL_WIT_STATE_RUNNING n) = 1)) = decide (v = 30) ∧
      witDigest s 31 = (s.witRun 31).digest0) := by
  refine ⟨?_, ?_⟩
  · intro n hn
    refine ⟨{ (up.setFld (Fld.XCL_WIT_CTRL_VALID 31) 1).setFld (Fld.XCL_WIT_CTRL_FMT 31) n with tim := { sceneOn := true } }, canonical_of ?_, ⟨?_, ?_⟩, ?_⟩ <;>
      revert n <;> decide +kernel
  · intro v hv
    refine ⟨{ (up.setFld (Fld.XCL_WIT_STATE_RUNNING 31) 1).setFld (Fld.XCL_WIT_STATE_RUNNING v) 1 with wit := [(31, { digest0 := witDigest up 31 })] },
      canonical_of ?_, ⟨?_, ?_⟩, ?_, ?_⟩ <;> revert v <;> decide +kernel

/-! ### The request engine -/

/-- An outstanding request. -/
def aReq (write : Bool) (sect : Nat) (again : Bool) : EngReq := ⟨0, write, sect, 0, 64, 0, [], ⟨1, 1, 1, 0⟩, 0, again⟩
/-- A section of 64 elements of 8 bits at the start of stack 0. -/
def aSect : Sect := ⟨0, 2, 0, 1, 0, 63, 64, 0, 0, 0, 64, 0⟩
/-- A restore of one section. -/
def aRst : RstJob := ⟨0, 1, [⟨1, 1, 1, 0⟩], 0, 0, [aSect], [], 0, false, 0, 0, [], [], [], []⟩
/-- A checkpoint of one section. -/
def aCkp : CkpJob := ⟨1, ⟨1, 1, 1, 0⟩, 0, false, [aSect], none, [aSect], 0, 0, []⟩
/-- The long command of either. -/
def aLong (op : Nat) : LongCmd := ⟨op, 7, false, 0, []⟩
/-- A device with requests outstanding, for a checkpoint, a restore or neither. -/
def awaiting (rs : List EngReq) (ckp : Option CkpJob) (rst : Option RstJob) : State :=
  { net up with
    eng := { up.eng with reqs := rs, ckp := ckp, rst := rst }
    host := { up.host with long := if ckp.isSome then some (aLong 8) else if rst.isSome then some (aLong 9) else none } }

theorem witness_RequestsEnd :
    (∀ q ∈ [(Instr.rdRsp 0 (aData 2 5 0x7F []), aData 2 5 0x7F [], false), (.wrAck 0 (aData 2 6 0x7F []), aData 2 6 0x7F [], true)],
      ∀ rs ∈ [[], [aReq q.2.2 0x1000 false]], Canonical (holding (awaiting rs none none) (.data q.2.1)) ∧
        Lies (awaiting rs none none) (.data q.2.1) ∧
        ((awaiting rs none none).eng.reqs.find? fun r => decide (r.tag = 0 ∧ r.write = q.2.2)) = rs.head? ∧ (awaiting rs none none).eng.ckp = none ∧
        (awaiting rs none none).eng.rst = none ∧ (awaiting rs none none).eng.wait = []) ∧
    (∀ q ∈ [(none, none), (some aCkp, none), (none, some aRst)], ∃ p : DataPkt, p = { aData 2 6 0x7F [] with status := 1 } ∧ p.status ≠ 0 ∧
      Lies (awaiting [aReq true (if q = (none, none) then 0x1000 else 0xFFF) false] q.1 q.2) (.data p) ∧
      Outstanding (awaiting [aReq true (if q = (none, none) then 0x1000 else 0xFFF) false] q.1 q.2) 0 true (aReq true (if q = (none, none) then 0x1000 else 0xFFF) false)) ∧
    (JobRuns (awaiting [] (some aCkp) none) (aLong 8) ∧ JobRuns (awaiting [] none (some aRst)) (aLong 9)) ∧
    (∃ s : State, s = awaiting [aReq false 0 false] none (some aRst) ∧
      Canonical (holding s (.data (aData 2 5 0x7F (List.replicate 64 1)))) ∧
      Lies s (.data (aData 2 5 0x7F (List.replicate 64 1))) ∧ Outstanding s 0 false (aReq false 0 false) ∧
      s.eng.rst = some aRst ∧ aRst.sects[(aReq false 0 false).sect]? = some aSect ∧ aSect.rowBytes ≤ aSect.stride) ∧
    (∀ quiesce ∈ [0, 1], ∀ again ∈ [false, true], ∀ valid ∈ [0, 1], ∀ q ∈ [(none, none, 0x1000), (some aCkp, none, 0), (none, some aRst, 0)],
      ∃ s, s = ((awaiting [aReq true q.2.2 again] q.1 q.2.1).setFld Fld.FAB_CTRL_QUIESCE quiesce).setFld (Fld.FAB_HOPMAP_VALID 0) valid ∧ canonicalB s = true ∧
      (s.eng.reqs.find? fun r => decide (r.tag = 0)) = some (aReq true q.2.2 again) ∧ s.fld Fld.FAB_CTRL_QUIESCE = quiesce ∧
      launchTest s 0 1 24 none = (if valid = 1 then .ok 0 else .bad 3 0)) := by
  refine ⟨?_, ?_, ⟨⟨?_, ?_, ?_⟩, ?_, ?_, ?_⟩, ⟨_, rfl, canonical_of ?_, heldHere_of ?_, ?_, ?_⟩, ?_⟩
  · intro q hq rs hrs
    refine ⟨canonical_of ?_, heldHere_of ?_, ?_⟩ <;> revert rs <;> revert q <;> decide +kernel
  · intro q hq
    refine ⟨_, rfl, ?_, heldHere_of ?_, ?_⟩
    · decide
    all_goals revert q; (try unfold Outstanding); decide +kernel
  all_goals (try unfold Outstanding)
  all_goals first | decide +kernel | (intro n hn b hb v hv q hq; refine ⟨_, rfl, ?_⟩; revert q; revert v; revert b; revert n; decide +kernel)

/-! ### Host commands -/

/-- A taken record: SEQ 1, an opcode, a payload and operand bytes from byte 16. -/
def record (op : Nat) (payload operands : List Byte) : Taken :=
  ⟨leBytes 4 1 ++ leBytes 1 op ++ leBytes 3 0 ++ leBytes 4 (if payload = [] then 0 else 0x100000) ++ leBytes 4 payload.length ++ operands ++
    List.replicate (48 - operands.length) 0, payload, 7⟩

/-- A device that has taken a record. -/
def taken (s : State) (k : Taken) : State := { s with host := { s.host with taken := some k } }

/-- A restore plan of one route and no section. -/
def aPlan : List Byte := leBytes 4 0 ++ leBytes 1 1 ++ leBytes 59 0 ++ (leBytes 2 1 ++ leBytes 1 1 ++ leBytes 1 1 ++ leBytes 28 0)

theorem witness_CommandRecordsAreJudged :
    (∀ i ∈ [(Instr.nop, nopRule), (.loadBooks, loadRule), (.startRun, startRule), (.setPower, setPowerRule), (.bindSlot, bindRule),
        (.unbindSlot, unbindRule), (.datapos, dataposRule), (.checkpoint, ckpRule), (.restore, restoreRule), (.restoreAlign, alignRule),
        (.debugUnlock, unlockRule), (.abort, abortRule)],
      hostRow i.1 = some i.2 ∧ Canonical (taken up (record i.2.op [1] [])) ∧ (judge (taken up (record i.2.op [1] [])) (record i.2.op [1] []) i.2).isSome ∧
      (record 0 [] []).op ≠ i.2.op) ∧
    ((record 0 [] []).op = 0 ∧ 13 ≤ (record 13 [] []).op ∧ skipped up (record 13 [] []) = false ∧
      skipped up ⟨leBytes 4 1 ++ [13, 2] ++ List.replicate 58 0, [], 0⟩ = true) ∧
    (∀ k ∈ [(record 1 [] [], nopRule), (record 5 [] (leBytes 8 63 ++ leBytes 8 9), bindRule), (record 6 [] [63], unbindRule),
        (record 1 [] [], nopRule), (record 7 (List.replicate 256 1) (leBytes 8 (2 ^ 64 - 1)), dataposRule)],
      Canonical (taken up k.1) ∧ Runs (taken up k.1) k.1 k.2) := by
  refine ⟨?_, ?_, ?_⟩
  · intro i hi
    refine ⟨?_, canonical_of ?_, ?_⟩
    · simp only [List.mem_cons, List.not_mem_nil, or_false] at hi
      rcases hi with rfl | rfl | rfl | rfl | rfl | rfl | rfl | rfl | rfl | rfl | rfl | rfl <;> rfl
    · simp only [List.mem_cons, List.not_mem_nil, or_false] at hi
      rcases hi with rfl | rfl | rfl | rfl | rfl | rfl | rfl | rfl | rfl | rfl | rfl | rfl <;> decide +kernel
    · simp only [List.mem_cons, List.not_mem_nil, or_false] at hi
      rcases hi with rfl | rfl | rfl | rfl | rfl | rfl | rfl | rfl | rfl | rfl | rfl | rfl <;> decide +kernel
  · decide +kernel
  · intro k hk
    refine ⟨canonical_of ?_, ?_⟩
    · simp only [List.mem_cons, List.not_mem_nil, or_false] at hk
      rcases hk with rfl | rfl | rfl | rfl | rfl <;> decide +kernel
    · simp only [List.mem_cons, List.not_mem_nil, or_false] at hk
      rcases hk with rfl | rfl | rfl | rfl | rfl <;> exact ⟨rfl, by decide +kernel, by decide +kernel, by decide +kernel⟩

/-- A device with a loaded set, whose restore is in a state, with a long command. -/
def restoring (st : Nat) (eng : EngSt) (long : Option LongCmd) : State :=
  { (((cueing {}).setFld Fld.PWR_STATE_PS 2).setFld Fld.SCN_RESTORE_STATE st).setFld Fld.SCN_RESTORE_DATAPOS_VALID 1 with
    tim := {}, eng := eng, host := { up.host with long := long } }

/-- The operands of START_RUN. -/
def startOps (seed step pos : Nat) : List Byte := leBytes 8 seed ++ leBytes 8 step ++ leBytes 2 pos

theorem witness_StartRunNamesTheRestoredState :
    (∀ ops ∈ [startOps 3 0 1, startOps 3 9 0, startOps 4 9 1], Canonical (taken (restoring 4 { restored := some (9, 1, 3) } none) (record 3 [] ops)) ∧
      Runs (taken (restoring 4 { restored := some (9, 1, 3) } none) (record 3 [] ops)) (record 3 [] ops) startRule ∧
      (restoring 4 { restored := some (9, 1, 3) } none).fld Fld.SCN_RESTORE_STATE = 4) ∧
    (Canonical (taken (restoring 0 {} none) (record 3 [] (startOps 3 9 1))) ∧
      Runs (taken (restoring 0 {} none) (record 3 [] (startOps 3 9 1))) (record 3 [] (startOps 3 9 1)) startRule ∧
      (restoring 0 {} none).fld Fld.SCN_RESTORE_STATE ≠ 4 ∧ (record 3 [] (startOps 3 9 1)).at 32 2 < seqLen (restoring 0 {} none) ∧
      seqLen (restoring 0 {} none) ≤ (record 3 [] (startOps 3 9 2)).at 32 2) ∧
    RestoredAs (restoring 4 { restored := some (9, 1, 3) } none) 9 1 3 ∧
    (∃ s, s = { restoring 4 {} none with cmdEff := [.run 9 1] } ∧ Canonical s ∧ s.controlHalted = false ∧ s.ready = true ∧ s.tim.cuesRun = false ∧
      NothingHeld s) ∧
    (∃ s, s = { (cueing { announced := some (announce 1), started := true, sceneOn := true }).setFld Fld.SCN_RESTORE_STATE 4 with cmdEff := [.run 9 1] } ∧
      Canonical s ∧ CueDue s (announce 1) 1000 ∧ outOfSeq s 1 = false ∧ s.fld Fld.SCN_RESTORE_STATE = 4) := by
  refine ⟨?_, ⟨canonical_of ?_, ⟨rfl, ?_, ?_, ?_⟩, ?_⟩, ⟨?_, rfl⟩, ⟨_, rfl, canonical_of ?_, ?_, ?_, ?_, ?_⟩, ⟨_, rfl, canonical_of ?_, ?_, ?_⟩⟩
  · intro o ho
    refine ⟨canonical_of ?_, ⟨rfl, ?_, ?_, ?_⟩, ?_⟩ <;> revert o <;> decide +kernel
  all_goals (try unfold CueDue NothingHeld)
  all_goals (try unfold NothingHeld)
  all_goals decide +kernel

theorem witness_LongCommandsBeginAndAbort :
    (∀ w ∈ [0, 1], Canonical (taken (restoring 3 {} none) (record 10 [] [BitVec.ofNat 8 w])) ∧
      Runs (taken (restoring 3 {} none) (record 10 [] [BitVec.ofNat 8 w])) (record 10 [] [BitVec.ofNat 8 w]) alignRule) ∧
    (∀ w ∈ [0, 1], ∃ s, s = { restoring 3 {} none with cmdEff := [.align w 5] } ∧ Canonical s ∧ s.fld Fld.SCN_RESTORE_STATE = 3 ∧ s.ready = true ∧
      s.tim.cuesRun = false ∧ s.controlHalted = false ∧ NothingHeld s) ∧
    (∀ q ∈ [(some aCkp, none), (none, some aRst)], Canonical (taken (awaiting [aReq true 0 false] q.1 q.2) (record 12 [] (leBytes 4 7))) ∧
      Runs (taken (awaiting [aReq true 0 false] q.1 q.2) (record 12 [] (leBytes 4 7))) (record 12 [] (leBytes 4 7)) abortRule) ∧
    (∀ op ∈ [2, 8, 9], Canonical (taken (restoring 0 {} (some ⟨op, 5, false, 0, []⟩)) (record 12 [] (leBytes 4 5))) ∧
      Runs (taken (restoring 0 {} (some ⟨op, 5, false, 0, []⟩)) (record 12 [] (leBytes 4 5))) (record 12 [] (leBytes 4 5)) abortRule) ∧
    (∀ k ∈ [(record 2 (List.replicate 768 0) [], loadRule), (record 11 (List.replicate 896 0) [], unlockRule),
        (record 8 [] (leBytes 8 1 ++ leBytes 2 1 ++ leBytes 1 1 ++ leBytes 1 1), ckpRule),
        (record 8 [] (leBytes 8 1 ++ leBytes 2 1 ++ leBytes 1 1 ++ leBytes 1 1 ++ leBytes 1 1), ckpRule),
        (record 9 aPlan (leBytes 8 1 ++ leBytes 4 1), restoreRule)],
      Canonical (taken (net up) k.1) ∧ Runs (taken (net up) k.1) k.1 k.2) ∧
    ((net up).eng.ckp = none ∧ (net up).eng.wait = [] ∧ (net up).eng.reqs.length < 63 ∧ (net up).fld Fld.FAB_CTRL_QUIESCE = 0 ∧
      (routesOf (record 9 aPlan [])).length = 1 ∧
      ∀ r ∈ routesOf (record 9 aPlan []), launchTest (taken (net up) (record 9 aPlan [])) r.route r.hops 24 none = .ok 0 ∧
        launchTest (taken ((net up).setFld (Fld.FAB_HOPMAP_VALID 0) 0) (record 9 aPlan [])) r.route r.hops 24 none = .bad 3 0) := by
  refine ⟨?_, ?_, ?_, ?_, ?_, ?_⟩
  · intro w hw
    refine ⟨canonical_of ?_, ⟨rfl, ?_, ?_, ?_⟩⟩ <;> revert w <;> decide +kernel
  · intro w hw
    refine ⟨_, rfl, canonical_of ?_, ?_⟩ <;> revert w <;> (try unfold NothingHeld) <;> decide +kernel
  · intro w hw
    refine ⟨canonical_of ?_, ⟨rfl, ?_, ?_, ?_⟩⟩ <;> revert w <;> decide +kernel
  · intro w hw
    refine ⟨canonical_of ?_, ⟨rfl, ?_, ?_, ?_⟩⟩ <;> revert w <;> decide +kernel
  · intro k hk
    refine ⟨canonical_of ?_, ?_⟩
    · simp only [List.mem_cons, List.not_mem_nil, or_false] at hk
      rcases hk with rfl | rfl | rfl | rfl | rfl <;> decide +kernel
    · simp only [List.mem_cons, List.not_mem_nil, or_false] at hk
      rcases hk with rfl | rfl | rfl | rfl | rfl <;> exact ⟨rfl, by decide +kernel, by decide +kernel, by decide +kernel⟩
  · decide +kernel

/-- A device with a power step that ends at once. -/
def stepping (ps : Nat) : State := { up with pwr := { up.pwr with step := some ⟨ps, 1, some 0⟩ } }

/-- A device in a power state with a loaded set of one core, whose one program declares 200,000 cycles; with or without speculation marks, its
admission decided or not. -/
def setIn (ps : Nat) (spec done : Bool) : State :=
  { ((((withCore { book := some ⟨0, [], spec, 0, 0, 0, [⟨0, 1, 200000, []⟩], [], [], [], [], 0⟩ }).setFld Fld.SCN_LOAD_STATUS_LOADED 1).setFld
      Fld.PWR_STATE_PS ps).setFld Fld.CFG_SPEC_EN 0) with
    seedSet := true, rhs := { decided := if done then List.range 96 else [] } }

/-- The operands of SET_POWER. -/
def powerRec (ps div : Nat) : Taken := record 4 [] [BitVec.ofNat 8 ps, BitVec.ofNat 8 div]

theorem witness_PowerStepsReachTheirState :
    (∀ a ∈ [(2, 2, 0), (0, 0, 0), (3, 3, 0), (0, 2, 0), (1, 4, 0), (0, 1, 2), (0, 1, 8), (1, 0, 0), (2, 3, 0), (2, 4, 0), (3, 2, 0), (3, 4, 0)],
      canonicalB (taken (setIn a.1 false true) (powerRec a.2.1 a.2.2)) = true ∧
      judge (taken (setIn a.1 false true) (powerRec a.2.1 a.2.2)) (powerRec a.2.1 a.2.2) setPowerRule = none ∧
      (powerRec a.2.1 a.2.2).op = 4 ∧ (setIn a.1 false true).controlHalted = false ∧
      (setIn a.1 false true).fld Fld.PWR_STATE_PS = a.1 ∧ (powerRec a.2.1 a.2.2).at 16 1 = a.2.1 ∧ (powerRec a.2.1 a.2.2).at 17 1 = a.2.2 ∧
      (setIn a.1 false true).fld Fld.PWR_STATE_FAULT_STOP = 0) ∧
    (budgetOk (setIn 0 false true) ((setIn 0 false true).fld Fld.SCN_LEN_LEN) 2 = true ∧
      budgetOk (setIn 0 false true) ((setIn 0 false true).fld Fld.SCN_LEN_LEN) 8 = false ∧ (setIn 0 false true).div = 1) ∧
    (∀ q ∈ [(false, false), (false, true), (true, true)], ∀ target ∈ [(0, 0), (1, 2), (1, 8)],
      judge (taken (setIn 2 q.1 q.2) (powerRec target.1 target.2)) (powerRec target.1 target.2) setPowerRule = none ∧
      canonicalB (taken (setIn 2 q.1 q.2) (powerRec target.1 target.2)) = true ∧
      admissionDone (setIn 2 q.1 q.2) = q.2 ∧ setRecheck (setIn 2 q.1 q.2) = (if q.1 then some { code := 0x0C, core := 0 } else none)) ∧
    (∃ s, s = (setIn 2 false true).setFld Fld.PWR_STATE_FAULT_STOP 1 ∧ judge (taken s (powerRec 4 0)) (powerRec 4 0) setPowerRule = none ∧
      canonicalB (taken s (powerRec 4 0)) = true ∧ s.fld Fld.PWR_STATE_FAULT_STOP = 1) ∧
    (∀ ps ∈ [2, 3, 4], canonicalB (stepping ps) = true ∧ (stepping ps).pwr.step = some ⟨ps, 1, some 0⟩ ∧ (stepping ps).controlHalted = false) ∧
    (∃ s, s = (stepping 2).setFld Fld.PWR_STATE_PS 3 ∧ canonicalB s = true ∧ s.fld Fld.PWR_STATE_PS = 3 ∧ s.controlHalted = false) := by
  refine ⟨?_, ?_, ?_, ⟨_, rfl, ?_⟩, ?_, ⟨_, rfl, ?_⟩⟩ <;> decide +kernel

/-- A device with a long command. -/
def longing (op : Nat) (words : List Nat) (eng : EngSt) (door : DoorSt) : State :=
  { net up with host := { up.host with long := some ⟨op, 5, true, 7, words⟩ }, eng := eng, door := door }

/-- A checkpoint without sections. -/
def emptyCkp : CkpJob := { aCkp with given := [], sects := [] }
/-- A snapshot. -/
def aSnap : Snap := ⟨9, 1, [], false, [], 0, 0, 0, 0, 0, 0, 0, [0]⟩

/-- A restore whose one section has passed, its manifest with or without a data position. -/
def restored (dp : Bool) : RstJob := { aRst with haveMan := true, passed := [0], manifest := List.replicate 1536 (if dp then 1 else 0) }

/-- The modulus of an RSA key of 3,072 bits, as a number. -/
def keyN : Nat :=
  5036490734023079679875616462271052333357885142484037464637892168138031924010173001565258689413428901809926687351663853106039517627423408227504697582408547556514955978138999194428012491763174485925494259023406221069648986167257439329688596953971480730867075844676825276141167318094728964710012521041953788814930818751878881170210149545633233665015131000644198062393016224687036933439512611871540131625533568593637718555346389483009354633246146401035887259817267567746076902376761604435814346359818489454027687302832007426915412458597836038632494476461196135300450146575518215682072549050402807673359130389004077537479817707703299573955064509588342911221504361636942029852528360406363886630582823556406208882261459063304164997543199446336294150900358347787893450138604663284003443435618517349675701885240658611540006996387704714483406518746770490975508578869438177781007631512870980012274550640783534013229389030125354123116587

/-- The modulus of the key. -/
def aModulus : List Byte := beBytes 384 keyN

/-- The SHA-256 of the modulus. -/
def aKeyHash : List Byte :=
  beBytes 32 50285327019998599049340218205137491805288501959248924716102750298027321748036

/-- The signatures of the tokens of operations 1 to 3 under the key, made outside the model. -/
def tokenSig : Nat → Nat
  | 1 => 1681591713563333445580645265474268675634216363639669945345868453606400619088016676495011621418059362338193846750706540401570408754759613292250847257846917225933503971927954550578926610616519683868477884422563900238069863033857213864149823651627125776231656862546570748686401006995160703226363086363566414937319911030514920834631613138494268071283485151861939459989915961316107150977735248004675010338853309687203581990657508346211936186247706954759831123660756797208725843311628378119515965732306748390606852711476675713480241547173209035091433166450164573003568096781421684477130720710660326786899133841240615378623758579556628648927634430985213737073452824929798345519480234589607559488861504706082727391740786868653278951457593661808605801624750804918721272905206126795315976525630294361308822399554550528531673052641963047806316021702979651671897571690521225400062446855404009020255501400001976998655282511602358465896303
  | 2 => 1711743328775943111288266034630503350337004286818572548262914290275523764153281956092377995018780439350921200654594919036800580475528846638963672648244984943357305122179750054285005693485374559359285544428995477199471740812980796121222935875315908870743239151467297946633974024947938620917901579614423076999986177439129290485961916134934424883933141006328164484939399324258414005795157226466662254236079364884911141241502617668221619466068308087630493106796499718351591356111693368133061196627459798054363853829409947577638098342635426041336891866784040275591575116182837871539350540944249097161548257873301751020183912671661979653175997595687191133715849529667913950115068644324647713967792525342470402967951442467247732702601461893094061433025078928124360790536958095536301965851356696791504751828901031916805835295161978496688042829271736041069478115544477274719698612196833928668612017881378610184330948253909505440821050
  | _ => 1985890951891682410012916482952097094884741153575516215752068673671819290683020153449468728786611380800436796688276553818883499560700550768019438090455541247565922283518065256988018850804327772329748762047145820165495622709864914460872923193208614419097722108321480212575908342956385805592798327485728713064073680360610291731660958192849294868919020023257605623082093297743359267184408740888250323905966447759526613635867151944484284089889816440047825705970862709031484908275134457648140571144300754719781331500945568060924764780044655972829205369998843326665018956125054013736521305744788641984010196670129117795136603350401973886441978816073200806123923628970926969322819952567171015093129600517437445563700025643665643415722903413369021511568035728515170795427300761238173619297404719143192399867881183859904506130476048015045209919817521337260997673929386145439933600863051898892582000811692659867101284563568106672844682

/-- A signed token (R388): it opens scopes 0 and 1, starts a zeroisation, or revokes the first firmware key and the first token key. -/
def aToken (op : Nat) : List Byte :=
  [0x53#8, 0x56#8, 0x54#8, 0x54#8, 0x4F#8, 0x4B#8, 0x4E#8, 0x31#8] ++ leBytes 1 op ++ leBytes 1 1 ++ leBytes 2 (if op = 1 then 3 else 0) ++
    leBytes 1 (if op = 3 then 1 else 0) ++ leBytes 1 (if op = 3 then 1 else 0) ++ List.replicate 114 0 ++ aModulus ++ beBytes 384 (tokenSig op)

/-- A deployed device whose Stage Door has read a token. -/
def tokenIn (op : Nat) : State :=
  (longing 11 [] {} { up.door with token := some (aToken op), tokenKeys := [[], aKeyHash] } |>.setFld Fld.SDR_STATUS_STATE 1).setFld
    Fld.SDR_STATUS_LIFECYCLE 1

/-- Of the accepted set no witness stands here: whether its power fits the budget rests on free constants of Config (R317), and the kernel
would have to hash 96 images. -/
theorem witness_LoadsAndLongCommandsEnd :
    (Canonical (longing 2 (List.replicate 96 0) {} {}) ∧ Clean (longing 2 (List.replicate 96 0) {} {}) ∧
      ∃ r, firstReject (setFails (longing 2 (List.replicate 96 0) {} {}) (List.replicate 96 0)).1 = some r ∧ r.code = 1 ∧ r.core = 0) ∧
    (Canonical ((longing 8 [] { ckp := some emptyCkp, latch := some aSnap } {}).setFld Fld.FAB_CTRL_QUIESCE 1) ∧
      ((longing 8 [] { ckp := some emptyCkp, latch := some aSnap } {}).setFld Fld.FAB_CTRL_QUIESCE 1).fld Fld.FAB_CTRL_QUIESCE = 1) ∧
    (Canonical (longing 8 [] { ckp := some { emptyCkp with snap := some aSnap, manifest := [1], off := 1 } } {}) ∧
      jobQuiet (longing 8 [] { ckp := some { emptyCkp with snap := some aSnap, manifest := [1], off := 1 } } {}).eng = true) ∧
    (∀ b : Bool, Canonical (longing 9 [] { rst := some (restored b) } {}) ∧ (restored b).haveMan = true ∧
      (restored b).passed.length = (restored b).sects.length ∧ (restored b).dpValid = b ∧ leAt (restored b).manifest 40 8 = leAt (restored b).manifest 32 8) ∧
    (Canonical (longing 11 [] {} { up.door with token := some [] }) ∧ (longing 11 [] {} { up.door with token := some [] }).door.testing = false ∧
      (longing 11 [] {} { up.door with token := some [] }).awake = true ∧ (tokenRefused (longing 11 [] {} {}) []).isSome) ∧
    (∀ op ∈ [1, 2, 3], canonicalB (tokenIn op) = true ∧ (tokenIn op).door.token = some (aToken op) ∧ tokenRefused (tokenIn op) (aToken op) = none ∧
      leAt (aToken op) 8 1 = op ∧ (tokenIn op).awake = true ∧ (tokenIn op).door.zeroing = none ∧ (tokenIn op).door.testing = false) := by
  refine ⟨⟨canonical_of ?_, ⟨rfl, rfl⟩, { code := 1, core := 0 }, ?_⟩, ⟨canonical_of ?_, ?_⟩, ⟨canonical_of ?_, ?_⟩, ?_, ⟨canonical_of ?_, ?_⟩, ?_⟩
  · decide +kernel
  · decide +kernel
  · decide +kernel
  · decide +kernel
  · decide +kernel
  · decide +kernel
  · intro b
    refine ⟨canonical_of ?_, ?_⟩ <;> revert b <;> decide +kernel
  all_goals decide +kernel

/-! ### The host interface -/

/-- A record of a ring, and the device that holds it in each stream. -/
def streaming : State :=
  { withCore { phases := [List.replicate 32 1] } with tel := { events := [List.replicate 64 1], trace := [List.replicate 32 1] } }

theorem witness_NoticesRecordsAndWindowWrites :
    (∀ n ∈ [0, 4], Canonical { (up.setFld Fld.HST_CPL_CTRL_LOG2 n) with host := { up.host with notices := [(1, 2, 3)] } } ∧
      (0 < cplFree (up.setFld Fld.HST_CPL_CTRL_LOG2 n) ↔ n = 4)) ∧
    (∀ wr ∈ [0, 2097152, 4194304], ∃ s, s = streaming.setFld Fld.HST_TEL_PHASE_WR wr ∧ Canonical s ∧ telOn s = true ∧ BusFree s ∧
      (s.core 0).phases = [List.replicate 32 1] ∧ ringUnread (s.fld Fld.HST_TEL_PHASE_WR) (s.fld Fld.HST_TEL_PHASE_RD) = wr) ∧
    (∀ wr ∈ [0, 1048575, 1048576], ∃ s, s = streaming.setFld Fld.HST_TEL_EVENT_WR wr ∧ Canonical s ∧ telOn s = true ∧ eventUnread s = wr ∧
      s.tel.events = [List.replicate 64 1] ∧ s.tel.trace = [List.replicate 32 1]) ∧
    (telOn { streaming with pwr := { up.pwr with supplied := false } } = false) ∧
    (up.barOpen = true ∧ (BitVec.ofNat 24 (2 ^ 24 - 1)).toNat + [(1 : Byte)].length ≤ 2 ^ 24 ∧
      (List.replicate 512 (1 : Byte)).length ≤ 512 ∧ 512 < (List.replicate 513 (1 : Byte)).length) := by
  refine ⟨?_, ?_, ?_, ?_, ?_⟩
  · intro n hn
    refine ⟨canonical_of ?_, ?_⟩ <;> revert n <;> decide +kernel
  · intro n hn
    refine ⟨_, rfl, canonical_of ?_, ?_, ⟨?_, ?_⟩, ?_⟩ <;> revert n <;> decide +kernel
  · intro n hn
    refine ⟨_, rfl, canonical_of ?_, ?_⟩ <;> revert n <;> decide +kernel
  all_goals decide +kernel

theorem witness_PcieAndServiceBusAct :
    (Canonical up ∧ up.awake = true ∧ up.pwr.released = true ∧ pcieOk 6 4 true = true ∧ pcieOk 1 1 false = true ∧ pcieOk 6 4 false = false ∧
      flrClears Reg.HST_CPL_TAIL = true ∧ flrClears Reg.SCN_LEN = false) ∧
    (asking (enqueueBus [⟨1, false, .device, 0, 64, []⟩, ⟨4, false, .device, 0, 64, []⟩] up) = [1, 4] ∧ asking (enqueueBus [] up) = []) ∧
    (∃ s, s = up.setFld (Fld.SVC_ARB_WAIT 1) 16 ∧ Canonical s ∧ Forced s 1 ∧ ¬Forced s 4) ∧
    (∀ q ∈ [(⟨0, false, .telemetry, 0, 64, []⟩ : BusReq), ⟨0, true, .telemetry, 2 ^ 28 - 8, 0, List.replicate 8 1⟩, ⟨2, false, .device, 3, 8, []⟩,
        ⟨7, true, .device, 56, 0, List.replicate 64 1⟩, ⟨0, false, .device, BitVec.ofNat 48 Reg.SCN_LEN, 8, []⟩, ⟨0, true, .window, 2 ^ 24 - 8, 0, List.replicate 8 1⟩,
        ⟨0, false, .window, 0, 64, []⟩],
      up.bus.waiting = [] ∧ up.fab.lane = [] ∧ mayAsk up q.req.toNat = true ∧ busReqOk q = true ∧ up.stacksRest = false) ∧
    (up.inStacks 3 8 = true ∧ up.inStacks 56 64 = true ∧ (regAt (BitVec.ofNat 48 Reg.SCN_LEN).toNat).isSome = true ∧
      (BitVec.ofNat 48 Reg.SCN_LEN).toNat % 8 = 0 ∧ up.inStacks (up.fld Fld.HST_TEL_BASE_BASE) 64 = true) := by
  refine ⟨⟨canonical_of ?_, ?_⟩, ?_, ⟨_, rfl, canonical_of ?_, ?_, ?_⟩, ?_, ?_⟩ <;> (try unfold Forced) <;> decide +kernel

/-! ### Register writes -/

/-- A host's writes reach the registers of a started device. -/
def Writes (s : State) : Bool := s.barOpen && decide (s.fld Fld.SMG_BOOT_STAGE ≠ 5) && s.bus.waiting.isEmpty && s.fab.lane.isEmpty

theorem hostWrites_of {s : State} (h : Writes s = true) : HostWrites s := by
  simp only [Writes, Bool.and_eq_true, decide_eq_true_eq, List.isEmpty_iff] at h
  exact ⟨h.1.1.1, h.1.1.2, h.1.2, h.2⟩

/-- The T and Q fields that a row writes, with what their rule says. -/
def held (s : State) (i : Instr) : List (Nat × Option Verdict) :=
  match regRow i with
  | some (a, v) => match regAt a with
    | some (r, _) => (r.fields.filter fun f => decide (f.acc = .rw ∧ (f.apply = .t ∨ f.apply = .q))).map fun f =>
        (f.lo, if (regRule s a v).isNone then some (fieldRule s a f.lo (bitsGet v f.lo f.w)) else none)
    | none => []
  | none => []

theorem witness_WritesWaitInShadow :
    (∀ i ∈ [Instr.clearHalt, .timRoleWrite true, .timCtrlWrite true, .timEpochWrite (BitVec.allOnes 64), .hstCplHeadWrite 0xFFFF, .pinClear, .pinTest,
        .trlInjectRes 95, .trlInjectSec 95, .cfrInjectSec 95, .spdInjectSec 95, .memInjectSym 11, .klInjectCrc 47, .klInjectFec 47, .xclInjectRes,
        .rhsInjectDigest, .retrain 47, .selftest, .zeroise, .debugLock, .fwCommit, .svnAdvance],
      (match heldRow i with | some (f, _, _) => !emptySite up f.reg | none => false) = true) ∧
    (∀ a ∈ [(Instr.scnLenWrite 72000), (.scnLenWrite 14400000), (.cfgHistWrite false 0), (.fabResWrite 1023 0), (.fabHopmapWrite 127 0),
        (.xclRctxCfgWrite 255 0), (.wltTagWrite 255 0), (.scnDbgHaltWrite true 0), (.cfrOvfWrite 95 true 0), (.timCueParentWrite 0x3F)],
      (held (up.setFld Fld.SDR_DEBUG_SCOPE 7) a).any (fun p => match p.2 with | some (.keep ..) => true | _ => false) = true ∧
        (match regRow a with | some (b, _) => !emptySite up b | none => false) = true) ∧
    (held up (.scnLenWrite 71999)).any (fun p => match p.2 with | some (.refuse _) => true | _ => false) = true ∧
    (held up (.fabResWrite 0 (BitVec.ofNat 64 (255 * 64 + 2 * 16384)))).any (fun p => p.2.isNone) = true ∧
    Canonical up ∧ HostWrites up ∧ HostWrites (up.setFld Fld.SDR_DEBUG_SCOPE 7) ∧ Canonical State.reset ∧ State.reset.barOpen = false ∧
    (Canonical (up.setFld Fld.SMG_BOOT_STAGE 5) ∧ (up.setFld Fld.SMG_BOOT_STAGE 5).barOpen = true) ∧
    (emptySite (up.setFld Fld.CFG_ASSEMBLY_LINK_DIES 2) (Fld.KL_CTRL_RETRAIN 47).reg = true ∧ BusFree (up.setFld Fld.CFG_ASSEMBLY_LINK_DIES 2)) := by
  refine ⟨?_, ?_, ?_, ?_, canonical_of ?_, hostWrites_of ?_, hostWrites_of ?_, canonical_of ?_, ?_, ⟨canonical_of ?_, ?_⟩, ?_, ⟨?_, ?_⟩⟩ <;> decide +kernel

/-- Registers that hold no T or Q field, and an address that no register has. -/
theorem witness_OtherRegisters :
    regAt 0xFF0003FFFFF8 = none ∧ (regAt Reg.SMG_STATUS).any (fun r => r.1.fields.all fun f => decide (f.acc = .ro ∧ f.apply = .now)) = true ∧
    (regAt Reg.SCN_STATUS).any (fun r => (r.1.fields.any fun f => decide (f.acc = .w1c)) &&
      r.1.fields.all fun g => decide ((g.acc = .ro ∨ g.acc = .w1c) ∧ g.apply = .now)) = true ∧
    (regAt Reg.CFG_ASSEMBLY).any (fun r => r.1.fields.any fun f => decide (f.acc ≠ .w1c ∧ f.apply = .x)) = true := by decide +kernel

theorem witness_IllegalWritesAreRefused :
    (Canonical up ∧ HostWrites up) ∧
    (∀ n ∈ [71640, 14400360, 72001], (BitVec.ofNat 24 n).toNat < 72000 ∨ 14400000 < (BitVec.ofNat 24 n).toNat ∨ (BitVec.ofNat 24 n).toNat % 360 ≠ 0) ∧
    ovfLegal up (bitsGet 1 0 48) (up.eff (Fld.CFR_OVF_SIZE_PAGES 95)) = false ∧
    ovfLegal up (up.eff (Fld.CFR_OVF_BASE_BASE 95)) (bitsGet 1048577 0 21) = false ∧
    histLegal up (bitsGet 1 0 48) (up.eff Fld.CFG_HIST_COUNT) = false ∧
    histLegal up (up.eff Fld.CFG_HIST_BASE_BASE) (bitsGet 65537 0 17) = false ∧
    bitsGet 1 0 48 % 2 ^ 28 ≠ 0 ∧ up.inStacks (bitsGet (BitVec.ofNat 64 (stackSize * up.nStacks)) 0 48) (2 ^ 28) = false ∧
    256 < bitsGet (BitVec.ofNat 64 (255 * 64 + 2 * 16384)) 6 8 + bitsGet (BitVec.ofNat 64 (255 * 64 + 2 * 16384)) 14 8 ∧
    (rctxLegal (up.setFld Fld.CFG_ASSEMBLY_LINK_DIES 2) 128 0 = false ∧ rctxLegal up 0 (BitVec.ofNat 64 (255 * 2 ^ 18 + 1024)) = false) ∧
    (((up.setFld Fld.SDR_DEBUG_SCOPE 0).fld Fld.SDR_DEBUG_SCOPE).testBit 1 = false ∧ (up.setFld Fld.PWR_STATE_PS 3).fld Fld.PWR_STATE_PS = 3 ∧
      Canonical (up.setFld Fld.SDR_DEBUG_SCOPE 0) ∧ HostWrites (up.setFld Fld.SDR_DEBUG_SCOPE 0)) := by
  refine ⟨⟨canonical_of ?_, hostWrites_of ?_⟩, ?_, ?_, ?_, ?_, ?_, ?_, ?_, ?_, ?_, ?_, ?_, canonical_of ?_, hostWrites_of ?_⟩ <;> decide +kernel

theorem witness_TreeWritesNameFittedLinks :
    Canonical (up.setFld Fld.CFG_ASSEMBLY_LINK_DIES 2) ∧ HostWrites (up.setFld Fld.CFG_ASSEMBLY_LINK_DIES 2) ∧
    (up.setFld Fld.CFG_ASSEMBLY_LINK_DIES 2).linkDies = 2 ∧ up.linkDies = 4 ∧
    12 * 2 ≤ (24 : BitVec 6).toNat ∧ 12 * 4 ≤ (48 : BitVec 6).toNat ∧ (62 : BitVec 6).toNat < 0x3F ∧
    2 ^ (12 * 2) ≤ (0x1000000 : BitVec 48).toNat ∧ (0xFFFFFF : BitVec 48).toNat < 2 ^ (12 * 2) := by
  refine ⟨canonical_of ?_, hostWrites_of ?_, ?_⟩ <;> decide +kernel

theorem witness_WritesInForceAtOnce :
    (Canonical up ∧ HostWrites up ∧ State.reset.barOpen = false) ∧
    (Canonical (up.setReg Reg.HST_PBA (1#64 <<< 63)) ∧ ((up.setReg Reg.HST_PBA (1#64 <<< 63)).reg Reg.HST_PBA).getLsbD (255 / 4) = true ∧
      (match exec (.msixTableWrite 255 false 0) (up.setReg Reg.HST_PBA (1#64 <<< 63)) with
        | .next t => !vectorMasked t 63
        | _ => false) = true) := by
  refine ⟨⟨canonical_of ?_, hostWrites_of ?_, ?_⟩, ⟨canonical_of ?_, ?_, ?_⟩⟩ <;> decide +kernel

/-! ### The Stage Door -/

/-- A device whose Stage Door is in a state and a lifecycle. -/
def door (st life : Nat) (d : DoorSt) : State := { (up.setFld Fld.SDR_STATUS_STATE st).setFld Fld.SDR_STATUS_LIFECYCLE life with door := d }

/-- A seeded DRBG. -/
def aDrbg : Drbg := ⟨[], [], [], 1⟩

/-- A Stage Door with certificates and a seeded DRBG. -/
def certified : DoorSt := { drbg := some aDrbg, certs := some ([1], []) }

theorem witness_SpdmRequestsAreAnswered :
    (∀ i ∈ [Instr.getVersion, .getCapabilities, .negotiateAlgorithms, .getDigests, .getCertificate 0 0 0xFFFF, .getCertificate 1 0 0, .challenge 0, .challenge 255,
      .getMeasurements 1 false, .getMeasurements 0xFE false, .getMeasurements 0xFF true], (spdmRow i).isSome) ∧
    (∀ st ∈ [0, 1, 2], ∀ t : Bool, (door st 0 { testing := t }).awake = true ∧ (door st 0 { testing := t }).fld Fld.SDR_STATUS_STATE = st ∧
      (door st 0 { testing := t }).door.testing = t) ∧
    (∀ life ∈ [0, 1, 2], DoorAnswers (door 1 life certified) ∧ (door 1 life certified).fld Fld.SDR_STATUS_LIFECYCLE = life) ∧
    ((door 1 0 { certs := none }).door.certs = none ∧ 0 < (certChain (door 1 0 certified)).length ∧ canSign (door 1 0 certified) = true ∧
      canSign (door 1 0 { certified with drbg := none }) = false ∧ (measPre (door 1 0 certified) 0).isSome ∧
      (measPre (door 1 0 certified) 2).isSome ∧ measPre (door 1 0 certified) 0xFE = none) := by
  refine ⟨?_, ?_, ?_, ?_⟩
  · decide +kernel
  · decide +kernel
  · intro l hl
    refine ⟨⟨?_, ?_, ?_⟩, ?_⟩ <;> revert l <;> decide +kernel
  · decide +kernel

/-- A commit that has read its image. -/
def aCommit (mc : Bool) (r : Nat) : Commit := ⟨true, [1], mc, r⟩

theorem witness_StageDoorEventsEnd :
    (Canonical (door 1 0 {}) ∧ (door 1 0 {}).awake = true ∧ (door 1 0 {}).fld Fld.SDR_STATUS_STATE = 1 ∧ (door 1 0 {}).door.zeroing = none) ∧
    (∀ waits read : Bool, ∃ s, s = door 1 0 { testing := true, deferred := [.spdm { kind := 0 }], svnWaits := waits, commit := some ⟨read, [1], false, 0⟩ } ∧
      canonicalB s = true ∧ s.door.testing = true ∧ s.awake = true ∧ s.fld Fld.SDR_STATUS_STATE = 1 ∧
      (0x7F : BitVec 8).toNat % 128 ≠ 0 ∧ (0x80 : BitVec 8).toNat % 128 = 0) ∧
    (∀ mesh : Bool, Canonical (door 1 0 { zeroing := some mesh }) ∧ (door 1 0 { zeroing := some mesh }).door.zeroing = some mesh) ∧
    (∀ mc : Bool, ∀ r ∈ [1, 7], ∀ wp ∈ [0, 1], ∃ s, s = (door 1 0 { commit := some (aCommit mc r) }).setFld Fld.CFG_STRAP_FLASH_WP wp ∧ Canonical s ∧
      CommitAtEnd s (aCommit mc r) ∧ s.fld Fld.CFG_STRAP_FLASH_WP = wp) := by
  refine ⟨⟨canonical_of ?_, ?_⟩, ?_, ?_, ?_⟩
  · decide +kernel
  · decide +kernel
  · intro a b
    refine ⟨_, rfl, ?_⟩; revert a b; decide +kernel
  · intro m
    refine ⟨canonical_of ?_, ?_⟩ <;> revert m <;> decide +kernel
  · intro m r hr w hw
    refine ⟨_, rfl, canonical_of ?_, ⟨?_, ?_, ?_, ?_⟩, ?_⟩ <;> revert w <;> revert r <;> revert m <;> decide +kernel

/-- The private exponent of the key whose modulus `keyN` is, as a number. -/
def keyD : Nat :=
  264324120415526840699638110105456223211078412920546360981156142519656999902848620456897741157475757324492162307491154962207957655668138800959799919659035343708640784393687348051255763391968485654527022962769209719228186946645131186573445980487128003628748758224605040470078657713762001222516869342871966318704770604346970593480595836889169586505631064539355161749863120142988899897236730831929479267070856297630604589332955530872799720174101966009474559869104349967159606045583524294166684472669515107556046410396161173410335877986159743199786182547212523335912383393369890402497667002482994809994501632700395803821032998973764026935663329677085309609639764376321837911491484942569838522232219984702258155857613901850871031641914698801953247911493478073820467500216963453252922074724435785020702449189749243968701620620963262957630699296737786229465666576598701157036001605981832250730001880363563259911572640628009275622549

theorem witness_ManufacturePortAndJtagAct :
    (∀ key ∈ [0, 1], ∀ certs ∈ [none, some (([] : List Byte), ([] : List Byte))], ∀ testing : Bool,
      Canonical ((door 1 0 { keyArea := key, certs := certs, testing := testing }).setFld Fld.CFG_STRAP_MFG 1) ∧
      mfgPort ((door 1 0 { keyArea := key, certs := certs, testing := testing }).setFld Fld.CFG_STRAP_MFG 1) = true) ∧
    mfgPort up = false ∧
    keyConsistent (aModulus, beBytes 384 keyD) = true ∧ keyConsistent (aModulus, [1]) = false ∧
    (List.replicate 2048 (1 : Byte)).length + (List.replicate 2048 (1 : Byte)).length ≤ 4096 ∧
    (∀ halted ∈ [[], [true]], ∀ scope ∈ [0, 4], Canonical { up.setFld Fld.SDR_DEBUG_SCOPE scope with tap := { halted := halted } } ∧
      smgScope { up.setFld Fld.SDR_DEBUG_SCOPE scope with tap := { halted := halted } } = decide (scope = 4)) ∧
    up.pwr.supplied = true ∧ up.awake = true := by
  refine ⟨?_, ?_, ?_, ?_, ?_, ?_, ?_⟩
  · intro k hk c hc t
    refine ⟨canonical_of ?_, ?_⟩ <;> revert t <;> revert c <;> revert k <;> decide +kernel
  · decide +kernel
  · decide +kernel
  · decide +kernel
  · decide +kernel
  · intro h hh c hc
    refine ⟨canonical_of ?_, ?_⟩ <;> revert c <;> revert h <;> decide +kernel
  · decide +kernel
/-! ### Supplies, start-up and trips -/

theorem witness_SuppliesAndPerstResetTheDevice :
    ∀ supplied perst : Bool, ∃ s, s = { up with pwr := { up.pwr with supplied := supplied, perst := perst } } ∧ Canonical s ∧
      s.pwr.supplied = supplied ∧ s.pwr.perst = perst := by
  intro a b
  refine ⟨_, rfl, canonical_of ?_, rfl, rfl⟩
  revert a b; decide +kernel

/-- The signatures of the two images under the key, made outside the model. -/
def imageSig (mc : Bool) : Nat :=
  if mc then 1771650086712943696713723131073899835924568660412747582067207878592433867083113873852910421045828913349008954280088174053230297590669716788347194497396574079677389875467218863973876652677103887053117009666306529729467146916032467569139666568362219430182397110239058020368726429275439036495168659391716305240861189504682312094851770473935774191080424777126866784320437869430193994569667588281424346226954508526980742400777297875940022504191642936695721752322703553682306870797445096991568039123757840520896012378667736539212535045173539742112149241929059051671810858505379122232180444811162113247496062580842964669576787888745802941040869194853724275048328453336191554603660557209041388881998142400514745224001291822424066036010780224206517866739626952889808403346993555525501806059673785737774283845988268751142790614811384345887767262713924629317741424116184312333341923370422381978953572864142973441744623785077769896997517
  else 2448797821828378234282868717694960825319433067419575931417510558009211178500984331768495320305949015229635569577972881152052266225345434356972451291465949988772909271662599314586046336560128432855781272561056741036960218307551196501562787370431278971404105793606192731043011740502081388546500048056518946239817343865634831397714794366077326345651816887062673577161287986843986052539356603296076213676806334479558782991103942174556065799184267502311138580934208825076929148188991730730855842772190661832202016051172693734488092006407942632594374688793083745030203136106083168366216637983746800056580159279508342535486516947479375781237440785113732984742759164344728201040444610606867975943680992448045850332613667376413436236489133145857099549075508198251396285543668693778279606828946299111815485950207258978597865864045280106090875116324921960740417971111410063584281367052093647924480583428867188160353420970162733188841371

/-- An image of the Stage Manager's firmware or of the microcode, with no body, signed with the key (R381). -/
def anImage (mc : Bool) : List Byte :=
  [0x53#8, 0x56#8, 0x54#8, 0x46#8, 0x57#8, 0x33#8] ++ (if mc then [0x4D#8, 0x43#8] else [0x53#8, 0x4D#8]) ++ leBytes 2 1 ++
    leBytes 1 (if mc then 2 else 1) ++ List.replicate 13 0 ++
    beBytes 32 0xe3b0c44298fc1c149afbf4c8996fb92427ae41e4649b934ca495991b7852b855 ++ List.replicate 72 0 ++ aModulus ++
    beBytes 384 (imageSig mc)

/-- A device whose Stage Door boots. -/
def booting (flash : Bool → FlashCopy × FlashCopy) (zeroing : Option Bool) (r : Readings) : State :=
  { State.reset with
    pwr := { State.reset.pwr with readings := r }
    door := { fwKeys := [aKeyHash], flashSm := flash false, flashMc := flash true, zeroStarted := zeroing.isSome, zeroing := zeroing } }

/-- A flash whose first copies are good. -/
def goodFlash (mc : Bool) : FlashCopy × FlashCopy := (anImage mc, [])

theorem witness_StartUpReachesPs2 :
    (∀ z ∈ [none, some false, some true], Canonical (booting (fun _ => ([], [])) z {}) ∧ (booting (fun _ => ([], [])) z {}).awake = true ∧
      (booting (fun _ => ([], [])) z {}).pwr.released = false ∧ (booting (fun _ => ([], [])) z {}).fld Fld.SDR_STATUS_STATE = 0 ∧
      (booting (fun _ => ([], [])) z {}).door.zeroStarted = z.isSome ∧ (booting (fun _ => ([], [])) z {}).fld Fld.SDR_STATUS_LIFECYCLE ≠ 2 ∧
      (0x7F : BitVec 8).toNat % 128 ≠ 0 ∧ (0 : BitVec 8).toNat % 128 = 0 ∧ bootPair (booting (fun _ => ([], [])) z {}) = none) ∧
    (∀ r ∈ [{}, { coldplate := 16 * 55 + 1 }], canonicalB (booting goodFlash none r) = true ∧ (booting goodFlash none r).awake = true ∧
      (booting goodFlash none r).pwr.released = false ∧ (booting goodFlash none r).fld Fld.SDR_STATUS_STATE = 0 ∧
      (assemblyFault (booting goodFlash none r) 0).isSome ∧ assemblyFault (booting goodFlash none r) 0xFFFF = none ∧
      tripOf (booting goodFlash none r) (booting goodFlash none r).pwr.readings 159 = (if r = {} then none else some (4, 0x7F)) ∧
      (booting goodFlash none r).fld Fld.PWR_STATE_FAULT_STOP = 0) ∧
    bootPair (booting goodFlash none {}) = some (anImage false, anImage true) ∧
    (Canonical { up with pwr := { up.pwr with ramping := true } } ∧ Canonical { up with pwr := { up.pwr with clearing := true } } ∧
      railExists up 112 = true ∧ (0x800 : BitVec 12).toNat % 2 ^ up.nStacks ≠ 0 ∧ (0 : BitVec 12).toNat % 2 ^ up.nStacks = 0) := by
  refine ⟨?_, ?_, ?_, ⟨canonical_of ?_, canonical_of ?_, ?_⟩⟩
  · intro z hz
    refine ⟨canonical_of ?_, ?_⟩ <;> revert z <;> decide +kernel
  all_goals decide +kernel

theorem witness_TripsEnterFaultStop :
    (Canonical up ∧ up.awake = true ∧ up.fld Fld.PWR_STATE_FAULT_STOP = 0) ∧
    (∀ i ∈ [Instr.vinOvercurrent, .railFault 113, .sensorRead { temps := [16 * 110] }, .sensorRead { coldplate := 16 * 65 }, .lockstep true, .lockstep false, .tcmUncorr],
      (tripRow up i).isSome) ∧
    noTrip up (.railFault 127) ∧ noTrip State.reset (.lockstep true) ∧ noTrip State.reset .tcmUncorr ∧ State.reset.awake = true ∧
    (∃ s, s = { up with pwr := { up.pwr with perst := true } } ∧ Canonical s ∧ s.awake = false ∧ (tripRow s .vinOvercurrent).isSome) ∧
    tripOf up { coldplate := 16 * 65 - 1 } 0 = none ∧ Canonical (up.setFld Fld.PWR_STATE_FAULT_STOP 1) ∧
    (up.setFld Fld.PWR_STATE_FAULT_STOP 1).fld Fld.PWR_STATE_FAULT_STOP = 1 := by
  refine ⟨⟨canonical_of ?_, ?_⟩, ?_, .inl ⟨_, rfl, ?_⟩, .inr ⟨.inl ⟨_, rfl⟩, ?_⟩, .inr ⟨.inr rfl, ?_⟩, ?_, ⟨_, rfl, canonical_of ?_, ?_⟩, ?_,
    canonical_of ?_, ?_⟩ <;> decide +kernel

theorem witness_SevereEventsAct :
    (∀ d ∈ [(⟨1, false, 0, 0⟩ : SevereDue), ⟨1, true, 0, 0⟩], ∀ suspect ∈ [0, 1], ∀ pin ∈ [0, 1], ∀ before ∈ [0, 1],
      canonicalB { ((up.setFld (Fld.FLT_SRC_CFG_SUSPECT 1) suspect).setFld (Fld.FLT_SRC_CFG_PIN 1) pin).setFld Fld.FLT_STATUS_SUSPECT before with flt := { severe := [d] } } = true ∧
      (((up.setFld (Fld.FLT_SRC_CFG_SUSPECT 1) suspect).setFld (Fld.FLT_SRC_CFG_PIN 1) pin).setFld Fld.FLT_STATUS_SUSPECT before).fld (Fld.FLT_SRC_CFG_SUSPECT 1) = suspect ∧
      (((up.setFld (Fld.FLT_SRC_CFG_SUSPECT 1) suspect).setFld (Fld.FLT_SRC_CFG_PIN 1) pin).setFld Fld.FLT_STATUS_SUSPECT before).fld (Fld.FLT_SRC_CFG_PIN 1) = pin ∧
      (((up.setFld (Fld.FLT_SRC_CFG_SUSPECT 1) suspect).setFld (Fld.FLT_SRC_CFG_PIN 1) pin).setFld Fld.FLT_STATUS_SUSPECT before).fld Fld.FLT_STATUS_SUSPECT = before) ∧
    up.flt.severe = [] := by decide +kernel

/-- A Rehearsal of cores 0 and 1. -/
def aRun : RhsRun := { a := 0, b := 1, due := 0, round := 0, forced := false, inj := false }

theorem failingTest_none (s : State) (r : RhsRun) (hs : r.spoil = false) (hi : r.inj = false) : failingTest s r {} = 0 := by
  simp [failingTest, residueFails, rhsDiffers, rhsCaptured, lowestTest, hs, hi]

theorem le_foldl_min (l : List Nat) (t : Nat) (ht : 1 ≤ t) (h : ∀ x ∈ l, 1 ≤ x) : 1 ≤ l.foldl min t := by
  induction l generalizing t with
  | nil => exact ht
  | cons a l ih =>
    exact ih _ (by have := h a (by simp); omega) fun x hx => h x (by simp [hx])

theorem failingTest_spoiled (s : State) (r : RhsRun) (hs : r.spoil = true) : failingTest s r {} ≠ 0 := by
  have : failingTest s r {} = (rhsDiffers s r [] r.inj).foldl min 1 := by
    simp [failingTest, residueFails, lowestTest, hs]
  rw [this]
  have := le_foldl_min (rhsDiffers s r [] r.inj) 1 (Nat.le_refl 1) fun x hx => by
    have := (List.mem_filter.mp hx).1
    simp at this; omega
  omega

theorem witness_RehearsalsRunTheirCourse :
    (∃ s : State, s = { up.setFld Fld.SCN_COUNT_SCENE 65536 with rhs := { d0 := true } } ∧ Canonical s ∧ s.healthHalted = false ∧
      s.fld Fld.RHS_DUE_SCENE + s.fld Fld.RHS_CTRL_INTERVAL ≤ s.fld Fld.SCN_COUNT_SCENE ∧ s.fld Fld.PWR_STATE_PS ≤ 2) ∧
    (∃ s : State, s = { up with rhs := { opp := true } } ∧ Canonical s ∧ ∃ a b, pairOf s 0 = (a, b) ∧ pairDue s a b = true ∧ pairFree s a b = true ∧
      opportunity s a b = true ∧ opportunity up a b = false) ∧
    (∃ s : State, s = { up.setFld Fld.SCN_COUNT_SCENE 1 with tim := { sceneOn := true }, rhs := { forced := [(0, 0)] } } ∧ Canonical s ∧ (0, 0) ∈ s.rhs.forced ∧
      0 < s.fld Fld.SCN_COUNT_SCENE ∧ pairFree s (pairOf s 0).1 (pairOf s 0).2 = true ∧ s.tim.now ≤ s.cycleAt 0) ∧
    (∀ spoil : Bool, ∃ s : State, s = { up with rhs := { running := [{ aRun with spoil := spoil }] } } ∧ Canonical s ∧
      (s.rhs.running.find? fun r => decide (r.a = 1 ∨ r.b = 1)) = some { aRun with spoil := spoil } ∧ s.rhs.decided.contains 0 = false ∧
      (spoil = false → failingTest s { aRun with spoil := spoil } {} = 0) ∧ (spoil = true → failingTest s { aRun with spoil := spoil } {} ≠ 0)) := by
  refine ⟨⟨_, rfl, canonical_of ?_, ?_⟩, ⟨_, rfl, canonical_of ?_, _, _, rfl, ?_⟩, ⟨_, rfl, canonical_of ?_, ?_⟩, fun spoil =>
    ⟨_, rfl, canonical_of ?_, ?_, ?_, fun h => failingTest_none _ _ h rfl, fun h => failingTest_spoiled _ _ h⟩⟩ <;>
    first | (revert spoil; decide +kernel) | decide +kernel
/-! ### Watches, the scrub and twin mode -/

theorem witness_WatchesAndScrubAct :
    (∀ n ∈ [4095, 4096], Canonical { up.setFld Fld.HST_CPL_CTRL_LOG2 4 with frost := { n := n } } ∧
      0 < cplFree { up.setFld Fld.HST_CPL_CTRL_LOG2 4 with frost := { n := n } }) ∧
    (Canonical { up with wiltAlarms := [⟨1, 2, 3⟩], wiltLongs := [⟨1, 2, 3⟩] } ∧ EventsTaken { up with wiltAlarms := [⟨1, 2, 3⟩], wiltLongs := [⟨1, 2, 3⟩] }) ∧
    (∀ l ∈ [0, 2 ^ 24 - 1], Canonical { up.setFld Fld.MEM_CTRL_SCRUB_EN 1 with scrub := { line := l } } ∧
      scrubOn { up.setFld Fld.MEM_CTRL_SCRUB_EN 1 with scrub := { line := l } } = true ∧ up.ecc = []) ∧
    (∃ s, s = { up.setFld Fld.MEM_CTRL_SCRUB_EN 1 with ecc := [(5, .corr), (512 * 5, .uncorr), (512 * 5 + 4, .corr)], scrub := { line := 5, back := [1] } } ∧
      Canonical s ∧ scrubOn s = true ∧ ScrubReads s 0 (512 * 5) ∧ ScrubReads s 0 (512 * 5 + 4) ∧ s.uncorr (64 * (512 * 5 / 4)) 64 = true ∧
      s.uncorr (64 * ((512 * 5 + 4) / 4)) 64 = false) ∧
    (∀ done ∈ [[], [(⟨31, 2, 3, 4, 5⟩ : TwinRec)]], Canonical { up.setFld Fld.FAB_CTRL_QUIESCE 1 with twin := { due := true, done := done } } ∧
      (up.setFld Fld.FAB_CTRL_QUIESCE 1).fld Fld.FAB_CTRL_QUIESCE = 1) ∧
    (∀ hops ∈ [0, 1], ∃ s, s = { (net up).setFld Fld.XCL_TWIN_PEER_HOPS hops with twin := { due := true, done := [⟨31, 2, 3, 4, 5⟩] } } ∧ Canonical s ∧
      s.fld Fld.FAB_CTRL_QUIESCE = 0 ∧ s.eng.ckp = none ∧ s.eng.rst = none ∧ s.eng.wait = [] ∧ s.eng.reqs.length + (exchangeWrites s).length ≤ 64 ∧
      (match launchTest s (twinRoute s).route (twinRoute s).hops 24 none with | .ok _ => true | .bad _ _ => false) = decide (hops = 1)) := by
  refine ⟨?_, ⟨canonical_of ?_, .inl ⟨?_, ?_⟩⟩, ?_, ⟨_, rfl, canonical_of ?_, ?_, ⟨?_, ?_, ?_, ?_⟩, ⟨?_, ?_, ?_, ?_⟩, ?_, ?_⟩, ?_, ?_⟩
  · intro n hn
    refine ⟨canonical_of ?_, ?_⟩ <;> revert n <;> decide +kernel
  · decide +kernel
  · decide +kernel
  · decide +kernel
  · intro n hn
    refine ⟨canonical_of ?_, ?_⟩ <;> revert n <;> decide +kernel
  · decide +kernel
  · decide +kernel
  · decide +kernel
  · decide +kernel
  · decide +kernel
  · decide +kernel
  · decide +kernel
  · decide +kernel
  · decide +kernel
  · decide +kernel
  · decide +kernel
  · decide +kernel
  · intro n hn
    refine ⟨canonical_of ?_, ?_⟩ <;> revert n <;> decide +kernel
  · intro n hn
    refine ⟨_, rfl, canonical_of ?_, ?_⟩ <;> revert n <;> decide +kernel

/-- Twin mode with K = 1. -/
def twinned (scene : Nat) : State :=
  { ((up.setFld Fld.XCL_TWIN_CTRL_EN 1).setFld Fld.XCL_TWIN_CTRL_K 1).setFld Fld.SCN_COUNT_SCENE scene with twin := { on := true } }

theorem witness_TwinSilenceIsReported :
    (∀ n ∈ [3, 4], Canonical (twinned n) ∧ (twinned n).fld Fld.XCL_TWIN_CTRL_EN = 1 ∧
      (decide ((twinned n).twin.since + 4 * (twinned n).fld Fld.XCL_TWIN_CTRL_K ≤ (twinned n).fld Fld.SCN_COUNT_SCENE) = decide (n = 4))) ∧
    (∃ s : State, s = (twinned 4).write ((twinned 4).fld Fld.XCL_TWIN_INBOX_BASE + 64) (twinBytes (twinned 4) 1 ⟨0, 2, 3, 4, 5⟩) ∧ Canonical s ∧ (inboxNext s).isSome ∧
      s.healthHalted = false ∧ s.controlHalted = false ∧
      s.ready = true ∧ s.tim.cuesRun = false ∧ NothingHeld s ∧ s.cmdEff = [] ∧ s.posadd = [] ∧ s.twin.on = true) := by
  refine ⟨?_, ⟨_, rfl, canonical_of ?_, ?_, ?_, ?_, ?_, ?_, ⟨?_, ?_, ?_, ?_⟩, ?_⟩⟩
  · intro n hn
    refine ⟨canonical_of ?_, ?_⟩ <;> revert n <;> decide +kernel
  all_goals decide +kernel

end Sys2Proof.Tests
end

/-! ### A host write of one field that is held in shadow

What a host write does while no other transfer asks for the service bus (R326): requester 0 is granted at once, and the write of
the register is carried out on the state that the grant leaves. The lemmas follow a write from the arbiter to the shadow. -/

namespace Sys2Proof.Proofs

open Sys2Proof.Machine Sys2Proof.Safety Sys2Proof.Laws

variable {s t u : State}

/-! #### Frames -/

theorem onlyWrites_iff : OnlyWrites s t ↔ ∃ r b p q, t = { s with regs := r, bus := b, pendT := p, pendQ := q } := by
  constructor
  · intro h
    exact ⟨_, _, _, _, h⟩
  · rintro ⟨r, b, p, q, rfl⟩
    rfl

theorem onlyWrites_trans (h1 : OnlyWrites s t) (h2 : OnlyWrites t u) : OnlyWrites s u := by
  obtain ⟨r1, b1, p1, q1, rfl⟩ := onlyWrites_iff.1 h1
  obtain ⟨r2, b2, p2, q2, rfl⟩ := onlyWrites_iff.1 h2
  rfl

theorem onlyWrites_setFld (s : State) (f : Fld) (x : Nat) : OnlyWrites s (s.setFld f x) := rfl

theorem onlyWrites_setBits (fs : List Fld) : ∀ s, OnlyWrites s (setBits fs s) := by
  induction fs with
  | nil => intro s; rfl
  | cons f fs ih => intro s; exact onlyWrites_trans (onlyWrites_setFld s f 1) (ih (s.setFld f 1))

theorem setBits_pend (fs : List Fld) : ∀ s, (setBits fs s).pendT = s.pendT ∧ (setBits fs s).pendQ = s.pendQ := by
  induction fs with
  | nil => intro s; exact ⟨rfl, rfl⟩
  | cons f fs ih => intro s; exact ih (s.setFld f 1)

theorem onlyWrites_holdWrite (q : Bool) (f : Fld) (x : Nat) (s : State) : OnlyWrites s (holdWrite q f x s) := by
  cases q <;> rfl

theorem reg_holdWrite (q : Bool) (f : Fld) (x : Nat) (s : State) (a : Nat) : (holdWrite q f x s).reg a = s.reg a := by
  cases q <;> rfl

@[simp] theorem fld_holdWrite (q : Bool) (f : Fld) (x : Nat) (s : State) (g : Fld) : (holdWrite q f x s).fld g = s.fld g := by
  unfold State.fld
  rw [reg_holdWrite]

/-- The shadow holds the write, and no older one of the same field (R322). -/
theorem heldWrite_holdWrite (q : Bool) (f : Fld) (x : Nat) (s : State) : HeldWrite q f x (holdWrite q f x s) := by
  have hlast (l : List PendW) : (⟨f.reg, f.lo, f.w, x⟩ : PendW) ∈ (l.filter fun p => !p.on f) ++ [⟨f.reg, f.lo, f.w, x⟩] ∧
      ∀ p ∈ (l.filter fun p => !p.on f) ++ [⟨f.reg, f.lo, f.w, x⟩], p.on f = true → p.val = x := by
    refine ⟨by simp, fun p hp hon => ?_⟩
    rcases List.mem_append.1 hp with hold | hnew
    · simp [hon] at hold
    · rw [List.mem_singleton.1 hnew]
  cases q
  · exact hlast s.pendT
  · exact hlast s.pendQ

/-! #### The grant -/

theorem fld_lt (s : State) (f : Fld) : s.fld f < 2 ^ f.w := BitVec.isLt _

theorem nextAfter_nil (p : Nat) : nextAfter p [] = none := by simp [nextAfter]

/-- Round robin over one requester comes to that requester, whatever the pointer. -/
theorem nextAfter_singleton (p : Nat) {r : Nat} (hr : r < 8) : nextAfter p [r] = some r := by
  unfold nextAfter
  have hmem : r ∈ (List.range 8).map fun i => (p + 1 + i) % 8 :=
    List.mem_map.2 ⟨(r + 7 - p % 8) % 8, List.mem_range.2 (by omega), by omega⟩
  cases h : ((List.range 8).map fun i => (p + 1 + i) % 8).find? fun k => [r].contains k with
  | none => simpa using List.find?_eq_none.1 h r hmem
  | some k => simpa using List.find?_some h

/-- The one requester that asks is granted (R326). -/
theorem arbiter_singleton (s : State) {r : Nat} (hr : r < 8) : arbiter s [r] = some (r, s.fld (Fld.SVC_ARB_CLASS r)) := by
  by_cases hf : Forced s r
  · have : s.fld (Fld.SVC_ARB_LIMIT r) ≠ 0 ∧ s.fld (Fld.SVC_ARB_WAIT r) = s.fld (Fld.SVC_ARB_LIMIT r) := hf
    simp [arbiter, this, nextAfter_singleton _ hr]
  · have hn : ¬(s.fld (Fld.SVC_ARB_LIMIT r) ≠ 0 ∧ s.fld (Fld.SVC_ARB_WAIT r) = s.fld (Fld.SVC_ARB_LIMIT r)) := hf
    have hc : s.fld (Fld.SVC_ARB_CLASS r) < 4 := fld_lt s (Fld.SVC_ARB_CLASS r)
    simp only [arbiter, List.filter_cons, List.filter_nil, hn, decide_false, Bool.false_eq_true, if_false, ne_eq, not_true_eq_false]
    generalize s.fld (Fld.SVC_ARB_CLASS r) = c at hc
    interval_cases c <;> simp [nextAfter_nil, nextAfter_singleton _ hr]

theorem asking_of_busFree (h : BusFree s) : asking s = [] := by
  obtain ⟨hw, hl⟩ := h
  simp [asking, hw, hl]

/-- While no other transfer asks, a requester has its turn at once. -/
theorem busUse_of_busFree (h : BusFree s) {r : Nat} (hr : r < 8) (f : State → State) : busUse r f s = f (granted r [r] s) := by
  obtain ⟨hw, hl⟩ := id h
  simp [busUse, turnsUntil, asking_of_busFree h, arbiter_singleton s hr, hw]

theorem hostWrite_of_hostWrites (h : HostWrites s) (a : Nat) (v : Word) : hostWrite a v s = writeReg 0 a v (granted 0 [0] s) := by
  obtain ⟨hb, _, hf⟩ := h
  rw [hostWrite, if_pos hb, busUse_of_busFree hf (by decide)]

theorem onlyWrites_granted_alone (r : Nat) (s : State) : OnlyWrites s (granted r [r] s) := by
  simp [granted, OnlyWrites]

theorem granted_alone_pend (r : Nat) (s : State) : (granted r [r] s).pendT = s.pendT ∧ (granted r [r] s).pendQ = s.pendQ := by
  simp [granted]

/-- A grant with no loser writes the winner's arbiter register alone. -/
theorem reg_granted_alone (h : Canonical s) (r : Nat) {a : Nat} (ha : a ≠ Reg.SVC_ARB r) : (granted r [r] s).reg a = s.reg a := by
  have h1 : RegsOk (s.setFld (Fld.SVC_ARB_WAIT r) 0) := (setFld_good (Canonical.good h)).regs_ok
  have h2 : (granted r [r] s).reg a = ((s.setFld (Fld.SVC_ARB_WAIT r) 0).addSat (Fld.SVC_ARB_WINS r) 1).reg a := by
    simp [granted, State.reg]
  rw [h2]
  exact (State.reg_setFld_other h1 _ ha).trans (State.reg_setFld_other h.regs _ ha)

theorem fld_granted_alone (h : Canonical s) (r : Nat) {f : Fld} (hf : f.reg ≠ Reg.SVC_ARB r) : (granted r [r] s).fld f = s.fld f := by
  unfold State.fld
  rw [reg_granted_alone h r hf]

theorem canonical_granted (h : Canonical s) (r : Nat) (rs : List Nat) : Canonical (granted r rs s) :=
  (granted_good (Canonical.good h)).canon

/-! #### The write of a register that has one field -/

/-- The host's value for a register of one field holds that field and nothing else. -/
theorem hostField_of_single {f : Fld} {r : RegRow} {n : Nat} {c : FieldRow} (hr : regAt f.reg = some (r, n)) (hs : r.fields = [c])
    (hc : c.lo = f.lo) (x : Nat) : hostField f x s = hostWrite f.reg (bitsPut 0 f.lo f.w x) s := by
  simp [hostField, hr, hs, hc]

/-- The write of a register of one field that no rule of the whole register refuses is the write of that field. -/
theorem writeReg_of_single {req a n : Nat} {v : Word} {r : RegRow} {c : FieldRow} (hb : s.fld Fld.SMG_BOOT_STAGE ≠ 5)
    (hr : regAt a = some (r, n)) (hs : r.fields = [c]) (he : emptySite s a = false) (hw : regRule s a v = none) (hc : c.acc = .rw) :
    writeReg req a v s = writeField req a c (bitsGet v c.lo c.w) s := by
  simp [writeReg, hb, hr, hs, he, hw, hc, FieldRow.atOnce]

/-- A Q field whose rule takes the value holds it in shadow, with the rule's status bits set (R322). -/
theorem writeField_keep {req a x v : Nat} {c : FieldRow} {flags : List Fld} (hq : c.apply = .q) (hc : c.acc = .rw)
    (hk : fieldRule s a c.lo x = .keep v flags) : writeField req a c x s = holdWrite true ⟨a, c.lo, c.w⟩ v (setBits flags s) := by
  simp [writeField, hq, hc, hk]

/-- A Q field whose rule refuses the value sets the rule's status bits and holds nothing (R322). -/
theorem writeField_refuse {req a x : Nat} {c : FieldRow} {flags : List Fld} (hq : c.apply = .q) (hc : c.acc = .rw)
    (hk : fieldRule s a c.lo x = .refuse flags) : writeField req a c x s = setBits flags s := by
  simp [writeField, hq, hc, hk]

/-- The host's write of a register whose one field is held in Q, while no other transfer asks for the bus: it is the write of that
field, on the state that the grant leaves. -/
theorem hostField_eq_writeField {f : Fld} {r : RegRow} {n x : Nat} (h : Canonical s) (hw : HostWrites s)
    (hr : regAt f.reg = some (r, n)) (hs : r.fields = [⟨f.lo, f.w, .rw, .q⟩]) (he : ∀ t, emptySite t f.reg = false)
    (hn : ∀ t v, regRule t f.reg v = none) (hf : f.lo + f.w ≤ 64) (hx : x < 2 ^ f.w) :
    hostField f x s = writeField 0 f.reg ⟨f.lo, f.w, .rw, .q⟩ x (granted 0 [0] s) := by
  have hb : (granted 0 [0] s).fld Fld.SMG_BOOT_STAGE ≠ 5 := by
    rw [fld_granted_alone h 0 (by decide)]
    exact hw.2.1
  rw [hostField_of_single hr hs rfl, hostWrite_of_hostWrites hw, writeReg_of_single hb hr hs (he _) (hn _ _) rfl,
    bitsGet_bitsPut_same _ _ hf, Nat.mod_eq_of_lt hx]

end Sys2Proof.Proofs

/-! ### The cue tree (R49) -/

namespace Sys2Proof.Proofs

open Sys2Proof.Machine Sys2Proof.Safety

variable {s : State}

theorem regAt_cueParent : regAt Reg.TIM_CUE_PARENT = some (⟨false, Reg.TIM_CUE_PARENT, 0, 1, 0x3F, [⟨0, 6, .rw, .q⟩]⟩, 0) := by
  decide +kernel

theorem regAt_cueChild : regAt Reg.TIM_CUE_CHILD = some (⟨false, Reg.TIM_CUE_CHILD, 0, 1, 0, [⟨0, 48, .rw, .q⟩]⟩, 0) := by
  decide +kernel

/-- A register of the block that holds the cue tree belongs to no site. -/
theorem emptySite_of_lt (s : State) {a : Nat} (ha : a < 0xFF0000030000) : emptySite s a = false := by
  simp [emptySite, Reg.PWR_RAIL]
  omega

theorem regRule_cueParent (s : State) (v : Word) : regRule s Reg.TIM_CUE_PARENT v = none := by
  simp [regRule, Reg.TIM_CUE_PARENT, Reg.SCN_DBG_HALT0, Reg.SCN_DBG_HALT1, Reg.FAB_RES, Reg.XCL_RCTX_CFG]

theorem regRule_cueChild (s : State) (v : Word) : regRule s Reg.TIM_CUE_CHILD v = none := by
  simp [regRule, Reg.TIM_CUE_CHILD, Reg.SCN_DBG_HALT0, Reg.SCN_DBG_HALT1, Reg.FAB_RES, Reg.XCL_RCTX_CFG]

theorem fieldRule_cueParent (s : State) (v : Nat) : fieldRule s Reg.TIM_CUE_PARENT 0 v =
    needs (decide (v = 0x3F ∨ v < 12 * s.linkDies)) v [Fld.TIM_STATUS_TREE_EMPTY] := by
  simp [fieldRule, Fld.SCN_LEN_LEN, Fld.TIM_CUE_PARENT_PORT, Reg.TIM_CUE_PARENT, Reg.SCN_LEN]

theorem fieldRule_cueChild (s : State) (v : Nat) : fieldRule s Reg.TIM_CUE_CHILD 0 v =
    .keep (v % 2 ^ (12 * s.linkDies)) (if v < 2 ^ (12 * s.linkDies) then [] else [Fld.TIM_STATUS_TREE_EMPTY]) := by
  have hm : v &&& fittedLinks s = v % 2 ^ (12 * s.linkDies) := Nat.and_two_pow_sub_one_eq_mod v _
  have hv : v % 2 ^ (12 * s.linkDies) = v ↔ v < 2 ^ (12 * s.linkDies) := Nat.mod_eq_iff_lt (by positivity)
  simp [fieldRule, Fld.SCN_LEN_LEN, Fld.TIM_CUE_PARENT_PORT, Fld.TIM_CUE_CHILD_MASK, Reg.TIM_CUE_PARENT, Reg.TIM_CUE_CHILD,
    Reg.SCN_LEN, hm, hv]

theorem linkDies_granted_alone (h : Canonical s) : (granted 0 [0] s).linkDies = s.linkDies := fld_granted_alone h 0 (by decide)

/-- A grant changes neither TIM_CUE_PARENT nor TIM_STATUS, and a status bit that is then set changes no other register. -/
theorem fld_setTreeEmpty (h : Canonical s) :
    (setBits [Fld.TIM_STATUS_TREE_EMPTY] (granted 0 [0] s)).fld Fld.TIM_STATUS_TREE_EMPTY = 1 ∧
      (setBits [Fld.TIM_STATUS_TREE_EMPTY] (granted 0 [0] s)).fld Fld.TIM_CUE_PARENT_PORT = s.fld Fld.TIM_CUE_PARENT_PORT := by
  have hok : RegsOk (granted 0 [0] s) := (canonical_granted h 0 [0]).regs
  constructor
  · exact State.fld_setFld_same hok 1 (by decide)
  · exact (State.fld_setFld_reg hok 1 (by decide)).trans (fld_granted_alone h 0 (by decide))

theorem exec_timCueParentWrite (port : BitVec 6) (s : State) :
    exec (.timCueParentWrite port) s = .next (hostField Fld.TIM_CUE_PARENT_PORT port.toNat s) := rfl

theorem exec_timCueChildWrite (mask : BitVec 48) (s : State) :
    exec (.timCueChildWrite mask) s = .next (hostField Fld.TIM_CUE_CHILD_MASK mask.toNat s) := rfl

/-- TIM_CUE_PARENT_WRITE that names no link of a fitted site, and is not 0x3F: the grant, and then TREE_EMPTY alone. -/
theorem exec_cueParent_refused (h : Canonical s) (hw : HostWrites s) {port : BitVec 6} (hlo : 12 * s.linkDies ≤ port.toNat)
    (hhi : port.toNat < 0x3F) :
    exec (.timCueParentWrite port) s = .next (setBits [Fld.TIM_STATUS_TREE_EMPTY] (granted 0 [0] s)) := by
  have hk : fieldRule (granted 0 [0] s) Reg.TIM_CUE_PARENT 0 port.toNat = .refuse [Fld.TIM_STATUS_TREE_EMPTY] := by
    have hbad : ¬(port.toNat = 0x3F ∨ port.toNat < 12 * s.linkDies) := by omega
    simp [fieldRule_cueParent, linkDies_granted_alone h, needs, hbad]
  rw [exec_timCueParentWrite, hostField_eq_writeField h hw regAt_cueParent rfl (emptySite_of_lt · (by decide)) regRule_cueParent
    (by decide) port.isLt]
  exact congrArg _ (writeField_refuse rfl rfl hk)

/-- TIM_CUE_CHILD_WRITE: the grant, TREE_EMPTY where the mask names a link of an empty site, and the rest of the mask held. -/
theorem exec_cueChild (h : Canonical s) (hw : HostWrites s) (mask : BitVec 48) :
    exec (.timCueChildWrite mask) s = .next (holdWrite true Fld.TIM_CUE_CHILD_MASK (mask.toNat % 2 ^ (12 * s.linkDies))
      (setBits (if mask.toNat < 2 ^ (12 * s.linkDies) then [] else [Fld.TIM_STATUS_TREE_EMPTY]) (granted 0 [0] s))) := by
  have hk := fieldRule_cueChild (granted 0 [0] s) mask.toNat
  rw [linkDies_granted_alone h] at hk
  rw [exec_timCueChildWrite, hostField_eq_writeField h hw regAt_cueChild rfl (emptySite_of_lt · (by decide)) regRule_cueChild
    (by decide) mask.isLt]
  exact congrArg _ (writeField_keep rfl rfl hk)

end Sys2Proof.Proofs

section

open Sys2Proof.Machine Sys2Proof.Safety Sys2Proof.Proofs

/-- Settles O49: the host's write has the bus at once, the rule of the field refuses the port or cuts the mask to the fitted links, and
the status bit is set on the state that the grant leaves. -/
theorem treeWritesNameFittedLinks : Obligations.TreeWritesNameFittedLinks := by
  unfold Obligations.TreeWritesNameFittedLinks
  intro s h hw _
  obtain ⟨hempty, hport⟩ := fld_setTreeEmpty h
  have hgrant (fs : List Fld) : OnlyWrites s (setBits fs (granted 0 [0] s)) :=
    onlyWrites_trans (onlyWrites_granted_alone 0 s) (onlyWrites_setBits fs _)
  constructor
  · intro port hlo hhi
    obtain ⟨hT, hQ⟩ := setBits_pend [Fld.TIM_STATUS_TREE_EMPTY] (granted 0 [0] s)
    obtain ⟨hT', hQ'⟩ := granted_alone_pend 0 s
    exact ⟨_, exec_cueParent_refused h hw hlo hhi, hgrant _, hT.trans hT', hQ.trans hQ', hport, hempty⟩
  · intro mask
    refine ⟨_, exec_cueChild h hw mask, onlyWrites_trans (hgrant _) (onlyWrites_holdWrite ..), heldWrite_holdWrite .., ?_, ?_⟩
    · intro hge
      rw [fld_holdWrite, if_neg (by omega)]
      exact hempty
    · intro hlt
      rw [fld_holdWrite, if_pos hlt]
      exact fld_granted_alone h 0 (by decide)

end

/-! ### Writes of the constant registers (R122, R171)

Every row of R167 that names a GD is a change of registers that writes GD alone, and with GD = g0 that change is none. The rows that
name a QD first check their own encoding. -/

namespace Sys2Proof.Proofs

open Sys2Proof.Machine Sys2Proof.Safety Sys2Proof.Laws

variable {c : CoreId} {i : Instr} {s s0 : State} {x : Ctx}

/-- A scalar row that starts delivers its change of registers, computed from the registers that it works with. -/
theorem delivers_scalar (h : Starts c .c i s x s0) (hc : CoresOk s) (f : Regs → Regs → Regs) :
    Delivers c .c i x (f x.regs) s (scalar c i s f) := by
  unfold scalar
  rw [starts_run h]
  exact delivers_wr h hc _

/-- A row of `scalarRow` writes its GD, and no other register, with a value of the registers that it works with. -/
theorem exec_of_scalarRow {gd : BitVec 6} {f : Regs → Word} (h : scalarRow i = some (c, gd, f)) :
    ∃ v : Regs → Word, ∀ s, exec i s = .next (scalar c i s fun r k => k.setG gd (v r)) := by
  unfold scalarRow at h
  split at h <;> cases h <;> exact ⟨_, fun _ => rfl⟩

theorem guardWf_illegal (h : i.wellFormed = false) (s : State) : guardWf i s = .fault .illegalEncoding := by
  simp [guardWf, h]

theorem wellFormed_cmp_q0 (c : CoreId) (ga gb : BitVec 6) (cc : BitVec 3) : (Instr.cmp c 0 ga gb cc).wellFormed = false := by
  simp [Instr.wellFormed]

theorem wellFormed_vcmp_q0 (c : CoreId) (va vb : BitVec 5) (cc q : BitVec 3) : (Instr.vcmp c 0 va vb cc q).wellFormed = false := by
  simp [Instr.wellFormed]

/-- CMP with an illegal field value stops, whatever the state. -/
theorem exec_cmp_illegal {qd cc : BitVec 3} {ga gb : BitVec 6} (h : (Instr.cmp c qd ga gb cc).wellFormed = false) (s : State) :
    exec (.cmp c qd ga gb cc) s = .fault .illegalEncoding :=
  guardWf_illegal h _

/-- VCMP with an illegal field value stops, whatever the state. -/
theorem exec_vcmp_illegal {qd cc q : BitVec 3} {va vb : BitVec 5} (h : (Instr.vcmp c qd va vb cc q).wellFormed = false) (s : State) :
    exec (.vcmp c qd va vb cc q) s = .fault .illegalEncoding :=
  guardWf_illegal h _

end Sys2Proof.Proofs

section

open Sys2Proof.Machine Sys2Proof.Safety Sys2Proof.Proofs

/-- Settles O8: a row with GD = g0 delivers `setG 0`, which is no change, and q0 as QD fails the check that guards CMP and VCMP. -/
theorem writesOfG0AndQ0AreIgnored : Obligations.WritesOfG0AndQ0AreIgnored := by
  unfold Obligations.WritesOfG0AndQ0AreIgnored
  refine ⟨fun r v => ⟨r.setG_zero v, r.setQ_zero v, r.gr_zero, r.qr_zero⟩, ?_,
    fun c ga gb cc => exec_cmp_illegal (wellFormed_cmp_q0 c ga gb cc),
    fun c va vb cc q => exec_vcmp_illegal (wellFormed_vcmp_q0 c va vb cc q)⟩
  intro i c f s s0 x hrow hs hstart
  obtain ⟨v, hexec⟩ := exec_of_scalarRow hrow
  have hd := delivers_scalar hstart hs.cores fun r k => k.setG 0 (v r)
  exact ⟨_, hexec s, hd.regs.trans (Regs.setG_zero _ _)⟩

end

/-! ### A link in RATE (R240, R242)

CAPABILITY_EXCHANGE writes fields of KL_STATUS that lie apart from each other, so each reads as it was written, and FAB_NODE and
KL_CTRL, on which its branches turn, read as before. -/

namespace Sys2Proof.Proofs

open Sys2Proof.Machine Sys2Proof.Safety

variable {s : State}

/-! #### Several fields written in turn -/

/-- The fields of a list, written in order. -/
def setFlds (ws : List (Fld × Nat)) (s : State) : State := ws.foldl (fun s w => s.setFld w.1 w.2) s

/-- No bit number belongs to both fields. -/
def FldsApart (f g : Fld) : Prop := f.lo + f.w ≤ g.lo ∨ g.lo + g.w ≤ f.lo

theorem regsOk_setFld (h : RegsOk s) (f : Fld) (x : Nat) : RegsOk (s.setFld f x) :=
  SMap.wf_set (d := fun a => regReset a) _ _ h

theorem fld_setFlds_reg {ws : List (Fld × Nat)} {g : Fld} (hr : ∀ w ∈ ws, g.reg ≠ w.1.reg) (h : RegsOk s) :
    (setFlds ws s).fld g = s.fld g := by
  induction ws generalizing s with
  | nil => rfl
  | cons w ws ih =>
    obtain ⟨hw, hws⟩ := List.forall_mem_cons.1 hr
    exact (ih hws (regsOk_setFld h w.1 w.2)).trans (State.fld_setFld_reg h w.2 hw)

theorem fld_setFlds_apart {ws : List (Fld × Nat)} {g : Fld} (ha : ∀ w ∈ ws, FldsApart g w.1) (h : RegsOk s) :
    (setFlds ws s).fld g = s.fld g := by
  induction ws generalizing s with
  | nil => rfl
  | cons w ws ih =>
    obtain ⟨hw, hws⟩ := List.forall_mem_cons.1 ha
    exact (ih hws (regsOk_setFld h w.1 w.2)).trans (State.fld_setFld_apart h w.2 hw)

/-- Of fields that lie apart from each other, each reads as the value written to it. -/
theorem fld_setFlds_of_mem {ws : List (Fld × Nat)} (hp : ws.Pairwise fun v w => FldsApart v.1 w.1) (h : RegsOk s) {f : Fld} {x : Nat}
    (hm : (f, x) ∈ ws) (hf : f.lo + f.w ≤ 64) (hx : x < 2 ^ f.w) : (setFlds ws s).fld f = x := by
  induction ws generalizing s with
  | nil => cases hm
  | cons w ws ih =>
    obtain ⟨hw, hws⟩ := List.pairwise_cons.1 hp
    rcases List.mem_cons.1 hm with rfl | htail
    · calc (setFlds ws (s.setFld f x)).fld f
          = (s.setFld f x).fld f := fld_setFlds_apart hw (regsOk_setFld h f x)
        _ = x % 2 ^ f.w := State.fld_setFld_same h x hf
        _ = x := Nat.mod_eq_of_lt hx
    · exact ih hws (regsOk_setFld h w.1 w.2) htail

theorem sameStores_setFlds (ws : List (Fld × Nat)) (s : State) : SameStores s (setFlds ws s) := by
  induction ws generalizing s with
  | nil => exact ⟨fun _ => rfl, fun _ => rfl⟩
  | cons w ws ih => exact ih (s.setFld w.1 w.2)

/-! #### The exchange -/

/-- What the peer reports of itself, as KL_STATUS shows it (R242). -/
def peerReport (n : Nat) (gen : BitVec 2) (type : BitVec 4) (id : BitVec 16) (port : BitVec 6) : List (Fld × Nat) :=
  [(Fld.KL_STATUS_PEER_ID n, id.toNat), (Fld.KL_STATUS_PEER_TYPE n, type.toNat), (Fld.KL_STATUS_PEER_PORT n, port.toNat),
    (Fld.KL_STATUS_PEER_GEN n, gen.toNat)]

/-- What the exchange shows, whether the link leaves RATE or not: the report, and whether the identity in it is this node's own. -/
def peerShown (n : Nat) (gen : BitVec 2) (type : BitVec 4) (id : BitVec 16) (port : BitVec 6) (clash : Bool) : List (Fld × Nat) :=
  peerReport n gen type id port ++ [(Fld.KL_STATUS_ID_CLASH n, b2n clash)]

/-- What the link shows besides as it leaves RATE: the revision taken and the state EQUALISE (R240). -/
def rateLeft (n rev : Nat) : List (Fld × Nat) := [(Fld.KL_STATUS_REV n, rev), (Fld.KL_STATUS_STATE n, 3)]

/-- The peer reports the identity of this node, which is known (R242). -/
def clashes (type : BitVec 4) (id : BitVec 16) (s : State) : Bool :=
  decide (type = 1 ∧ id.toNat = s.fld Fld.FAB_NODE_ID) && s.bit Fld.FAB_NODE_VALID

/-- The link leaves RATE: this node is known, the peer is another one of a type that is not reserved, and a common revision is offered
(R240, R242). -/
def LeavesRate (rev : BitVec 2) (type : BitVec 4) (id : BitVec 16) (s : State) : Prop :=
  s.bit Fld.FAB_NODE_VALID = true ∧ clashes type id s = false ∧ (1 ≤ type.toNat ∧ type.toNat ≤ 3) ∧ rev ≠ 0

variable {k : LinkId} {rev gen : BitVec 2} {type : BitVec 4} {id : BitVec 16} {port : BitVec 6}

/-- In the words of R242: the node is known, and the identity is not its own. -/
theorem leavesRate_iff : LeavesRate rev type id s ↔ s.fld Fld.FAB_NODE_VALID = 1 ∧ ¬(type = 1 ∧ id.toNat = s.fld Fld.FAB_NODE_ID) ∧
    (1 ≤ type.toNat ∧ type.toNat ≤ 3) ∧ rev ≠ 0 := by
  unfold LeavesRate clashes State.bit
  refine ⟨fun ⟨hv, ho, h⟩ => ?_, fun ⟨hv, ho, h⟩ => ?_⟩
  · have hv' := of_decide_eq_true hv
    exact ⟨hv', by simpa [hv'] using ho, h⟩
  · exact ⟨decide_eq_true hv, by simpa [hv] using ho, h⟩

theorem clashes_of_own (hv : s.fld Fld.FAB_NODE_VALID = 1) (ht : type = 1) (hi : id.toNat = s.fld Fld.FAB_NODE_ID) :
    clashes type id s = true := by
  simp [clashes, State.bit, hv, ht, hi]

theorem nodeReg_ne_status (n : Nat) : Reg.FAB_NODE ≠ Reg.KL_STATUS n := by
  simp only [Reg.FAB_NODE, Reg.KL_STATUS]
  omega

theorem ctrlReg_ne_status (m n : Nat) : Reg.KL_CTRL m ≠ Reg.KL_STATUS n := by
  simp only [Reg.KL_CTRL, Reg.KL_STATUS]
  omega

/-- What the exchange shows is written to KL_STATUS of the link alone. -/
theorem reg_of_mem_peerShown {n : Nat} {clash : Bool} {w : Fld × Nat} (hw : w ∈ peerShown n gen type id port clash) :
    w.1.reg = Reg.KL_STATUS n := by
  simp only [peerShown, peerReport, List.cons_append, List.nil_append, List.mem_cons, List.not_mem_nil, or_false] at hw
  rcases hw with rfl | rfl | rfl | rfl | rfl <;> rfl

theorem fld_peerShown_reg (h : RegsOk s) {n : Nat} {clash : Bool} {g : Fld} (hg : g.reg ≠ Reg.KL_STATUS n) :
    (setFlds (peerShown n gen type id port clash) s).fld g = s.fld g :=
  fld_setFlds_reg (fun _ hw => by rwa [reg_of_mem_peerShown hw]) h

theorem fld_peerReport_reg (h : RegsOk s) {n : Nat} {g : Fld} (hg : g.reg ≠ Reg.KL_STATUS n) :
    (setFlds (peerReport n gen type id port) s).fld g = s.fld g :=
  fld_setFlds_reg (fun _ hw => by rwa [reg_of_mem_peerShown (clash := true) (List.mem_append_left _ hw)]) h

/-- The identity of this node is not what the report writes. -/
theorem clashes_peerReport (h : RegsOk s) (n : Nat) :
    clashes type id (setFlds (peerReport n gen type id port) s) = clashes type id s := by
  simp only [clashes, State.bit, fld_peerReport_reg h (g := Fld.FAB_NODE_ID) (nodeReg_ne_status n),
    fld_peerReport_reg h (g := Fld.FAB_NODE_VALID) (nodeReg_ne_status n)]

/-- The fields that the exchange writes lie apart from each other. -/
theorem pairwise_apart_exchange (n x : Nat) (clash : Bool) :
    (peerShown n gen type id port clash ++ rateLeft n x).Pairwise fun v w => FldsApart v.1 w.1 := by
  simp [peerShown, peerReport, rateLeft, FldsApart, Fld.KL_STATUS_PEER_ID, Fld.KL_STATUS_PEER_TYPE, Fld.KL_STATUS_PEER_PORT,
    Fld.KL_STATUS_PEER_GEN, Fld.KL_STATUS_ID_CLASH, Fld.KL_STATUS_REV, Fld.KL_STATUS_STATE]

/-- The exchange in RATE, with its conditions read in the state before it. -/
theorem exec_capabilityExchange_rate (h : RegsOk s) (hst : s.fld (Fld.KL_STATUS_STATE k.val) = 2) :
    exec (.capabilityExchange k rev gen type id port) s = .next (
      if !s.bit Fld.FAB_NODE_VALID || clashes type id s || !decide (1 ≤ type.toNat ∧ type.toNat ≤ 3) || decide (rev = 0) then
        setFlds (peerShown k.val gen type id port (clashes type id s)) s
      else enterTraining k.val 3 ((setFlds (peerShown k.val gen type id port (clashes type id s)) s).setFld (Fld.KL_STATUS_REV k.val)
        (min rev.toNat (s.fld (Fld.KL_CTRL_REV_MAX k.val))))) := by
  have hrun : exec (.capabilityExchange k rev gen type id port) s = .next (
      let clash := clashes type id (setFlds (peerReport k.val gen type id port) s)
      let t := setFlds (peerShown k.val gen type id port clash) s
      if !t.bit Fld.FAB_NODE_VALID || clash || !decide (1 ≤ type.toNat ∧ type.toNat ≤ 3) || decide (rev = 0) then t
      else enterTraining k.val 3 (t.setFld (Fld.KL_STATUS_REV k.val) (min rev.toNat (t.fld (Fld.KL_CTRL_REV_MAX k.val))))) :=
    congrArg Host.Outcome.next (if_pos hst)
  have hvalid (clash : Bool) :
      (setFlds (peerShown k.val gen type id port clash) s).bit Fld.FAB_NODE_VALID = s.bit Fld.FAB_NODE_VALID := by
    rw [State.bit, fld_peerShown_reg h (nodeReg_ne_status k.val), State.bit]
  have hmax (clash : Bool) := fld_peerShown_reg (gen := gen) (type := type) (id := id) (port := port) (clash := clash) h
    (g := Fld.KL_CTRL_REV_MAX k.val) (ctrlReg_ne_status k.val k.val)
  simp only [hrun, clashes_peerReport h, hvalid, hmax]

/-- A link that may not leave RATE shows its peer, and no more. -/
theorem exec_capabilityExchange_stays (h : RegsOk s) (hst : s.fld (Fld.KL_STATUS_STATE k.val) = 2) (hl : ¬LeavesRate rev type id s) :
    exec (.capabilityExchange k rev gen type id port) s =
      .next (setFlds (peerShown k.val gen type id port (clashes type id s)) s) := by
  rw [exec_capabilityExchange_rate h hst, if_pos]
  simpa [LeavesRate, or_assoc, imp_iff_not_or] using hl

/-- A link that leaves RATE shows its peer, takes the highest common revision and enters EQUALISE. -/
theorem exec_capabilityExchange_leaves (h : RegsOk s) (hst : s.fld (Fld.KL_STATUS_STATE k.val) = 2) (hl : LeavesRate rev type id s) :
    exec (.capabilityExchange k rev gen type id port) s =
      .next (enterTraining k.val 3 ((setFlds (peerShown k.val gen type id port false) s).setFld (Fld.KL_STATUS_REV k.val)
        (min rev.toNat (s.fld (Fld.KL_CTRL_REV_MAX k.val))))) := by
  obtain ⟨hvalid, hclash, htype, hrev⟩ := hl
  rw [exec_capabilityExchange_rate h hst, if_neg (by simpa [hvalid, hclash, htype] using hrev), hclash]

/-- What KL_STATUS shows of the peer after an exchange (R242). -/
def ShowsPeer (n : Nat) (gen : BitVec 2) (type : BitVec 4) (id : BitVec 16) (port : BitVec 6) (clash : Bool) (t : State) : Prop :=
  t.fld (Fld.KL_STATUS_PEER_ID n) = id.toNat ∧ t.fld (Fld.KL_STATUS_PEER_TYPE n) = type.toNat ∧
    t.fld (Fld.KL_STATUS_PEER_PORT n) = port.toNat ∧ t.fld (Fld.KL_STATUS_PEER_GEN n) = gen.toNat ∧
    t.fld (Fld.KL_STATUS_ID_CLASH n) = b2n clash

/-- Fields apart from each other that include those of the peer show the peer. -/
theorem showsPeer_setFlds {ws : List (Fld × Nat)} {n : Nat} {clash : Bool} (hp : ws.Pairwise fun v w => FldsApart v.1 w.1)
    (hsub : peerShown n gen type id port clash ⊆ ws) (h : RegsOk s) : ShowsPeer n gen type id port clash (setFlds ws s) := by
  have read {f : Fld} {x : Nat} (hm : (f, x) ∈ peerShown n gen type id port clash) := fld_setFlds_of_mem hp h (hsub hm)
  have hclash : b2n clash < 2 ^ 1 := by cases clash <;> decide
  exact ⟨read (by simp [peerShown, peerReport]) (by simp [Fld.KL_STATUS_PEER_ID]) id.isLt,
    read (by simp [peerShown, peerReport]) (by simp [Fld.KL_STATUS_PEER_TYPE]) type.isLt,
    read (by simp [peerShown, peerReport]) (by simp [Fld.KL_STATUS_PEER_PORT]) port.isLt,
    read (by simp [peerShown, peerReport]) (by simp [Fld.KL_STATUS_PEER_GEN]) gen.isLt,
    read (by simp [peerShown, peerReport]) (by simp [Fld.KL_STATUS_ID_CLASH]) hclash⟩

/-- A link that may not leave RATE shows its peer and stays there; memory and cores are not touched. -/
theorem capabilityExchange_stays (h : RegsOk s) (hst : s.fld (Fld.KL_STATUS_STATE k.val) = 2) (hl : ¬LeavesRate rev type id s) :
    ∃ t, exec (.capabilityExchange k rev gen type id port) s = .next t ∧ SameStores s t ∧
      ShowsPeer k.val gen type id port (clashes type id s) t ∧ t.fld (Fld.KL_STATUS_STATE k.val) = 2 := by
  obtain ⟨hp, -, hleft⟩ := List.pairwise_append.1 (pairwise_apart_exchange (gen := gen) (type := type) (id := id) (port := port) k.val 0
    (clashes type id s))
  have hstate : ∀ w ∈ peerShown k.val gen type id port (clashes type id s), FldsApart (Fld.KL_STATUS_STATE k.val) w.1 :=
    fun w hw => (hleft w hw (Fld.KL_STATUS_STATE k.val, 3) (by simp [rateLeft])).symm
  exact ⟨_, exec_capabilityExchange_stays h hst hl, sameStores_setFlds _ s, showsPeer_setFlds hp (List.Subset.refl _) h,
    (fld_setFlds_apart hstate h).trans hst⟩

/-- A link that enters a training state reads as if its state alone were written: its own record holds no register. -/
theorem fld_enterTraining (n st : Nat) (t : State) (g : Fld) :
    (enterTraining n st t).fld g = (t.setFld (Fld.KL_STATUS_STATE n) st).fld g := rfl

theorem sameStores_enterTraining_setFld (n rev : Nat) {t : State} (h : SameStores s t) :
    SameStores s (enterTraining n 3 (t.setFld (Fld.KL_STATUS_REV n) rev)) := h

/-- The fields that a link has on leaving RATE are those of one list of writes. -/
theorem fld_enterTraining_setFlds (ws : List (Fld × Nat)) (n rev : Nat) (s : State) (g : Fld) :
    (enterTraining n 3 ((setFlds ws s).setFld (Fld.KL_STATUS_REV n) rev)).fld g = (setFlds (ws ++ rateLeft n rev) s).fld g := by
  simp only [fld_enterTraining, setFlds, rateLeft, List.foldl_append, List.foldl_cons, List.foldl_nil]

/-- A link that leaves RATE shows its peer, takes the highest common revision and stands in EQUALISE; memory and cores are not
touched. -/
theorem capabilityExchange_leaves (h : RegsOk s) (hst : s.fld (Fld.KL_STATUS_STATE k.val) = 2) (hl : LeavesRate rev type id s) :
    ∃ t, exec (.capabilityExchange k rev gen type id port) s = .next t ∧ SameStores s t ∧
      ShowsPeer k.val gen type id port false t ∧ t.fld (Fld.KL_STATUS_STATE k.val) = 3 ∧
      t.fld (Fld.KL_STATUS_REV k.val) = min rev.toNat (s.fld (Fld.KL_CTRL_REV_MAX k.val)) := by
  have hp := pairwise_apart_exchange (gen := gen) (type := type) (id := id) (port := port) k.val
    (min rev.toNat (s.fld (Fld.KL_CTRL_REV_MAX k.val))) false
  have hrev : min rev.toNat (s.fld (Fld.KL_CTRL_REV_MAX k.val)) < 2 ^ 2 := (min_le_left _ _).trans_lt rev.isLt
  refine ⟨_, exec_capabilityExchange_leaves h hst hl, sameStores_enterTraining_setFld _ _ (sameStores_setFlds _ s), ?_⟩
  simp only [ShowsPeer, fld_enterTraining_setFlds]
  exact ⟨showsPeer_setFlds hp (List.subset_append_left _ _) h,
    fld_setFlds_of_mem hp h (by simp [rateLeft]) (by simp [Fld.KL_STATUS_STATE]) (by simp [Fld.KL_STATUS_STATE]),
    fld_setFlds_of_mem hp h (by simp [rateLeft]) (by simp [Fld.KL_STATUS_REV]) hrev⟩

end Sys2Proof.Proofs

section

open Sys2Proof.Machine Sys2Proof.Safety Sys2Proof.Proofs

/-- Settles O31, by whether the link leaves RATE: both ways KL_STATUS shows the peer, and the clauses of the other way cannot apply. -/
theorem linksLeaveRateWithAKnownPeer : Obligations.LinksLeaveRateWithAKnownPeer := by
  unfold Obligations.LinksLeaveRateWithAKnownPeer
  intro k rev gen type id port s h hst
  by_cases hl : LeavesRate rev type id s
  · obtain ⟨t, hexec, hstores, ⟨hid, htype, hport, hgen, hclash⟩, hstate, hrev⟩ := capabilityExchange_leaves h.regs hst hl
    obtain ⟨hvalid, hother, -, -⟩ := leavesRate_iff.1 hl
    exact ⟨t, hexec, hstores, hid, htype, hport, hgen, fun h0 => by omega, fun _ h1 hown => absurd ⟨h1, hown⟩ hother,
      fun _ _ _ _ _ => ⟨hstate, hclash, hrev⟩⟩
  · obtain ⟨t, hexec, hstores, ⟨hid, htype, hport, hgen, hclash⟩, hstate⟩ := capabilityExchange_stays h.regs hst hl
    exact ⟨t, hexec, hstores, hid, htype, hport, hgen, fun _ => hstate,
      fun hvalid h1 hown => ⟨hstate, by rw [hclash, clashes_of_own hvalid h1 hown, b2n, if_pos rfl]⟩,
      fun hvalid hother hlo hhi hrev => absurd (leavesRate_iff.2 ⟨hvalid, hother, ⟨hlo, hhi⟩, hrev⟩) hl⟩

end

/-! ### What completing a command changes (R298 to R305)

A completion and the scan that goes on after it write the rings' registers, the command window, what leaves for the host, the records of
the telemetry, and what the host interface holds. `offRing` is the rest of a state. -/

namespace Sys2Proof.Proofs

open Sys2Proof.Machine Sys2Proof.Safety Sys2Proof.Laws

variable {s t u : State}

/-- A state without what the rings and the telemetry hold. -/
def offRing (s : State) : State := { s with regs := [], win := [], out := [], host := {}, tel := {} }

/-- From `s` to `t` the rings alone have changed. -/
def RingOnly (s t : State) : Prop := RegsOk t ∧ RingRegsOnly s t ∧ offRing t = offRing s

theorem RingOnly.ok (h : RingOnly s t) : RegsOk t := h.1

theorem RingOnly.regs (h : RingOnly s t) : RingRegsOnly s t := h.2.1

theorem RingOnly.off (h : RingOnly s t) : offRing t = offRing s := h.2.2

theorem RingOnly.refl (h : RegsOk s) : RingOnly s s := ⟨h, fun _ _ _ _ _ => rfl, rfl⟩

theorem RingOnly.trans (h1 : RingOnly s t) (h2 : RingOnly t u) : RingOnly s u :=
  ⟨h2.ok, fun a h3 h4 h5 h6 => (h2.regs a h3 h4 h5 h6).trans (h1.regs a h3 h4 h5 h6), h2.off.trans h1.off⟩

theorem RingOnly.ite {c : Prop} [Decidable c] (h1 : RingOnly s t) (h2 : RingOnly s u) : RingOnly s (if c then t else u) := by
  split
  · exact h1
  · exact h2

theorem RingOnly.sameStores (h : RingOnly s t) : SameStores s t :=
  ⟨fun a => congrArg (·.byte a) h.off, fun c => congrArg (·.core c) h.off⟩

theorem RingOnly.setFld (h : RingOnly s t) {f : Fld}
    (hf : f.reg = Reg.HST_STATUS ∨ f.reg = Reg.HST_INT ∨ f.reg = Reg.HST_CMD ∨ f.reg = Reg.HST_CPL_TAIL) (x : Nat) :
    RingOnly s (t.setFld f x) := by
  obtain ⟨hok, hregs, hoff⟩ := h
  refine ⟨regsOk_setFld hok f x, fun a h1 h2 h3 h4 => ?_, hoff⟩
  have ha : a ≠ f.reg := by rintro rfl; tauto
  exact (State.reg_setFld_other hok x ha).trans (hregs a h1 h2 h3 h4)

theorem RingOnly.irq (h : RingOnly s t) (v : Nat) : RingOnly s (irq v t) :=
  h.setFld (f := Fld.HST_INT_PEND) (by decide) _

theorem RingOnly.traceRec (h : RingOnly s t) (kind code status seq detail : Nat) : RingOnly s (traceRec kind code status seq detail t) := h

theorem RingOnly.cplWrite (h : RingOnly s t) (seq code status : Nat) (notice : Bool) (taken applied detail : Nat) :
    RingOnly s (cplWrite seq code status notice taken applied detail t) := by
  unfold Machine.cplWrite
  extract_lets tail ph bytes _ t'
  have h' : RingOnly s t' := h
  split
  · exact h'.setFld (f := Fld.HST_CPL_TAIL_TAIL) (by decide) _
  · exact (h'.setFld (f := Fld.HST_CPL_TAIL_TAIL) (by decide) _).setFld (f := Fld.HST_CPL_TAIL_PHASE) (by decide) _

theorem RingOnly.postCompletion (h : RingOnly s t) (seq op status taken applied detail : Nat) (notify : Bool) :
    RingOnly s (postCompletion seq op status taken applied detail notify t) := by
  unfold Machine.postCompletion
  extract_lets _ t1 t2
  have h2 : RingOnly s t2 := (RingOnly.cplWrite (t := t1) h ..).traceRec ..
  split
  · exact h2.irq 0
  · exact h2

theorem RingOnly.scanNext (h : RingOnly s t) : RingOnly s (scanNext t) := by
  unfold Machine.scanNext
  extract_lets _ stop t1 _ stop1 next off r seq k pay t2
  have h1 : RingOnly s t1 := h.setFld (f := Fld.HST_STATUS_CPL_FULL) (by decide) _
  refine .ite h (.ite h (.ite ?_ (.ite h1 (.ite ?_ (.ite h1 ?_)))))
  · exact RingOnly.setFld (t := stop) (f := Fld.HST_STATUS_CPL_FULL) h (by decide) _
  · exact RingOnly.setFld (t := stop1) (f := Fld.HST_STATUS_RING_ERR) h1 (by decide) _
  · exact (RingOnly.setFld (t := t2) (f := Fld.HST_CMD_NEXT) h1 (by decide) _).traceRec ..

theorem RingOnly.scan (h : RingOnly s t) : RingOnly s (scan t) := by
  unfold Machine.scan
  split
  · exact h
  · exact RingOnly.scanNext (t := { t with host := { t.host with scanLeft := 32 } }) h

theorem RingOnly.completeTaken (h : RingOnly s t) (k : Taken) (status applied detail : Nat) :
    RingOnly s (completeTaken k status applied detail t) :=
  (RingOnly.postCompletion (t := { t with host := { t.host with taken := none, prev := some (k.seq, none) } }) h ..).scanNext

theorem RingOnly.completeLongAt (h : RingOnly s t) (status applied detail : Nat) : RingOnly s (completeLongAt status applied detail t) := by
  unfold Machine.completeLongAt
  split
  · exact h
  · next l _ =>
    extract_lets _ t1
    split
    · exact h
    · exact RingOnly.postCompletion (t := t1) h ..

/-! #### The entry that a completion posts -/

theorem out_scanNext (s : State) : (scanNext s).out = s.out := by
  unfold scanNext
  extract_lets
  repeat' split
  all_goals rfl

theorem prev_scanNext (s : State) : (scanNext s).host.prev = s.host.prev := by
  unfold scanNext
  extract_lets
  repeat' split
  all_goals rfl

theorem posted_cplWrite (seq code status : Nat) (notice : Bool) (taken applied detail : Nat) (s : State) :
    Posted s (cplWrite seq code status notice taken applied detail s) seq code status notice taken applied detail := by
  unfold Posted cplWrite
  extract_lets tail ph bytes _ s1
  have h1 : OutItem.hostWrite (s.fld Fld.HST_CPL_BASE_BASE * 4096 + 32 * tail) bytes ∈ s1.out := by simp [s1]
  split <;> exact h1

theorem posted_postCompletion (seq op status taken applied detail : Nat) (notify : Bool) (s : State) :
    Posted s (postCompletion seq op status taken applied detail notify s) seq op status false taken applied detail := by
  unfold postCompletion
  extract_lets _ s1 s2
  have h2 : Posted s s2 seq op status false taken applied detail := posted_cplWrite seq op status false taken applied detail s1
  split <;> exact h2

theorem prev_postCompletion {seq : Nat} {old : Option Nat} (op status taken applied detail : Nat) (notify : Bool)
    (h : s.host.prev = some (seq, old)) :
    (postCompletion seq op status taken applied detail notify s).host.prev = some (seq, some status) := by
  unfold postCompletion cplWrite
  extract_lets _ s1 tail ph bytes _ s2 s3
  have h1 : s1.host.prev = some (seq, some status) := by simp [s1, h]
  have h3 : s3.host.prev = some (seq, some status) := by
    unfold s3
    split <;> exact h1
  split <;> exact h3

/-- The taken record has completed as `completeTaken` says. -/
theorem completed_completeTaken (k : Taken) (status applied detail : Nat) (s : State) :
    Completed s (completeTaken k status applied detail s) k status applied detail := by
  unfold Completed Posted completeTaken
  rw [out_scanNext, prev_scanNext]
  exact ⟨posted_postCompletion k.seq k.op status k.scene applied detail k.notify _, prev_postCompletion _ _ _ _ _ _ rfl⟩

/-- A command that runs does so on the record that was taken. -/
theorem command_of_runs {k : Taken} {r : CmdRule} (h : Runs s k r) (run : Taken → State → State) : command r run s = run k s := by
  obtain ⟨htaken, hop, hjudge, hhalt⟩ := h
  simp [command, htaken, hop, hjudge, hhalt]

end Sys2Proof.Proofs

/-! ### Registers that a cue and an idle tick leave alone

Of the registers that the restored run and twin mode rest on, each operation of a cue or an idle tick writes few. `Keeps X` follows the
rest through it, with what waits for the cue: X lists the registers that may have changed. -/

namespace Sys2Proof.Proofs

open Sys2Proof.Machine Sys2Proof.Safety

variable {X : List Nat} {s t u : State}

/-- The registers that are followed: the scene, the restore state, twin mode, and the states of power and start-up. -/
def followed : List Nat :=
  [Reg.SCN_COUNT, Reg.SCN_SEQ, Reg.SCN_STEP, Reg.SCN_RESTORE, Reg.SMG_BOOT, Reg.PWR_STATE, Reg.XCL_TWIN_CTRL, Reg.XCL_TWIN_INBOX,
    Reg.XCL_TWIN_STATUS]

theorem not_followed_of_slots {a : Nat} (hlo : 0xFF0000010080 < a) (hhi : a < 0xFF0000050018) : a ∉ followed := by
  simp only [followed, Reg.SCN_COUNT, Reg.SCN_SEQ, Reg.SCN_STEP, Reg.SCN_RESTORE, Reg.SMG_BOOT, Reg.PWR_STATE, Reg.XCL_TWIN_CTRL,
    Reg.XCL_TWIN_INBOX, Reg.XCL_TWIN_STATUS, List.mem_cons, List.not_mem_nil, or_false]
  omega

theorem not_followed_of_blocks {a : Nat} (hlo : 0xFF0000060000 < a) (hhi : a < 0xFF00000CD000) : a ∉ followed := by
  simp only [followed, Reg.SCN_COUNT, Reg.SCN_SEQ, Reg.SCN_STEP, Reg.SCN_RESTORE, Reg.SMG_BOOT, Reg.PWR_STATE, Reg.XCL_TWIN_CTRL,
    Reg.XCL_TWIN_INBOX, Reg.XCL_TWIN_STATUS, List.mem_cons, List.not_mem_nil, or_false]
  omega

theorem not_followed_of_core {a : Nat} (hlo : 0xFF00000CD038 < a) : a ∉ followed := by
  simp only [followed, Reg.SCN_COUNT, Reg.SCN_SEQ, Reg.SCN_STEP, Reg.SCN_RESTORE, Reg.SMG_BOOT, Reg.PWR_STATE, Reg.XCL_TWIN_CTRL,
    Reg.XCL_TWIN_INBOX, Reg.XCL_TWIN_STATUS, List.mem_cons, List.not_mem_nil, or_false]
  omega

/-- The followed registers outside X read as before. -/
def KeepsRegs (X : List Nat) (s t : State) : Prop := RegsOk t ∧ ∀ a ∈ followed, a ∉ X → t.reg a = s.reg a

/-- What waits for the next cue or idle tick, whether JTAG lets it apply, and the scene of the last new twin record. -/
def waiting (s : State) : List CmdEff × List PendW × List PendW × Option PwrStep × Option Nat × TapSt × Nat :=
  (s.cmdEff, s.pendT, s.pendQ, s.pwr.step, s.door.scopeNext, s.tap, s.twin.since)

/-- The followed registers outside X, and what waits, are as before. -/
def Keeps (X : List Nat) (s t : State) : Prop := KeepsRegs X s t ∧ waiting t = waiting s

/-! #### Following several operations -/

theorem KeepsRegs.ok (h : KeepsRegs X s t) : RegsOk t := h.1

theorem KeepsRegs.reg (h : KeepsRegs X s t) {a : Nat} (ha : a ∈ followed) (hx : a ∉ X) : t.reg a = s.reg a := h.2 a ha hx

theorem KeepsRegs.refl (h : RegsOk s) : KeepsRegs X s s := ⟨h, fun _ _ _ => rfl⟩

theorem KeepsRegs.trans (h1 : KeepsRegs X s t) (h2 : KeepsRegs X t u) : KeepsRegs X s u :=
  ⟨h2.ok, fun _ ha hx => (h2.reg ha hx).trans (h1.reg ha hx)⟩

theorem KeepsRegs.fld (h : KeepsRegs X s t) {f : Fld} (hf : f.reg ∈ followed) (hx : f.reg ∉ X) : t.fld f = s.fld f := by
  unfold State.fld
  rw [h.reg hf hx]

theorem KeepsRegs.mono {Y : List Nat} (h : KeepsRegs X s t) (hxy : X ⊆ Y) : KeepsRegs Y s t :=
  ⟨h.ok, fun _ ha hy => h.reg ha fun hx => hy (hxy hx)⟩

theorem KeepsRegs.weaken (h : KeepsRegs [] s t) : KeepsRegs X s t := h.mono (List.nil_subset X)

theorem Keeps.regs (h : Keeps X s t) : KeepsRegs X s t := h.1

theorem Keeps.ok (h : Keeps X s t) : RegsOk t := h.regs.ok

theorem Keeps.waits (h : Keeps X s t) : waiting t = waiting s := h.2

theorem Keeps.fld (h : Keeps X s t) {f : Fld} (hf : f.reg ∈ followed) (hx : f.reg ∉ X) : t.fld f = s.fld f := h.regs.fld hf hx

theorem Keeps.refl (h : RegsOk s) : Keeps X s s := ⟨.refl h, rfl⟩

theorem Keeps.trans (h1 : Keeps X s t) (h2 : Keeps X t u) : Keeps X s u := ⟨h1.regs.trans h2.regs, h2.waits.trans h1.waits⟩

theorem Keeps.weaken (h : Keeps [] s t) : Keeps X s t := ⟨h.regs.weaken, h.waits⟩

theorem Keeps.ite {c : Prop} [Decidable c] (h1 : Keeps X s t) (h2 : Keeps X s u) : Keeps X s (if c then t else u) := by
  split
  · exact h1
  · exact h2

theorem Keeps.foldl {α : Type} {f : State → α → State} (l : List α) (hf : ∀ t, ∀ a ∈ l, Keeps X s t → Keeps X s (f t a))
    (h : Keeps X s t) : Keeps X s (l.foldl f t) := by
  induction l generalizing t with
  | nil => exact h
  | cons a l ih =>
    obtain ⟨ha, hl⟩ := List.forall_mem_cons.1 fun b hb t => hf t b hb
    exact ih (fun t b hb => hl b hb t) (ha t h)

theorem Keeps.setReg (h : Keeps X s t) {a : Nat} (ha : a ∉ followed ∨ a ∈ X) (v : Word) : Keeps X s (t.setReg a v) := by
  obtain ⟨⟨hok, hregs⟩, hwait⟩ := h
  refine ⟨⟨SMap.wf_set (d := fun a => regReset a) _ _ hok, fun b hb hx => ?_⟩, hwait⟩
  have hne : b ≠ a := by rintro rfl; tauto
  exact (State.reg_setReg_other hok v hne).trans (hregs b hb hx)

theorem Keeps.setFld (h : Keeps X s t) {f : Fld} (hf : f.reg ∉ followed) (x : Nat) : Keeps X s (t.setFld f x) := h.setReg (.inl hf) _

theorem Keeps.setFldIn (h : Keeps X s t) {f : Fld} (hf : f.reg ∈ X) (x : Nat) : Keeps X s (t.setFld f x) := h.setReg (.inr hf) _

theorem Keeps.addSat (h : Keeps X s t) {f : Fld} (hf : f.reg ∉ followed) (n : Nat) : Keeps X s (t.addSat f n) := h.setFld hf _

/-- No register of the rings is followed. -/
theorem Keeps.ring (h : Keeps X s t) (hr : RingOnly t u) : Keeps X s u := by
  obtain ⟨hok, hregs, hoff⟩ := hr
  have hwait : waiting (offRing u) = waiting (offRing t) := by rw [hoff]
  refine h.trans ⟨⟨hok, fun a ha _ => ?_⟩, hwait⟩
  have hne : ∀ b ∈ followed, b ≠ Reg.HST_STATUS ∧ b ≠ Reg.HST_INT ∧ b ≠ Reg.HST_CMD ∧ b ≠ Reg.HST_CPL_TAIL := by decide
  obtain ⟨h1, h2, h3, h4⟩ := hne a ha
  exact hregs a h1 h2 h3 h4

theorem Keeps.irq (h : Keeps X s t) (v : Nat) : Keeps X s (irq v t) := h.ring ((RingOnly.refl h.ok).irq v)

theorem Keeps.scan (h : Keeps X s t) : Keeps X s (scan t) := h.ring (RingOnly.refl h.ok).scan

/-! #### Faults, events and notices (R303, R306, R308, R332 to R334) -/

theorem Keeps.postNotice (h : Keeps X s t) (code detail : Nat) : Keeps X s (postNotice code detail t) := by
  unfold Machine.postNotice writeNotice
  extract_lets scene
  refine .ite ?_ (.ite h (h.addSat (by decide) 1))
  exact h.ring (((RingOnly.refl h.ok).cplWrite 0 code 0 true scene 0 detail).traceRec 3 code 0 0 detail |>.irq 1)

theorem Keeps.logRecord (h : Keeps X s t) (r : List Byte) : Keeps X s (logRecord r t) := by
  unfold Machine.logRecord
  extract_lets _ t1 _
  have h1 : Keeps X s t1 := (h.addSat (f := Fld.HST_TEL_LOST_EVENT) (by decide) 1).setFld (f := Fld.HST_STATUS_EVENTS_LOST) (by decide) 1
  refine .ite h (.ite h1 (.postNotice ?_ 6 _))
  exact h1

theorem Keeps.logEvent (h : Keeps X s t) (code : Nat) (o : Origin) (payload : List Byte) : Keeps X s (logEvent code o payload t) :=
  h.logRecord _

theorem faultSource_not_followed {src : Nat} (h : src ≤ 25) : Reg.FLT_SRC_STATE src ∉ followed := by
  apply not_followed_of_blocks <;> simp only [Reg.FLT_SRC_STATE] <;> omega

theorem Keeps.countEvent (h : Keeps X s t) {src : Nat} (hsrc : src ≤ 25) : Keeps X s (countEvent src t).1 := by
  have hs := faultSource_not_followed hsrc
  unfold Machine.countEvent
  extract_lets t1 n scene cnt fresh cnt' _ t2
  have h1 : Keeps X s t1 := h.addSat (f := Fld.FLT_SRC_STATE_TOTAL src) hs 1
  clear_value t1
  have h2 : Keeps X s t2 := .ite h1 h1
  clear_value t2
  have hcnt (x : Nat) : Keeps X s (t2.setFld (Fld.FLT_SRC_STATE_COUNT src) x) := h2.setFld hs x
  rw [apply_ite Prod.fst, apply_ite Prod.fst]
  exact .ite h1 (.ite (hcnt 0) (hcnt cnt'))

theorem Keeps.raise (h : Keeps X s t) {src : Nat} (hsrc : src ≤ 25) (o : Origin) (payload : List Byte) :
    Keeps X s (raise src o payload t) := by
  unfold Machine.raise
  extract_lets t1 quiet
  have h1 : Keeps X s t1 := by
    unfold t1
    split
    · exact .ite h h
    · exact h
  clear_value t1
  have h2 := h1.countEvent hsrc
  rcases hc : Machine.countEvent src t1 with ⟨t2, severe⟩
  rw [hc] at h2
  dsimp -zeta only at h2 ⊢
  extract_lets t3 t4 _ t5
  have h3 : Keeps X s t3 := .ite (h2.logRecord _) h2
  clear_value t3
  have h4 : Keeps X s t4 := .ite ((h3.setFld (f := Fld.FLT_INT_PEND_PEND) (by decide) _).irq 2) h3
  clear_value t4
  have h5 : Keeps X s t5 := .ite h4 h4
  clear_value t5
  exact .ite h5 h5

end Sys2Proof.Proofs

/-! ### What a cue and an idle tick have in common (R45, R298, R299, R307, R322, R373) -/

namespace Sys2Proof.Proofs

open Sys2Proof.Machine Sys2Proof.Safety

variable {X : List Nat} {s t u : State}

theorem Keeps.nothingHeld (h : Keeps X s t) (hn : NothingHeld s) : NothingHeld t := by
  obtain ⟨-, hT, hQ, hstep, hscope, -⟩ := by simpa only [waiting, Prod.mk.injEq] using h.waits
  simpa only [NothingHeld, hT, hQ, hstep, hscope] using hn

theorem Keeps.cmdEff (h : Keeps X s t) : t.cmdEff = s.cmdEff := congrArg Prod.fst h.waits

theorem Keeps.controlHalted (h : Keeps X s t) : t.controlHalted = s.controlHalted := by
  obtain ⟨-, -, -, -, -, htap, -⟩ := by simpa only [waiting, Prod.mk.injEq] using h.waits
  rw [State.controlHalted, htap, State.controlHalted]

theorem Keeps.since (h : Keeps X s t) : t.twin.since = s.twin.since := by
  obtain ⟨-, -, -, -, -, -, hsince⟩ := by simpa only [waiting, Prod.mk.injEq] using h.waits
  exact hsince

/-! #### Before the commands' effects -/

theorem Keeps.advanceTo (h : Keeps X s t) (n : Nat) : Keeps X s (advanceTo n t) := by
  unfold Machine.advanceTo runTo
  refine .ite ?_ h
  extract_lets k _ tim
  split
  · exact .ite h h
  · exact h

theorem Keeps.applyPosadd (h : Keeps X s t) : Keeps X s (applyPosadd t) := by
  unfold Machine.applyPosadd
  extract_lets bound t1
  have h1 : Keeps X s t1 := by
    refine .foldl _ (fun v a _ hv => .ite (hv.setFld ?_ _) hv) h
    have hi := a.1.isLt
    apply not_followed_of_slots <;> simp only [Fld.SCN_SLOT_POS_POS, Reg.SCN_SLOT_POS] <;> omega
  exact h1

/-! #### The effect of START_RUN (R299, R364, R367) -/

/-- The fields that a START_RUN writes read as it gave them (R299, R367). -/
def RunStands (step pos : Nat) (t : State) : Prop :=
  t.fld Fld.SCN_RESTORE_STATE = 0 ∧ t.fld Fld.SCN_STEP_STEP = step % 2 ^ 64 ∧ t.fld Fld.SCN_SEQ_POS = pos % 2 ^ Fld.SCN_SEQ_POS.w

/-- The registers of those fields. -/
def runRegs : List Nat := [Reg.SCN_RESTORE, Reg.SCN_STEP, Reg.SCN_SEQ]

theorem RunStands.keeps {step pos : Nat} (h : RunStands step pos s) (hk : KeepsRegs X s t) (hX : ∀ a ∈ runRegs, a ∉ X) :
    RunStands step pos t := by
  unfold RunStands
  rw [hk.fld (f := Fld.SCN_RESTORE_STATE) (by decide) (hX _ (by decide)), hk.fld (f := Fld.SCN_STEP_STEP) (by decide) (hX _ (by decide)),
    hk.fld (f := Fld.SCN_SEQ_POS) (by decide) (hX _ (by decide))]
  exact h

theorem applyCmds_run {step pos : Nat} (hc : s.cmdEff = [.run step pos]) (hh : s.controlHalted = false) :
    applyCmds s = runIdle (({ s with cmdEff := [], wlt := [] }.setFld Fld.SCN_STEP_STEP step).setFld Fld.SCN_SEQ_POS pos) := by
  simp [applyCmds, hc, hh, applyCmd]

/-- A START_RUN whose restore is not LOADING again returns it to IDLE, with its step and position. -/
theorem applyCmds_runStands {step pos : Nat} (h : RegsOk s) (hc : s.cmdEff = [.run step pos]) (hh : s.controlHalted = false)
    (hr : s.fld Fld.SCN_RESTORE_STATE ≠ 1) :
    RunStands step pos (applyCmds s) ∧ Keeps runRegs { s with cmdEff := [] } (applyCmds s) := by
  rw [applyCmds_run hc hh]
  generalize hu : ({ s with cmdEff := [], wlt := [] } : State).setFld Fld.SCN_STEP_STEP step = u
  have hs : Keeps runRegs { s with cmdEff := [] } { s with cmdEff := [], wlt := [] } := Keeps.refl (s := { s with cmdEff := [] }) h
  have hku : Keeps runRegs { s with cmdEff := [] } u := hu ▸ hs.setFldIn (f := Fld.SCN_STEP_STEP) (by decide) step
  have hkv : Keeps runRegs { s with cmdEff := [] } (u.setFld Fld.SCN_SEQ_POS pos) := hku.setFldIn (by decide) pos
  have hstep : u.fld Fld.SCN_STEP_STEP = step % 2 ^ 64 :=
    hu ▸ State.fld_setFld_same (s := { s with cmdEff := [], wlt := [] }) h step (by decide)
  have hrest : u.fld Fld.SCN_RESTORE_STATE = s.fld Fld.SCN_RESTORE_STATE :=
    hu ▸ State.fld_setFld_reg (s := { s with cmdEff := [], wlt := [] }) h step (by decide)
  have hne : (u.setFld Fld.SCN_SEQ_POS pos).fld Fld.SCN_RESTORE_STATE ≠ 1 := by
    rwa [State.fld_setFld_reg hku.ok pos (by decide), hrest]
  have hv : RegsOk (u.setFld Fld.SCN_SEQ_POS pos) := hkv.ok
  rw [runIdle, if_neg hne]
  refine ⟨⟨State.fld_setFld_same (s := { u.setFld Fld.SCN_SEQ_POS pos with eng := _ }) hv 0 (by decide), ?_, ?_⟩, ?_⟩
  · exact (State.fld_setFld_reg (s := { u.setFld Fld.SCN_SEQ_POS pos with eng := _ }) hv 0 (by decide)).trans
      ((State.fld_setFld_reg hku.ok pos (by decide)).trans hstep)
  · exact (State.fld_setFld_reg (s := { u.setFld Fld.SCN_SEQ_POS pos with eng := _ }) hv 0 (by decide)).trans
      (State.fld_setFld_same hku.ok pos (by decide))
  · exact Keeps.setFldIn (t := { u.setFld Fld.SCN_SEQ_POS pos with eng := _ }) hkv (by decide) 0

/-! #### Shadows with nothing held -/

theorem applyT_empty (n scene : Nat) (h : s.pendT = []) : applyT n scene s =
    if n = 0 then s else traceRec 4 0 0 0 n ({ s with pendT := [] }.setFld Fld.SMG_APPLY_SCENE_SCENE scene) := by
  simp [applyT, h]

theorem applyShadows_of_nothingHeld (n scene : Nat) (h : NothingHeld s) : applyShadows n scene s =
    twinEdge ((if s.controlHalted then s else applyT n scene s).setFld Fld.SDR_ZEROISE_KEY_KEY 0) := by
  obtain ⟨hT, hQ, hstep, hscope⟩ := h
  simp [applyShadows, applyScope, applyQ, withdrawLen, stepAtCue, hQ, hstep, hscope]

theorem KeepsRegs.twinEdge (h : KeepsRegs X s t) : KeepsRegs X s (twinEdge t) := by
  unfold Machine.twinEdge
  extract_lets en
  split <;> exact h

theorem Keeps.applyShadows (h : Keeps X s t) (hn : NothingHeld t) (n scene : Nat) : KeepsRegs X s (applyShadows n scene t) := by
  rw [applyShadows_of_nothingHeld n scene hn]
  have hT : Keeps X s (applyT n scene t) := by
    have hT : t.pendT = [] := hn.1
    rw [applyT_empty n scene hT]
    have h1 : Keeps X s { t with pendT := [] } := ⟨h.regs, by rw [← h.waits, waiting, waiting, hT]⟩
    exact .ite h (h1.setFld (f := Fld.SMG_APPLY_SCENE_SCENE) (by decide) scene)
  exact ((h.ite hT).setFld (f := Fld.SDR_ZEROISE_KEY_KEY) (by decide) 0).regs.twinEdge

/-! #### The power step that goes on (R316) -/

/-- A state whose SET_POWER has ended. -/
def withoutStep (s : State) : State := { s with pwr := { s.pwr with step := none, waits := false } }

/-- A state without what the rings, the telemetry and a power step hold. -/
def offPower (s : State) : State := withoutStep (offRing s)

/-- A SET_POWER that goes on changes what it reports, and its own step. -/
def PowerOnly (s t : State) : Prop := KeepsRegs [] s t ∧ offPower t = offPower s

theorem PowerOnly.regs (h : PowerOnly s t) : KeepsRegs [] s t := h.1

theorem PowerOnly.off (h : PowerOnly s t) : offPower t = offPower s := h.2

theorem PowerOnly.ite {c : Prop} [Decidable c] (h1 : PowerOnly s t) (h2 : PowerOnly s u) : PowerOnly s (if c then t else u) := by
  split
  · exact h1
  · exact h2

theorem PowerOnly.powerEnds (h : PowerOnly s t) (status detail : Nat) : PowerOnly s (powerEnds status detail t) := by
  have hok : RegsOk (withoutStep t) := h.regs.ok
  have hring : RingOnly (withoutStep t) (Machine.powerEnds status detail t) := (RingOnly.refl hok).completeLongAt ..
  have hkeeps : Keeps [] (withoutStep t) (Machine.powerEnds status detail t) := (Keeps.refl hok).ring hring
  have hoff : offPower (Machine.powerEnds status detail t) = offPower (withoutStep t) := congrArg withoutStep hring.off
  exact ⟨h.regs.trans hkeeps.regs, hoff.trans h.off⟩

theorem PowerOnly.showReject (h : PowerOnly s t) (r : Reject) : PowerOnly s (showReject r t) := by
  have hkeeps : Keeps [] t (Machine.showReject r t) :=
    ((((Keeps.refl h.regs.ok).setFld (f := Fld.SCN_LOAD_STATUS_CODE) (by decide) r.code).setFld (f := Fld.SCN_LOAD_STATUS_CORE) (by decide)
      r.core).setFld (f := Fld.SCN_LOAD_STATUS_PROGRAM) (by decide) r.program).setFld (f := Fld.SCN_LOAD_STATUS_BUNDLE) (by decide) r.bundle
  exact ⟨h.regs.trans hkeeps.regs, h.off⟩

theorem powerGo_only (h : RegsOk s) : PowerOnly s (powerGo s) := by
  have h0 : PowerOnly s s := ⟨.refl h, rfl⟩
  have hends (status detail : Nat) : PowerOnly s (powerEnds status detail s) := h0.powerEnds status detail
  unfold powerGo
  split
  · exact h0
  · refine .ite h0 ?_
    extract_lets target div ps rootOn d
    refine .ite h0 (.ite (hends 0 0) (.ite (.ite h0 (.ite (hends 6 0) h0)) (.ite (.ite (hends 3 0) (.ite (.ite (hends 3 0) h0) (.ite h0
      (.ite (hends 3 0) ?_)))) (.ite (.ite (hends 3 0) h0) h0))))
    split
    · exact (h0.showReject _).powerEnds 5 _
    · exact .ite (hends 6 0) h0

theorem powerAtCue_only (h : RegsOk s) : PowerOnly s (powerAtCue s) := .ite (powerGo_only h) ⟨.refl h, rfl⟩

/-! #### What every cue and idle tick ends with -/

theorem Keeps.sendMsix (h : Keeps X s t) (v : Nat) : Keeps X s (sendMsix v t) := by
  have hpba : Reg.HST_PBA ∉ followed := by decide
  exact .ite h (.ite (h.setReg (.inl hpba) _) (h.setReg (.inl hpba) _))

/-- After the inbox, messages and the scan keep every followed register. -/
theorem tickEnds_keeps (h : RegsOk (twinTick s)) : Keeps X (twinTick s) (tickEnds s) := by
  have h0 : Keeps X (twinTick s) (twinTick s) := .refl h
  unfold tickEnds
  extract_lets t1 vs _ t2
  have h2 : Keeps X (twinTick s) t2 := h0
  exact .ite h0.scan (.scan (.foldl vs (fun v a _ hv => hv.sendMsix a) h2))

/-! #### The inbox (R373 to R375) -/

/-- Of the followed registers XCL_TWIN_STATUS alone may have changed, but not its SILENT; what waits is as before. -/
def KeepsSilent (s t : State) : Prop :=
  Keeps [Reg.XCL_TWIN_STATUS] s t ∧ t.fld Fld.XCL_TWIN_STATUS_SILENT = s.fld Fld.XCL_TWIN_STATUS_SILENT

theorem Keeps.silent (h : Keeps [] s t) : KeepsSilent s t := ⟨h.weaken, h.fld (by decide) (by decide)⟩

theorem KeepsSilent.ite {c : Prop} [Decidable c] (h1 : KeepsSilent s t) (h2 : KeepsSilent s u) : KeepsSilent s (if c then t else u) := by
  split
  · exact h1
  · exact h2

/-- A differing digest sets MISMATCH, and not SILENT (R374). -/
theorem twinMismatch_silent (h : RegsOk s) (r : TwinRec) (own : Word) : KeepsSilent s (twinMismatch r own s) := by
  unfold twinMismatch
  extract_lets t1 t2 t3 t4
  have h2 : Keeps [] s t2 := ((Keeps.refl h).raise (by decide) _ _).postNotice 4 _
  clear_value t2
  have h3 : Keeps [] s t3 := .ite h2 (((((h2.setFld (f := Fld.XCL_TWIN_MM_ENTRY) (by decide) _).setFld (f := Fld.XCL_TWIN_MM_TAG)
    (by decide) _).setFld (f := Fld.XCL_TWIN_MM_STEP) (by decide) _).setFld (f := Fld.XCL_TWIN_MM_OWN_DIGEST) (by decide) _).setFld
    (f := Fld.XCL_TWIN_MM_PEER_DIGEST) (by decide) _)
  clear_value t3
  have h4 : KeepsSilent s t4 := by
    obtain ⟨hk, hsilent⟩ := h3.silent
    exact ⟨hk.setFldIn (f := Fld.XCL_TWIN_STATUS_MISMATCH) (by decide) 1, (State.fld_setFld_apart hk.ok 1 (by decide)).trans hsilent⟩
  exact .ite h4 h4

/-- Comparing a record changes neither SILENT nor the scene of the last new record (R373). -/
theorem twinCompare_silent (h : RegsOk s) (r : TwinRec) : KeepsSilent s (twinCompare r s) := by
  have hcount {f : Fld} (hf : f.reg ∉ followed) : KeepsSilent s (s.addSat f 1) := ((Keeps.refl h).addSat hf 1).silent
  unfold twinCompare
  extract_lets past
  split
  · exact .ite (hcount (f := Fld.XCL_TWIN_COUNT_MATCHED) (by decide)) (twinMismatch_silent h r _)
  · exact .ite (Keeps.refl h).silent (hcount (f := Fld.XCL_TWIN_COUNT_UNMATCHED) (by decide))

/-- The record of number `n` is the last one read, in the scene that runs. -/
def twinHears (n : Nat) (s : State) : State := { s with twin := { s.twin with expect := n + 1, since := s.fld Fld.SCN_COUNT_SCENE } }

/-- The state in which a new record is compared: a gap before it is counted, and SILENT is clear (R373, R375). -/
def twinTaken (n : Nat) (s : State) : State :=
  (twinHears n (if n = s.twin.expect then s else s.addSat Fld.XCL_TWIN_COUNT_UNMATCHED 1)).setFld Fld.XCL_TWIN_STATUS_SILENT 0

theorem twinRead_none {fuel : Nat} (h : inboxNext s = none) : twinRead fuel s = s := by
  cases fuel <;> simp [twinRead, h]

theorem twinRead_some {fuel : Nat} {x : Nat × TwinRec} (h : inboxNext s = some x) :
    twinRead (fuel + 1) s = twinRead fuel (twinCompare x.2 (twinTaken x.1 s)) := by
  simp only [twinRead, h]
  rfl

theorem twinTaken_keeps (h : RegsOk s) (n : Nat) : KeepsRegs [Reg.XCL_TWIN_STATUS] s (twinTaken n s) ∧
    (twinTaken n s).fld Fld.XCL_TWIN_STATUS_SILENT = 0 ∧ (twinTaken n s).twin.since = s.fld Fld.SCN_COUNT_SCENE := by
  unfold twinTaken
  generalize ht : (if n = s.twin.expect then s else s.addSat Fld.XCL_TWIN_COUNT_UNMATCHED 1) = t
  have h1 : Keeps [Reg.XCL_TWIN_STATUS] s t := ht ▸ .ite (.refl h) ((Keeps.refl h).addSat (by decide) 1)
  have h2 : KeepsRegs [Reg.XCL_TWIN_STATUS] s (twinHears n t) := h1.regs
  have h3 : Keeps [Reg.XCL_TWIN_STATUS] (twinHears n t) ((twinHears n t).setFld Fld.XCL_TWIN_STATUS_SILENT 0) :=
    (Keeps.refl h2.ok).setFldIn (by decide) 0
  exact ⟨h2.trans h3.regs, State.fld_setFld_same h2.ok 0 (by decide), h1.fld (by decide) (by decide)⟩

/-- A new record was read in scene `n`, and SILENT is clear since. -/
def Heard (n : Nat) (s : State) : Prop :=
  RegsOk s ∧ s.fld Fld.XCL_TWIN_STATUS_SILENT = 0 ∧ s.twin.since = n ∧ s.fld Fld.SCN_COUNT_SCENE = n

/-- Taking and comparing one record. -/
theorem heard_twinCompare (h : RegsOk s) (n : Nat) (r : TwinRec) : Heard (s.fld Fld.SCN_COUNT_SCENE) (twinCompare r (twinTaken n s)) := by
  obtain ⟨hk, hsilent, hsince⟩ := twinTaken_keeps h n
  obtain ⟨hcmp, hsame⟩ := twinCompare_silent hk.ok r
  exact ⟨hcmp.ok, hsame.trans hsilent, hcmp.since.trans hsince,
    (hcmp.fld (by decide) (by decide)).trans (hk.fld (by decide) (by decide))⟩

theorem Heard.twinRead {n : Nat} (fuel : Nat) (h : Heard n s) : Heard n (twinRead fuel s) := by
  induction fuel generalizing s with
  | zero => exact h
  | succ fuel ih =>
    cases hx : inboxNext s with
    | none => rwa [twinRead_none hx]
    | some x =>
      obtain ⟨hok, -, -, hscene⟩ := h
      rw [twinRead_some hx]
      exact ih (hscene ▸ heard_twinCompare hok x.1 x.2)

/-- A tick that finds a new record reads it. -/
theorem heard_twinTick (h : RegsOk s) (hen : s.fld Fld.XCL_TWIN_CTRL_EN = 1) (hh : s.healthHalted = false) {x : Nat × TwinRec}
    (hx : inboxNext s = some x) : Heard (s.fld Fld.SCN_COUNT_SCENE) (twinTick s) := by
  rw [twinTick, if_pos (by simp [State.bit, hen, hh]), twinRead_some hx]
  exact (heard_twinCompare h x.1 x.2).twinRead 63

theorem twinRead_keeps (h : RegsOk s) (fuel : Nat) : KeepsRegs [Reg.XCL_TWIN_STATUS] s (twinRead fuel s) := by
  induction fuel generalizing s with
  | zero => exact .refl h
  | succ fuel ih =>
    cases hx : inboxNext s with
    | none => rw [twinRead_none hx]; exact .refl h
    | some x =>
      rw [twinRead_some hx]
      obtain ⟨ht, -⟩ := twinTaken_keeps h x.1
      obtain ⟨hc, -⟩ := twinCompare_silent ht.ok x.2
      exact (ht.trans hc.regs).trans (ih hc.ok)

/-- What a cue and an idle tick end with changes XCL_TWIN_STATUS alone of the followed registers. -/
theorem tickEnds_keepsRegs (h : RegsOk s) : KeepsRegs [Reg.XCL_TWIN_STATUS] s (tickEnds s) := by
  have ht : KeepsRegs [Reg.XCL_TWIN_STATUS] s (twinTick s) := by
    unfold twinTick
    split
    · exact twinRead_keeps h 64
    · exact .refl h
  exact ht.trans (tickEnds_keeps ht.ok).regs

end Sys2Proof.Proofs

/-! ### The idle tick (R45) -/

namespace Sys2Proof.Proofs

open Sys2Proof.Machine Sys2Proof.Safety

variable {X : List Nat} {s t u : State} {step pos : Nat}

/-- The instant of an idle tick has come, and the next one is due. -/
def idleDue (s : State) : State :=
  let s := advanceTo s.tim.idleDue s
  { s with tim := { s.tim with idleDue := s.tim.idleDue + tickUnits } }

/-- What applies at an idle tick: POSADD sums, the effects of commands, the shadows and the power step that goes on. -/
def idleApplies (s : State) : State :=
  powerAtCue (applyShadows (cmdFields s) (s.fld Fld.SCN_COUNT_SCENE) (applyCmds (applyPosadd s)))

/-- What follows at an idle tick of a device that is up. -/
def idleEnds (s : State) : State :=
  if s.ready then tickEnds { s with rhs := { s.rhs with opp := decide (s.fld Fld.PWR_STATE_PS ≤ 2) } } else s

theorem exec_idleTick (hr : s.ready = true) (hc : s.tim.cuesRun = false) :
    exec .idleTick s = .next (idleEnds (idleApplies (idleDue s))) :=
  congrArg Host.Outcome.next (if_pos (by simp [hr, hc]))

theorem idleDue_eq (s : State) : ∃ tim out, idleDue s = { s with tim := tim, out := out } := by
  unfold idleDue advanceTo runTo
  dsimp only
  split
  · cases s.tim.pulse with
    | none => exact ⟨_, _, rfl⟩
    | some e =>
      by_cases he : e ≤ s.tim.idleDue
      · exact ⟨_, _, by simp only [if_pos he]; rfl⟩
      · exact ⟨_, _, by simp only [if_neg he]; rfl⟩
  · exact ⟨_, _, rfl⟩

theorem idleEnds_keeps (h : RegsOk s) : KeepsRegs [Reg.XCL_TWIN_STATUS] s (idleEnds s) := by
  unfold idleEnds
  split
  · exact tickEnds_keepsRegs (s := { s with rhs := _ }) h
  · exact .refl h

/-! #### START_RUN at an idle tick -/

/-- A START_RUN waits alone, its restore READY, and nothing else is held. -/
structure RunWaits (step pos : Nat) (s : State) : Prop where
  cmd : s.cmdEff = [.run step pos]
  restore : s.fld Fld.SCN_RESTORE_STATE = 4
  free : s.controlHalted = false
  held : NothingHeld s

theorem RunWaits.keeps (h : RunWaits step pos s) (hk : Keeps X s t) (hX : Reg.SCN_RESTORE ∉ X) : RunWaits step pos t :=
  ⟨hk.cmdEff.trans h.cmd, (hk.fld (by decide) hX).trans h.restore, hk.controlHalted.trans h.free, hk.nothingHeld h.held⟩

/-- Where the effect of the START_RUN that waits is applied, its fields stand, and nothing is held. -/
theorem RunWaits.applyCmds (h : RunWaits step pos s) (hok : RegsOk s) :
    RegsOk (applyCmds s) ∧ RunStands step pos (applyCmds s) ∧ NothingHeld (applyCmds s) := by
  obtain ⟨hrun, hk⟩ := applyCmds_runStands hok h.cmd h.free (by rw [h.restore]; decide)
  exact ⟨hk.ok, hrun, hk.nothingHeld (s := { s with cmdEff := [] }) h.held⟩

/-- The idle tick applies the effect of a START_RUN and leaves its fields as they then stand. -/
theorem RunWaits.idleTick (h : RunWaits step pos s) (hok : RegsOk s) : RunStands step pos (idleEnds (idleApplies (idleDue s))) := by
  have h1 : Keeps [] s (applyPosadd (idleDue s)) := by
    obtain ⟨tim, out, hdue⟩ := idleDue_eq s
    rw [hdue]
    exact Keeps.applyPosadd (t := { s with tim := tim, out := out }) (Keeps.refl hok)
  unfold idleApplies
  generalize idleDue s = v at h1 ⊢
  obtain ⟨hok', hrun, hheld⟩ := (h.keeps h1 (by decide)).applyCmds h1.ok
  have hshadow := (Keeps.refl (X := []) hok').applyShadows hheld (cmdFields v) (v.fld Fld.SCN_COUNT_SCENE)
  have hpower := (powerAtCue_only hshadow.ok).regs
  exact hrun.keeps ((hshadow.trans hpower).weaken.trans (idleEnds_keeps hpower.ok)) (by decide)

/-! #### The inbox at an idle tick -/

/-- What the reading of the inbox rests on beside its registers: memory, twin mode's state, a JTAG halt and the supply. -/
def inboxView (s : State) : SMap Byte × TwinSt × TapSt × Bool × Bool := (s.mem, s.twin, s.tap, s.pwr.supplied, s.pwr.perst)

/-- The followed registers, and what the reading of the inbox rests on, are as before. -/
def SameInbox (s t : State) : Prop := KeepsRegs [] s t ∧ inboxView t = inboxView s

theorem SameInbox.regs (h : SameInbox s t) : KeepsRegs [] s t := h.1

theorem SameInbox.view (h : SameInbox s t) : inboxView t = inboxView s := h.2

theorem SameInbox.trans (h1 : SameInbox s t) (h2 : SameInbox t u) : SameInbox s u :=
  ⟨h1.regs.trans h2.regs, h2.view.trans h1.view⟩

theorem SameInbox.inboxNext (h : SameInbox s t) : inboxNext t = inboxNext s := by
  obtain ⟨hregs, hview⟩ := h
  obtain ⟨hmem, htwin, -⟩ := by simpa only [inboxView, Prod.mk.injEq] using hview
  have hbase : t.fld Fld.XCL_TWIN_INBOX_BASE = s.fld Fld.XCL_TWIN_INBOX_BASE := hregs.fld (by decide) (by decide)
  have hslot : inboxSlot t = inboxSlot s := by
    funext i
    simp only [inboxSlot, State.le, State.bytes, State.byte, hbase, hmem]
  simp only [Machine.inboxNext, hslot, htwin]

theorem SameInbox.healthHalted (h : SameInbox s t) : t.healthHalted = s.healthHalted := by
  obtain ⟨-, -, htap, -⟩ := by simpa only [inboxView, Prod.mk.injEq] using h.view
  rw [State.healthHalted, htap, State.healthHalted]

theorem SameInbox.ready (h : SameInbox s t) : t.ready = s.ready := by
  obtain ⟨hregs, hview⟩ := h
  obtain ⟨-, -, -, hsupplied, hperst⟩ := by simpa only [inboxView, Prod.mk.injEq] using hview
  rw [State.ready, State.awake, hregs.fld (f := Fld.PWR_STATE_PS) (by decide) (by decide),
    hregs.fld (f := Fld.SMG_BOOT_STAGE) (by decide) (by decide), hsupplied, hperst, State.ready, State.awake]

/-- While twin mode stays on, its state is kept (R404). -/
theorem twinEdge_on (hon : s.twin.on = true) (hen : s.fld Fld.XCL_TWIN_CTRL_EN = 1) : twinEdge s = s := by
  have hs : { s.twin with on := true } = s.twin := by rw [← hon]
  simp [twinEdge, State.bit, hen, hon, hs]

theorem sameInbox_applyShadows (h : RegsOk s) (hn : NothingHeld s) (hen : s.fld Fld.XCL_TWIN_CTRL_EN = 1) (hon : s.twin.on = true)
    (scene : Nat) : SameInbox s (applyShadows 0 scene s) := by
  have hT : s.pendT = [] := hn.1
  have hk : Keeps [] s (s.setFld Fld.SDR_ZEROISE_KEY_KEY 0) := (Keeps.refl h).setFld (by decide) 0
  have hen' : (s.setFld Fld.SDR_ZEROISE_KEY_KEY 0).fld Fld.XCL_TWIN_CTRL_EN = 1 := (hk.fld (by decide) (by decide)).trans hen
  rw [applyShadows_of_nothingHeld 0 scene hn, applyT_empty 0 scene hT, if_pos rfl, ite_self, twinEdge_on (s := s.setFld _ _) hon hen']
  exact ⟨hk.regs, rfl⟩

theorem PowerOnly.sameInbox (h : PowerOnly s t) : SameInbox s t := by
  have hview : inboxView (offPower t) = inboxView (offPower s) := by rw [h.off]
  exact ⟨h.regs, hview⟩

theorem applyPosadd_empty (h : s.posadd = []) : applyPosadd s = s := by
  cases s
  cases h
  rfl

theorem applyCmds_empty (h : s.cmdEff = []) : applyCmds s = s := by
  cases s
  cases h
  exact ite_self _

/-- With nothing that waits, an idle tick leaves the inbox and twin mode as they were until it reads the inbox. -/
theorem sameInbox_idleApplies (h : RegsOk s) (hn : NothingWaits s) (hen : s.fld Fld.XCL_TWIN_CTRL_EN = 1) (hon : s.twin.on = true) :
    SameInbox s (idleApplies (idleDue s)) := by
  have hdue : SameInbox s (idleDue s) ∧ NothingWaits (idleDue s) ∧ (idleDue s).twin.on = true := by
    obtain ⟨tim, out, heq⟩ := idleDue_eq s
    rw [heq]
    exact ⟨⟨.refl h, rfl⟩, hn, hon⟩
  unfold idleApplies
  generalize idleDue s = v at hdue ⊢
  obtain ⟨hsame, ⟨hheld, hcmd, hpos⟩, hon⟩ := hdue
  have hfields : cmdFields v = 0 := by simp [cmdFields, hcmd]
  rw [applyPosadd_empty hpos, applyCmds_empty hcmd, hfields]
  have hen : v.fld Fld.XCL_TWIN_CTRL_EN = 1 := (hsame.regs.fld (by decide) (by decide)).trans hen
  have hshadow := sameInbox_applyShadows hsame.regs.ok hheld hen hon (v.fld Fld.SCN_COUNT_SCENE)
  exact (hsame.trans hshadow).trans (powerAtCue_only hshadow.regs.ok).sameInbox

theorem silent_idleTick (h : RegsOk s) (hr : s.ready = true) (hn : NothingWaits s) (hen : s.fld Fld.XCL_TWIN_CTRL_EN = 1)
    (hon : s.twin.on = true) (hh : s.healthHalted = false) {x : Nat × TwinRec} (hx : inboxNext s = some x) :
    (idleEnds (idleApplies (idleDue s))).fld Fld.XCL_TWIN_STATUS_SILENT = 0 := by
  have hs := sameInbox_idleApplies h hn hen hon
  generalize idleApplies (idleDue s) = u at hs ⊢
  rw [idleEnds, if_pos (hs.ready.trans hr)]
  generalize hw : ({ u with rhs := _ } : State) = w
  have hsw : SameInbox s w := hw ▸ hs
  obtain ⟨hok, hsilent, -, -⟩ := heard_twinTick hsw.regs.ok ((hsw.regs.fld (by decide) (by decide)).trans hen)
    (hsw.healthHalted.trans hh) (hsw.inboxNext.trans hx)
  exact ((tickEnds_keeps (X := []) hok).fld (by decide) (by decide)).trans hsilent

/-! #### SILENT -/

theorem execSilent_due (hen : s.fld Fld.XCL_TWIN_CTRL_EN = 1)
    (hdue : s.twin.since + 4 * s.fld Fld.XCL_TWIN_CTRL_K ≤ s.fld Fld.SCN_COUNT_SCENE) :
    exec .silent s = .next (s.setFld Fld.XCL_TWIN_STATUS_SILENT 1) :=
  congrArg Host.Outcome.next (if_pos (by simp [State.bit, hen, hdue]))

theorem execSilent_not_due (h : s.fld Fld.XCL_TWIN_CTRL_EN = 0 ∨
    s.fld Fld.SCN_COUNT_SCENE < s.twin.since + 4 * s.fld Fld.XCL_TWIN_CTRL_K) : exec .silent s = .next s := by
  refine congrArg Host.Outcome.next (if_neg ?_)
  rcases h with hen | hearly
  · simp [State.bit, hen]
  · simp [hearly]

end Sys2Proof.Proofs

section

open Sys2Proof.Machine Sys2Proof.Safety Sys2Proof.Proofs

/-- Settles O60, by the boundary of the 4 × K scenes; the tick that finds a record reads it, and what follows in the tick leaves SILENT. -/
theorem twinSilenceIsReported : Obligations.TwinSilenceIsReported := by
  unfold Obligations.TwinSilenceIsReported
  intro s h
  refine ⟨fun hen hdue => ⟨_, execSilent_due hen hdue, ⟨fun _ => rfl, fun _ => rfl⟩, State.fld_setFld_same h.regs 1 (by decide),
    fun a ha => State.reg_setFld_other h.regs 1 ha⟩, execSilent_not_due, fun x hen hh hx => ?_⟩
  obtain ⟨-, hsilent, hsince, -⟩ := heard_twinTick h.regs hen hh hx
  exact ⟨hsilent, hsince, fun hr hc _ hn hcmd hpos hon =>
    ⟨_, exec_idleTick hr hc, silent_idleTick h.regs hr ⟨hn, hcmd, hpos⟩ hen hon hh hx⟩⟩

end

/-! ### What a cue does before and after the commands' effects

Each operation of a cue, from the leftovers of the scene to the next start, follows the registers and keeps what waits. -/

namespace Sys2Proof.Proofs

open Sys2Proof.Machine Sys2Proof.Safety

variable {X : List Nat} {s t : State}

/-! #### Packets and links (R237, R252 to R254, R260, R337) -/

theorem dropFld_not_followed (reason : Nat) : (dropFld reason).reg ∉ followed := by
  unfold dropFld
  split <;> decide

theorem Keeps.dropPkt (h : Keeps X s t) (reason link : Nat) (p : Pkt) : Keeps X s (dropPkt reason link p t) := by
  unfold Machine.dropPkt
  extract_lets t1 t2
  have h1 : Keeps X s t1 := .ite h (((((h.setFld (f := Fld.FAB_DROP_INFO_REASON) (by decide) _).setFld (f := Fld.FAB_DROP_INFO_LINK)
    (by decide) _).setFld (f := Fld.FAB_DROP_INFO_RES) (by decide) _).setFld (f := Fld.FAB_DROP_INFO_SRC) (by decide) _).setFld
    (f := Fld.FAB_DROP_INFO_DEST) (by decide) _)
  clear_value t1
  have h2 : Keeps X s t2 := (h1.addSat (dropFld_not_followed reason) 1).setFld (f := Fld.FAB_STATUS_DROP) (by decide) 1
  exact h2.raise (by decide) _ _

theorem Keeps.routeIllegal (h : Keeps X s t) (core cause hop bundle : Nat) (w : Bool) :
    Keeps X s (routeIllegal core cause hop bundle w t) := by
  unfold Machine.routeIllegal
  extract_lets t1
  have h1 : Keeps X s t1 := .ite h ((((h.setFld (f := Fld.FAB_ILLEGAL_INFO_CORE) (by decide) _).setFld (f := Fld.FAB_ILLEGAL_INFO_CAUSE)
    (by decide) _).setFld (f := Fld.FAB_ILLEGAL_INFO_HOP) (by decide) _).setFld (f := Fld.FAB_ILLEGAL_INFO_BUNDLE) (by decide) _)
  clear_value t1
  exact (h1.setFld (f := Fld.FAB_STATUS_ROUTE_ILLEGAL) (by decide) 1).raise (by decide) _ _

theorem Keeps.useInj (h : Keeps X s t) (reg bit : Nat) : Keeps X s (useInj reg bit t) :=
  Keeps.setFld (t := { t with inj := t.inj.filter fun p => decide (p ≠ (reg, bit)) }) (f := Fld.FLT_STATUS_INJ_ARMED) h (by decide) _

theorem Keeps.sendFlit (h : Keeps X s t) (k : Nat) : Keeps X s (sendFlit k t) := by
  unfold Machine.sendFlit
  extract_lets l crc fec t1 t2
  have h1 : Keeps X s t1 := .ite (h.useInj _ _) h
  clear_value t1
  have h2 : Keeps X s t2 := .ite (h1.useInj _ _) h1
  clear_value t2
  exact h2

theorem Keeps.formFlits (h : Keeps X s t) (k n : Nat) : Keeps X s (formFlits k n t) := by
  induction n generalizing t with
  | zero => exact h
  | succ n ih => exact .ite (ih (h.sendFlit k)) h

theorem Keeps.sendBytes (h : Keeps X s t) (k : Nat) (bs : List Byte) : Keeps X s (sendBytes k bs t) :=
  Keeps.formFlits (t := t.setLink k { t.link k with txBody := (t.link k).txBody ++ bs }) h k 512

theorem Keeps.sendNow (h : Keeps X s t) (i : TxItem) : Keeps X s (sendNow i t) := by
  unfold Machine.sendNow
  extract_lets t1 p t2
  have h2 : Keeps X s t2 := .sendBytes (t := { t1 with out := _ }) h _ _
  clear_value t2
  split <;> exact h2

theorem Keeps.pumpList (h : Keeps X s t) (l : List TxItem) : Keeps X s (pumpList l t) := by
  induction l generalizing t with
  | nil => exact h
  | cons i l ih =>
    refine .ite (ih (.sendNow ?_ i)) (ih h)
    exact h

theorem Keeps.pump (h : Keeps X s t) : Keeps X s (pump t) := .foldl _ (fun _ _ _ hv => hv.pumpList _) h

theorem Keeps.enqueue (h : Keeps X s t) (i : TxItem) : Keeps X s (enqueue i t) := .pump (t := { t with fab := _ }) h

theorem Keeps.launch (h : Keeps X s t) (port : Nat) (ps : List Pkt) : Keeps X s (launch port ps t) :=
  .foldl ps (fun _ _ _ hv => hv.enqueue _) h

theorem Keeps.leftovers (h : Keeps X s t) : Keeps X s (leftovers t) := by
  unfold Machine.leftovers
  extract_lets held own t1 t2
  have h1 : Keeps X s t1 := .foldl held (fun _ _ _ hv => hv.dropPkt _ _ _) h
  clear_value t1
  have h2 : Keeps X s t2 := .foldl own (fun _ _ _ hv => hv.dropPkt _ _ _) h1
  clear_value t2
  exact h2

theorem Keeps.resetReducers (h : Keeps X s t) : Keeps X s (resetReducers t) := by
  unfold Machine.resetReducers
  extract_lets used left t1
  have h1 : Keeps X s t1 := by
    refine .foldl used (fun v i hi hv => hv.setFld ?_ 0) h
    have hlt : i < 256 := List.mem_range.1 (List.mem_filter.1 hi).1
    apply not_followed_of_blocks <;> simp only [Fld.XCL_RCTX_STATE_EMITTED, Reg.XCL_RCTX_STATE] <;> omega
  clear_value t1
  exact h1.addSat (f := Fld.XCL_LEFTOVER_COUNT) (by decide) _

/-! #### Regions (R137, R139, R140) -/

theorem Keeps.sendNotice (h : Keeps X s t) (c : CoreId) (region outcome : Nat) (sent : List SentRec) (r : SentRec) :
    Keeps X s (sendNotice c region outcome sent r t) := by
  unfold Machine.sendNotice
  split
  · split
    · exact h
    · exact h
  · split
    · exact h.routeIllegal ..
    · exact h.launch ..

theorem Keeps.sendNotices (h : Keeps X s t) (c : CoreId) (r : Region) (outcome : Nat) : Keeps X s (sendNotices c r outcome t) :=
  .foldl _ (fun _ _ _ hv => hv.sendNotice ..) h

theorem Keeps.write (h : Keeps X s t) (a : Nat) (bs : List Byte) : Keeps X s (t.write a bs) := h

theorem Keeps.unwrite (h : Keeps X s t) (o : CoreId) (mark : Pend → Bool) : Keeps X s (unwrite o mark t) := by
  unfold Machine.unwrite
  extract_lets ls t1
  have h1 : Keeps X s t1 := .foldl ls (fun _ _ _ hv => hv.write _ _) h
  clear_value t1
  exact h1

theorem Keeps.squash (h : Keeps X s t) (c : CoreId) (outcome : Nat) : Keeps X s (squash c outcome t) := by
  unfold Machine.squash
  split
  · exact h
  · next r _ =>
    have h1 : Keeps X s (t.updCore c (squashCore r)) := h
    exact ((h1.unwrite c _).addSat (f := Fld.SCN_SPEC_COUNT_SQUASHED) (by decide) 1).sendNotices c r outcome

theorem Keeps.abandonRegion (h : Keeps X s t) (c : CoreId) : Keeps X s (abandonRegion t c) := by
  unfold Machine.abandonRegion
  split
  · exact h
  · extract_lets first t1
    have h1 : Keeps X s t1 := .ite (h.setFld (f := Fld.SCN_SPEC_STATUS_CORE) (by decide) _) h
    clear_value t1
    exact ((h1.setFld (f := Fld.SCN_SPEC_STATUS_ABANDON) (by decide) 1).logEvent _ _ _).squash c 3

theorem Keeps.dropSources (h : Keeps X s t) (c : CoreId) : Keeps X s (dropSources t c) := .ite h (h.unwrite c _)

/-! #### The end of a scene (R29, R47, R111, R116, R178, R209) -/

theorem Keeps.endPinTest (h : Keeps X s t) : Keeps X s (endPinTest t) :=
  .ite (Keeps.setFld (t := { t with flt := _ }) (f := Fld.FLT_STATUS_PIN) h (by decide) 0) h

theorem Keeps.cuePulse (h : Keeps X s t) : Keeps X s (cuePulse t) := .ite h h

theorem Keeps.cueSettled (h : Keeps X s t) : Keeps X s (cueSettled t) := h.endPinTest.leftovers.resetReducers

theorem Keeps.sceneStats (h : Keeps X s t) : Keeps X s (sceneStats t) := by
  refine .ite ?_ h
  exact ((h.setFld (f := Fld.SCN_MARGIN_MIN) (by decide) _).setFld (f := Fld.SCN_SLIP_MAX_CYCLES) (by decide) _).setFld
    (f := Fld.SCN_SLIP_MAX_CORE) (by decide) _

theorem coreReg_not_followed {a : Nat} (c : CoreId) (h : coreBlock c ≤ a) : a ∉ followed := by
  apply not_followed_of_core
  simp only [coreBlock] at h
  omega

theorem Keeps.fenceStats (h : Keeps X s t) : Keeps X s (fenceStats t) :=
  .foldl _ (fun _ c _ hv => hv.setFld (f := Fld.TRL_SLIP_CYCLES c) (coreReg_not_followed c (Nat.le_add_right ..)) _) h

theorem Keeps.noteOverrun (h : Keeps X s t) (n : Nat) : Keeps X s (noteOverrun n t) := by
  unfold Machine.noteOverrun
  extract_lets _ t1 t2
  have h1 : Keeps X s t1 := h
  clear_value t1
  have h2 : Keeps X s t2 := (h1.setFld (f := Fld.SCN_STATUS_OVERRUN) (by decide) 1).setFld (f := Fld.SCN_OVR_INFO_CORE) (by decide) n
  clear_value t2
  exact (h2.setFld (f := Fld.SCN_OVR_SCENE_SCENE) (by decide) _).raise (by decide) _ _

theorem Keeps.endFrame (h : Keeps X s t) (c : CoreId) : Keeps X s (endFrame t c) := by
  unfold Machine.endFrame
  extract_lets k stale t1
  refine .ite h ?_
  have h1 : Keeps X s t1 := h
  clear_value t1 stale
  cases stale with
  | none => exact h1
  | some p => exact (h1.setFld (f := Fld.CFR_STATUS_STALE c) (coreReg_not_followed c (Nat.le_add_right ..)) 1).logEvent _ _ _

theorem Keeps.wiltEntry (h : Keeps X s t) {i : Nat} (hi : i < 256) : Keeps X s (wiltEntry t i) := by
  have hreg : (Fld.WLT_COUNT_COUNT i).reg ∉ followed := by
    apply not_followed_of_slots <;> simp only [Fld.WLT_COUNT_COUNT, Reg.WLT_COUNT] <;> omega
  unfold Machine.wiltEntry
  extract_lets w old t1 n d t2
  have h1 : Keeps X s t1 := h.addSat hreg 1
  clear_value t1
  have h2 : Keeps X s t2 := .ite h1 h1
  clear_value t2
  exact .ite h (.ite (.ite h2 h2) (h.setFld hreg 0))

theorem Keeps.wiltUpdate (h : Keeps X s t) : Keeps X s (wiltUpdate t) := by
  have h1 : Keeps X s ((List.range 256).foldl Machine.wiltEntry t) := .foldl _ (fun _ _ hi hv => hv.wiltEntry (List.mem_range.1 hi)) h
  exact h1

theorem Keeps.latchSnap (h : Keeps X s t) : Keeps X s (latchSnap t) := by
  unfold Machine.latchSnap
  split
  · exact .ite h h
  · exact h

theorem Keeps.cutTile (h : Keeps X s t) (c : CoreId) (x : Tile) : Keeps X s (cutTile c t x) := .foldl _ (fun _ _ _ hv => hv) h

theorem Keeps.cutReplays (h : Keeps X s t) (c : CoreId) : Keeps X s (cutReplays t c) :=
  .ite h (.foldl _ (fun _ _ _ hv => hv.cutTile ..) h)

theorem Keeps.leaveScene (h : Keeps X s t) (c : CoreId) : Keeps X s (leaveScene t c) := h.cutReplays c

end Sys2Proof.Proofs

/-! ### The start of a scene, and the cue that applies a START_RUN -/

namespace Sys2Proof.Proofs

open Sys2Proof.Machine Sys2Proof.Safety

variable {X : List Nat} {s t u : State}

/-! #### Marks, halts and health of a cue (R30, R31, R36, R38, R46, R306, R318, R349) -/

theorem Keeps.cueMarks (h : Keeps X s t) (lost seqBad lenOk : Bool) : Keeps X s (cueMarks lost seqBad lenOk t) := by
  unfold Machine.cueMarks
  extract_lets t1 t2
  have h1 : Keeps X s t1 := .ite ((h.setFld (f := Fld.SCN_STATUS_CUE_LOST) (by decide) 1).raise (by decide) _ _) h
  clear_value t1
  have h2 : Keeps X s t2 := .ite (h1.setFld (f := Fld.SCN_STATUS_CUE_SEQ) (by decide) 1) h1
  clear_value t2
  exact h2.setFld (f := Fld.SCN_STATUS_LEN_MISMATCH) (by decide) _

theorem Keeps.placeNext (h : Keeps X s t) (n len scene : Nat) : Keeps X s (placeNext n len scene t) := .ite (.ite h h) h

theorem Keeps.treeSend (h : Keeps X s t) (p : CtrlPkt) (k : Nat) : Keeps X s (treeSend p t k) := .ite (h.enqueue _) h

theorem Keeps.sendHalt (h : Keeps X s t) (cause : Nat) : Keeps X s (sendHalt cause t) := by
  refine .ite h (.ite h (.treeSend ?_ _ _))
  exact h

theorem Keeps.cueSendsHalt (h : Keeps X s t) (send who lost seqBad : Bool) : Keeps X s (cueSendsHalt send who lost seqBad t) :=
  .ite (h.sendHalt _) h

theorem Keeps.cueHalts (h : Keeps X s t) (halted : Bool) : Keeps X s (cueHalts halted t) := by
  unfold Machine.cueHalts
  extract_lets was t1
  have h1 : Keeps X s t1 := h.setFld (f := Fld.SCN_STATUS_HALTED) (by decide) _
  clear_value t1
  exact .ite (h1.postNotice _ _) h1

theorem rail_not_followed {i : Nat} (hi : i < 113) : Reg.PWR_RAIL i ∉ followed := by
  apply not_followed_of_blocks <;> simp only [Reg.PWR_RAIL] <;> omega

theorem Keeps.readRails (h : Keeps X s t) : Keeps X s (readRails t) := by
  unfold Machine.readRails
  extract_lets r t1
  have h1 : Keeps X s t1 := by
    refine .foldl _ (fun v i hi hv => ?_) h
    have hrail := rail_not_followed (List.mem_range.1 (List.mem_filter.1 hi).1)
    exact (hv.setFld (f := Fld.PWR_RAIL_MV i) hrail _).setFld (f := Fld.PWR_RAIL_CURRENT i) hrail _
  clear_value t1
  have hvin : Reg.PWR_VIN ∉ followed := by decide
  exact (((h1.setFld (f := Fld.PWR_VIN_MV) hvin _).setFld (f := Fld.PWR_VIN_AMPS) hvin _).setFld (f := Fld.PWR_VIN_PEAK) hvin _).setFld
    (f := Fld.PWR_VIN_AUX_MV) hvin _

theorem Keeps.measurePower (h : Keeps X s t) : Keeps X s (measurePower t) := by
  unfold Machine.measurePower
  extract_lets r t1
  have h1 : Keeps X s t1 := (h.readRails.setFld (f := Fld.PWR_PKG_NOW) (by decide) _).setFld (f := Fld.PWR_PKG_PEAK) (by decide) _
  clear_value t1
  exact .ite ((h1.setFld (f := Fld.PWR_STATUS_NEAR) (by decide) 1).logEvent _ _ _) h1

theorem Keeps.setFrost (h : Keeps X s t) (x : SMap Nat) (f : FrostSt) : Keeps X s { t with frostX := x, frost := f } := h

theorem Keeps.secureNow (h : Keeps X s t) : Keeps X s (secureNow t) :=
  ((h.postNotice _ _).logEvent _ _ _).setFrost _ _

theorem Keeps.frostUpdate (h : Keeps X s t) : Keeps X s (frostUpdate t) := by
  unfold Machine.frostUpdate
  extract_lets es terms therm score t1 t2 _ t3
  have h1 : Keeps X s t1 := by
    refine .foldl _ (fun v i hi hv => hv.setFld ?_ _) h
    have hlt : i < 5 := List.mem_range.1 hi
    apply not_followed_of_blocks <;> simp only [Fld.FRW_IN_STATE_TERM, Reg.FRW_IN_STATE] <;> omega
  clear_value t1
  have h2 : Keeps X s t2 := (h1.setFld (f := Fld.FRW_SCORE_SCORE) (by decide) _).setFld (f := Fld.FRW_SCORE_THERM) (by decide) _
  clear_value t2
  have h3 : Keeps X s t3 := h2.setFrost _ _
  clear_value t3
  have harmed : Fld.FRW_SCORE_ARMED.reg ∉ followed := by decide
  exact .ite (h3.secureNow.setFld harmed 0) (.ite (h3.setFld harmed 1) h3)

theorem Keeps.cueHealth (h : Keeps X s t) : Keeps X s (cueHealth t) := .ite h h.measurePower.frostUpdate

theorem Keeps.cueOpens (h : Keeps X s t) (scene : Nat) : Keeps X s (cueOpens scene t) := h

/-! #### The scene start (R29, R116, R213) -/

theorem Keeps.store (h : Keeps X s t) (a : Nat) (bs : List Byte) : Keeps X s (t.store a bs) := by
  unfold State.store
  split
  · exact .ite ((h.write a bs).useInj _ _) (h.write a bs)
  · exact h.write a bs

theorem Keeps.coldRecords (h : Keeps X s t) : Keeps X s (coldRecords t) := by
  unfold Machine.coldRecords
  refine .ite ?_ h
  extract_lets base cold tags t1
  have h1 : Keeps X s t1 := .foldl cold (fun _ _ _ hv => hv.store _ _) h
  clear_value t1 tags
  cases tags with
  | nil => exact Keeps.logEvent (t := (drawWord t1).2) h1 _ _ _
  | cons => exact h1.logEvent _ _ _

theorem Keeps.startCore (h : Keeps X s t) (pos : Nat) (c : CoreId) : Keeps X s (startCore pos t c) := by
  unfold Machine.startCore
  extract_lets k prog k0
  clear_value prog
  split
  · exact h
  · exact .ite h h

theorem Keeps.startScene (h : Keeps X s t) : Keeps X s (startScene t) := by
  unfold Machine.startScene
  extract_lets t1 t2
  have h1 : Keeps X s t1 := h.coldRecords
  clear_value t1
  have h2 : Keeps X s t2 := .foldl _ (fun _ c _ hv => hv.startCore _ c) h1
  clear_value t2
  exact h2

end Sys2Proof.Proofs

/-! ### START_RUN (R112, R144, R300, R367) -/

namespace Sys2Proof.Proofs

open Sys2Proof.Machine Sys2Proof.Safety Sys2Proof.Laws

variable {s t : State} {k : Taken} {step pos : Nat} {seed : Word}

/-! #### A change of every core -/

/-- A change of some cores leaves all but the cores alone. -/
theorem foldl_updCore_eq (f : Core → Core) (l : List CoreId) (s : State) :
    ∃ cs, l.foldl (fun s c => s.updCore c f) s = { s with cores := cs } := by
  induction l generalizing s with
  | nil => exact ⟨_, rfl⟩
  | cons c l ih => exact ih (s.updCore c f)

theorem core_foldl_updCore {f : Core → Core} (hf : ∀ k, CoreOk k → CoreOk (f k)) {q : List Instr} {l : List CoreId}
    (hl : l.Nodup) (h : Good q s) (c : CoreId) :
    (l.foldl (fun s c => s.updCore c f) s).core c = if c ∈ l then f (s.core c) else s.core c := by
  induction l generalizing s with
  | nil => rfl
  | cons d l ih =>
    obtain ⟨hd, hl⟩ := List.nodup_cons.1 hl
    rw [List.foldl_cons, ih hl (updCore_good hf h)]
    by_cases hc : c = d
    · subst hc
      simp [hd, State.core_updCore_same h.canon.cores]
    · simp [hc, State.core_updCore_other h.canon.cores f hc]

/-- A change of every core. -/
theorem foldl_allCores_updCore {f : Core → Core} (hf : ∀ k, CoreOk k → CoreOk (f k)) {q : List Instr} (h : Good q s) :
    ∃ cs, allCores.foldl (fun s c => s.updCore c f) s = { s with cores := cs } ∧
      ∀ c : CoreId, SMap.get {} cs c.val = f (s.core c) := by
  obtain ⟨cs, hcs⟩ := foldl_updCore_eq f allCores s
  refine ⟨cs, hcs, fun c => ?_⟩
  have hcore := core_foldl_updCore hf (List.nodup_finRange 96) h c
  rw [if_pos (List.mem_finRange c)] at hcore
  exact (congrArg (·.core c) hcs).symm.trans hcore

/-! #### What START_RUN leaves -/

theorem startApplies_eq (k : Taken) (h : Canonical s) : ∃ sk cs, startApplies k s = { s with
    seed := BitVec.ofNat 64 (k.at 16 8), seedSet := true, subkeys := sk, cores := cs
    cmdEff := s.cmdEff ++ [.run (k.at 24 8) (k.at 32 2)] } ∧ ∀ c : CoreId, SMap.get {} cs c.val = (s.core c).fresh := by
  have hset : Good s.pending (setSeed (BitVec.ofNat 64 (k.at 16 8)) { s with seedSet := true }) :=
    setSeed_good (good_of (Canonical.good h) rfl rfl rfl rfl rfl rfl rfl rfl rfl rfl rfl rfl rfl)
  obtain ⟨cs, hcs, hcores⟩ := foldl_allCores_updCore (f := Core.fresh) (fun k hk => Core_fresh_good hk) hset
  refine ⟨(setSeed (BitVec.ofNat 64 (k.at 16 8)) { s with seedSet := true }).subkeys, cs, ?_, hcores⟩
  unfold startApplies
  rw [hcs]
  rfl

/-! #### Where it differs from the restored state, and where not -/

/-- START_RUN differs in nothing from a restore that stands READY. -/
def AgreesWithRestore (k : Taken) (s : State) : Prop :=
  ∀ step pos seed, RestoredAs s step pos seed → k.at 24 8 = step ∧ k.at 32 2 = pos ∧ BitVec.ofNat 64 (k.at 16 8) = seed

/-- DETAIL of a START_RUN of another step, position or seed than a restored one (R367). -/
theorem startDiffers_of_restored (h : RestoredAs s step pos seed) : startDiffers s k =
    if k.at 24 8 ≠ step then 1 else if k.at 32 2 ≠ pos then 2 else if BitVec.ofNat 64 (k.at 16 8) ≠ seed then 3 else 0 := by
  obtain ⟨hstate, hrest⟩ := h
  simp [startDiffers, hstate, hrest]

theorem startDiffers_of_agrees (h : AgreesWithRestore k s) : startDiffers s k = 0 := by
  cases hr : s.eng.restored with
  | none => simp [startDiffers, hr]
  | some r =>
    obtain ⟨step, pos, seed⟩ := r
    by_cases hs : s.fld Fld.SCN_RESTORE_STATE = 4
    · obtain ⟨hstep, hpos, hseed⟩ := h step pos seed ⟨hs, hr⟩
      simp [startDiffers_of_restored (k := k) ⟨hs, hr⟩, hstep, hpos, hseed]
    · simp [startDiffers, hr, hs]

theorem exec_startRun_differs (h : Runs s k startRule) {n : Nat} (hn : startDiffers s k = n) (h0 : n ≠ 0) :
    exec .startRun s = .next (completeTaken k 2 0 n s) :=
  congrArg Host.Outcome.next ((command_of_runs h _).trans (by rw [hn, if_pos h0]))

theorem exec_startRun_runs (h : Runs s k startRule) (hn : startDiffers s k = 0) (hpos : k.at 32 2 < seqLen s) :
    exec .startRun s = .next (completeTaken k 0 (appliedScene s) 0 (startApplies k s)) :=
  congrArg Host.Outcome.next ((command_of_runs h _).trans (by rw [if_neg (not_not.2 hn), if_neg (by omega)]))

theorem exec_startRun_pastEnd (h : Runs s k startRule) (hn : startDiffers s k = 0) (hpos : seqLen s ≤ k.at 32 2) :
    exec .startRun s = .next (completeTaken k 2 0 0 s) :=
  congrArg Host.Outcome.next ((command_of_runs h _).trans (by rw [if_neg (not_not.2 hn), if_pos hpos]))

/-- A START_RUN that is refused completes with BAD_OPERAND, and no register but those of the rings changes. -/
theorem refused_completeTaken (h : RegsOk s) (k : Taken) (n : Nat) : SameStores s (completeTaken k 2 0 n s) ∧
    RingRegsOnly s (completeTaken k 2 0 n s) ∧ Completed s (completeTaken k 2 0 n s) k 2 0 n :=
  have hring := (RingOnly.refl h).completeTaken k 2 0 n
  ⟨hring.sameStores, hring.regs, completed_completeTaken k 2 0 n s⟩

/-- In READY, a START_RUN of another step, position or seed is refused with the number of the first that differs (R367). -/
theorem startRun_differs (h : Canonical s) (hrun : Runs s k startRule) {n : Nat} (hn : startDiffers s k = n) (h0 : n ≠ 0) :
    ∃ t, exec .startRun s = .next t ∧ SameStores s t ∧ RingRegsOnly s t ∧ Completed s t k 2 0 n :=
  ⟨_, exec_startRun_differs hrun hn h0, refused_completeTaken h.regs k n⟩

/-- A START_RUN of a position of the sequence that does not differ runs (R112, R144, R299). -/
theorem startRun_runs (h : Canonical s) (hrun : Runs s k startRule) (ha : AgreesWithRestore k s) (hpos : k.at 32 2 < seqLen s) :
    ∃ t, exec .startRun s = .next t ∧ (∀ a, t.byte a = s.byte a) ∧ RingRegsOnly s t ∧ Completed s t k 0 (appliedScene s) 0 ∧
      t.seed = BitVec.ofNat 64 (k.at 16 8) ∧ t.seedSet = true ∧ t.cmdEff = s.cmdEff ++ [.run (k.at 24 8) (k.at 32 2)] ∧
      ∀ c, t.core c = (s.core c).fresh := by
  have hexec := exec_startRun_runs hrun (startDiffers_of_agrees ha) hpos
  obtain ⟨sk, cs, heq, hfresh⟩ := startApplies_eq k h
  rw [heq] at hexec
  generalize hu : State.mk .. = u at hexec
  have hring := (RingOnly.refl (s := u) (hu ▸ h.regs)).completeTaken k 0 (appliedScene s) 0
  have hcompleted := completed_completeTaken k 0 (appliedScene s) 0 u
  generalize completeTaken k 0 (appliedScene s) 0 u = t at hexec hring hcompleted
  obtain ⟨hbytes, hcores⟩ := hring.sameStores
  obtain ⟨-, hregs, hoff⟩ := hring
  subst hu
  exact ⟨t, hexec, hbytes, hregs, hcompleted, congrArg (·.seed) hoff, congrArg (·.seedSet) hoff, congrArg (·.cmdEff) hoff,
    fun c => (hcores c).trans (hfresh c)⟩

/-- A START_RUN of a position that the sequence has not completes with BAD_OPERAND. -/
theorem startRun_pastEnd (h : Canonical s) (hrun : Runs s k startRule) (ha : AgreesWithRestore k s) (hpos : seqLen s ≤ k.at 32 2) :
    ∃ t, exec .startRun s = .next t ∧ SameStores s t ∧ RingRegsOnly s t ∧ Completed s t k 2 0 0 :=
  ⟨_, exec_startRun_pastEnd hrun (startDiffers_of_agrees ha) hpos, refused_completeTaken h.regs k 0⟩

end Sys2Proof.Proofs

/-! ### START_RUN at a cue -/

namespace Sys2Proof.Proofs

open Sys2Proof.Machine Sys2Proof.Safety

variable {X : List Nat} {s t u : State} {step pos : Nat}

/-- The end of a step at a cue: the Cold Frames, Wilt Watch and SCN_STEP (R116, R178, R209). -/
def endStepAt (stepEnd : Bool) (s : State) : State :=
  if stepEnd then
    let s := allCores.foldl endFrame s
    let s := if s.controlHalted then s else wiltUpdate s
    s.setFld Fld.SCN_STEP_STEP (s.fld Fld.SCN_STEP_STEP + 1)
  else s

/-- A cue latches the snapshot at the end of a step, and the scene has ended (R116, R359). -/
def sceneEnded (stepEnd : Bool) (s : State) : State :=
  let s := if stepEnd then latchSnap s else s
  { s with tim := { s.tim with sceneOn := false } }

theorem endScene_running (h : s.tim.sceneOn = true) : endScene s =
    sceneEnded (stepEndAt s (s.fld Fld.SCN_SEQ_POS)) (applyCmds (applyPosadd ((endStepAt (stepEndAt s (s.fld Fld.SCN_SEQ_POS)) s).setFld
      Fld.SCN_SEQ_POS (if seqLen s = 0 then 0 else (s.fld Fld.SCN_SEQ_POS + 1) % seqLen s)))) :=
  if_pos h

theorem endScene_idle (h : s.tim.sceneOn = false) : endScene s = applyCmds (applyPosadd s) := if_neg (by simp [h])

theorem Keeps.endStepAt (h : Keeps X s t) (hX : Reg.SCN_STEP ∈ X) (stepEnd : Bool) : Keeps X s (endStepAt stepEnd t) := by
  refine .ite ?_ h
  extract_lets t1 t2
  have h1 : Keeps X s t1 := .foldl _ (fun _ c _ hv => hv.endFrame c) h
  clear_value t1
  have h2 : Keeps X s t2 := .ite h1 h1.wiltUpdate
  clear_value t2
  exact h2.setFldIn hX _

theorem Keeps.sceneEnded (h : Keeps X s t) (stepEnd : Bool) : Keeps X s (sceneEnded stepEnd t) := by
  have h1 : Keeps X s (if stepEnd then Machine.latchSnap t else t) := .ite h.latchSnap h
  exact h1

/-- The cue that ends a scene applies the effect of a START_RUN after it has moved on the step and the position (R116, R299). -/
theorem RunWaits.endScene (h : RunWaits step pos s) (hok : RegsOk s) :
    RegsOk (endScene s) ∧ RunStands step pos (endScene s) ∧ NothingHeld (endScene s) := by
  cases hon : s.tim.sceneOn with
  | false =>
    have hk : Keeps [] s (applyPosadd s) := (Keeps.refl hok).applyPosadd
    rw [endScene_idle hon]
    exact (h.keeps hk (by decide)).applyCmds hk.ok
  | true =>
    have hk : Keeps [Reg.SCN_STEP, Reg.SCN_SEQ] s _ := (((Keeps.refl hok).endStepAt (by decide)
      (stepEndAt s (s.fld Fld.SCN_SEQ_POS))).setFldIn (f := Fld.SCN_SEQ_POS) (by decide)
      (if seqLen s = 0 then 0 else (s.fld Fld.SCN_SEQ_POS + 1) % seqLen s)).applyPosadd
    obtain ⟨hok', hrun, hheld⟩ := (h.keeps hk (by decide)).applyCmds hk.ok
    have hend : Keeps [] _ _ := (Keeps.refl hok').sceneEnded (stepEndAt s (s.fld Fld.SCN_SEQ_POS))
    rw [endScene_running hon]
    exact ⟨hend.ok, hrun.keeps hend.regs (by decide), hend.nothingHeld hheld⟩

/-- What a cue closes before the end of the scene. -/
theorem RunWaits.cueCloses (h : RunWaits step pos s) (hok : RegsOk s) (who : Option Nat) :
    RegsOk (cueCloses who s) ∧ RunStands step pos (cueCloses who s) ∧ NothingHeld (cueCloses who s) := by
  unfold Machine.cueCloses
  extract_lets t1 t2 t3
  have h1 : Keeps [] s t1 := (Keeps.refl hok).sceneStats.fenceStats
  clear_value t1
  have h2 : Keeps [] s t2 := by
    unfold t2
    split
    · exact h1.noteOverrun _
    · exact h1
  clear_value t2
  have h3 : Keeps [] s t3 := .foldl _ (fun _ c _ hv => hv.dropSources c) (.foldl _ (fun _ c _ hv => hv.abandonRegion c) h2)
  clear_value t3
  obtain ⟨hok', hrun, hheld⟩ := (h.keeps h3 (by decide)).endScene h3.ok
  have h4 : Keeps [] (Machine.endScene t3) (allCores.foldl leaveScene (Machine.endScene t3)) :=
    .foldl _ (fun _ c _ hv => hv.leaveScene c) (.refl hok')
  exact ⟨h4.ok, hrun.keeps h4.regs (by decide), h4.nothingHeld hheld⟩

/-- A cue, whatever it marks and starts, applies the effect of a START_RUN and leaves its fields as they then stand. -/
theorem RunWaits.cueSteps (h : RunWaits step pos s) (hok : RegsOk s) (n : Nat) (a : Announce) (hold lost : Bool) :
    RunStands step pos (cueSteps n a hold lost s) := by
  unfold Machine.cueSteps
  extract_lets t1 k who t2 seqBad lenOk scene t3 mask t4 entry fails t5 halted t6 starts t7
  have h1 : Keeps [] s t1 := (Keeps.refl hok).cueSettled
  clear_value t1
  obtain ⟨hok2, hrun, hheld⟩ : RegsOk t2 ∧ RunStands step pos t2 ∧ NothingHeld t2 :=
    (h.keeps h1 (by decide)).cueCloses h1.ok who
  clear_value t2
  have h3 : Keeps [] t2 t3 := ((Keeps.refl hok2).cueMarks lost seqBad lenOk).placeNext n a.len a.scene
  clear_value t3
  have h4 : KeepsRegs [] t2 t4 := h3.applyShadows (h3.nothingHeld hheld) k scene
  clear_value t4
  have h5 : KeepsRegs [Reg.SCN_COUNT] t2 t5 := by
    have hcount : Keeps [Reg.SCN_COUNT] t4 (t4.setFld Fld.SCN_COUNT_SCENE scene) := (Keeps.refl h4.ok).setFldIn (by decide) scene
    have hpower := (powerAtCue_only hcount.ok).regs
    have hhalt := (Keeps.refl hpower.ok (X := [])).cueSendsHalt (fails || entry) who.isSome lost seqBad
    exact (h4.weaken.trans hcount.regs).trans (hpower.trans hhalt.regs).weaken
  clear_value t5
  have h6 : Keeps [] t5 t6 := ((Keeps.refl h5.ok).cueHalts halted).cueHealth
  clear_value t6
  have h7 : Keeps [] t5 t7 := h6.cueOpens scene
  clear_value t7
  have h8 : Keeps [] t5 (if starts then startScene t7 else t7) := .ite h7.startScene h7
  have hend := tickEnds_keepsRegs h8.ok
  refine hrun.keeps (X := [Reg.SCN_COUNT, Reg.XCL_TWIN_STATUS]) ?_ (by decide)
  exact ((h5.mono (by simp)).trans h8.regs.weaken).trans (hend.mono (by simp))

/-- The instant of a cue has come (R29, R35, R36). -/
theorem RunWaits.fireCue (h : RunWaits step pos s) (hok : RegsOk s) (n : Nat) (a : Announce) (hold lost : Bool) :
    RunStands step pos (fireCue n a hold lost s) := by
  unfold Machine.fireCue
  extract_lets t1 ends _ t2
  have h1 : Keeps [] s t1 := (Keeps.refl hok).advanceTo _
  clear_value t1
  have h2 : Keeps [] s t2 := h1
  clear_value t2
  have h3 : Keeps [] s (cuePulse t2) := h2.cuePulse
  exact (h.keeps h3 (by decide)).cueSteps h3.ok n a hold lost

/-- The announced cue fires when it is due. -/
theorem exec_cue_due {a : Announce} {n : Nat} (h : CueDue s a n) : exec .cue s = .next (fireCue n a false s.tim.lockLost s) := by
  obtain ⟨hready, hann, hnext, -⟩ := h
  have hrun : exec .cue s = execCue s := rfl
  rw [hrun, execCue, if_pos hready, hann]
  simp [hnext]

end Sys2Proof.Proofs

section

open Sys2Proof.Machine Sys2Proof.Safety Sys2Proof.Proofs

/-- Settles O41: the command is refused or runs by `startDiffers` and the position, and the fields that the next idle tick or cue writes
from it are not written again before that tick or cue ends. -/
theorem startRunNamesTheRestoredState : Obligations.StartRunNamesTheRestoredState := by
  unfold Obligations.StartRunNamesTheRestoredState
  refine ⟨fun k s h hrun => ⟨fun step pos seed hrest => ⟨fun hstep => ?_, fun hstep hpos => ?_, fun hstep hpos hseed => ?_⟩,
    fun ha => ⟨startRun_runs h hrun ha, startRun_pastEnd h hrun ha⟩⟩,
    fun s step pos h hcmd hh hrest => ⟨fun hr hc hheld => ?_, fun a n hdue _ => ?_⟩⟩
  · exact startRun_differs h hrun ((startDiffers_of_restored hrest).trans (by simp [hstep])) (by decide)
  · exact startRun_differs h hrun ((startDiffers_of_restored hrest).trans (by simp [hstep, hpos])) (by decide)
  · exact startRun_differs h hrun ((startDiffers_of_restored hrest).trans (by simp [hstep, hpos, hseed])) (by decide)
  · exact ⟨_, exec_idleTick hr hc, (RunWaits.mk hcmd hrest hh hheld).idleTick h.regs⟩
  · obtain ⟨-, -, -, -, hheld, -⟩ := id hdue
    exact ⟨_, exec_cue_due hdue, (RunWaits.mk hcmd hrest hh hheld).fireCue h.regs n a false _⟩

end
